-- ==== Sys2Proof/Word.lean ====
section
/-! DEFINITION. The machine's words: bytes, words and doublewords as bit vectors, and the three operand widths
(spec/10_state.md R40, spec/20_memory.md R141). -/

namespace Sys2Proof

/-- An 8-bit byte, the unit of memory (R140). -/
abbrev Byte := BitVec 8

/-- A 16-bit word. -/
abbrev Half := BitVec 16

/-- A 32-bit doubleword. -/
abbrev Word := BitVec 32

/-- The width of an operand: byte, word or doubleword (R300). -/
inductive Size where
  | b
  | w
  | d
  deriving DecidableEq, Repr

/-- The number of bits of an operand of width `z`. -/
abbrev Size.bits : Size → Nat
  | .b => 8
  | .w => 16
  | .d => 32

/-- The number of bytes of an operand of width `z`. -/
abbrev Size.bytes : Size → Nat
  | .b => 1
  | .w => 2
  | .d => 4

/-- A value of the width `z`. -/
abbrev Size.Val (z : Size) := BitVec z.bits

end Sys2Proof
end

