-- ==== Sys2Proof/Config.lean ====
section
/-! DEFINITION. What an implementation or the platform fixes, and the values the spec leaves open.
An `opaque` constant has no body: nothing can be proved about its value. A constant whose argument is a `Nat` is
applied to the number of the draw (`State.draws`), so that every use is a fresh value (spec/93_implementation_defined.md,
treatment 'any value'). -/

namespace Sys2Proof

/-- A flag that an instruction leaves undefined (U1), or a bit the spec does not state (log entry 12). -/
opaque Config.freeBit : Nat → Bool

/-- A value the spec leaves open, of at most 32 bits (U2, U6, U7, U9, U21, U29; log entries 12 to 14). -/
opaque Config.freeWord : Nat → Word

/-- What the platform puts on the bus for a byte of physical memory that nothing is mapped at (R271, U33;
log entry 15). -/
opaque Config.busByte : Nat → Byte

/-- What the platform answers a port read with (R270, U33; log entry 16). -/
opaque Config.portValue : Nat → Word

/-- Which of the eight sets of the TLB a linear page belongs to (R130; log entry 18). -/
opaque Config.tlbSet : BitVec 20 → BitVec 3

/-- The paging unit's internal pointer, which picks the TLB block when TR7.PL = 0 (R248; log entry 19). -/
opaque Config.tlbPointer : Nat → BitVec 2

/-- Whether a breakpoint whose DR7 fields hold an encoding the spec calls undefined matches (U23; log entry 24). -/
opaque Config.undefinedBreakpoint : Nat → Bool

/-- The parameter `SelfTest` of R8: what the self-test leaves in EAX, 0 when it passed (R1050; log entry 54). -/
opaque Config.selfTest : Nat → Word

/-- The parameter `PrefetchMax` of R8: the greatest number of bytes that may have been fetched ahead (log entry 17). -/
opaque Config.prefetchMax : Nat

/-- The parameter `RevisionId` of R8, the reset value of DL (U32): a named value, log entry 2 (DESIGN CHOICE). -/
def Config.revisionId : Byte := 0

/-- What a byte of physical memory that nothing has written reads as (log entry 6, DESIGN CHOICE). -/
def Config.unwritten : Byte := 0

end Sys2Proof
end

