-- ==== Sys2Proof/Syntax.lean ====
section
/-! DEFINITION. The abstract syntax: registers, memory operands and one constructor per row of
spec/opcode_table.json (spec/30_encoding.md). -/

namespace Sys2Proof

/-- A general register number 0 to 7, named after the doubleword register (R311).
With a byte operand the numbers 4 to 7 name AH, CH, DH, BH; with a word operand they name the low halves. -/
inductive Reg where
  | eax
  | ecx
  | edx
  | ebx
  | esp
  | ebp
  | esi
  | edi
  deriving DecidableEq, Repr

/-- A segment register: ES = 0, CS = 1, SS = 2, DS = 3, FS = 4, GS = 5 (R311). -/
inductive SReg where
  | es
  | cs
  | ss
  | ds
  | fs
  | gs
  deriving DecidableEq, Repr

/-- A control register that MOV can name: 000 CR0, 010 CR2, 011 CR3 (R311). -/
inductive CrReg where
  | cr0
  | cr2
  | cr3
  deriving DecidableEq, Repr

/-- A debug register that MOV can name: 000 to 011 DR0 to DR3, 110 DR6, 111 DR7 (R311). -/
inductive DrReg where
  | dr0
  | dr1
  | dr2
  | dr3
  | dr6
  | dr7
  deriving DecidableEq, Repr

/-- A test register that MOV can name: 110 TR6, 111 TR7 (R311). -/
inductive TrReg where
  | tr6
  | tr7
  deriving DecidableEq, Repr

/-- The operand-size attribute (R305). -/
inductive OSize where
  | o16
  | o32
  deriving DecidableEq, Repr

/-- The width of a `v`-typed operand under an operand size (R305). -/
abbrev OSize.size : OSize → Size
  | .o16 => .w
  | .o32 => .d

/-- The address-size attribute (R305). -/
inductive ASize where
  | a16
  | a32
  deriving DecidableEq, Repr

/-- The register part of a 16-bit effective address, the r/m column of R312. -/
inductive Base16 where
  | bxSi
  | bxDi
  | bpSi
  | bpDi
  | si
  | di
  | bp
  | bx
  deriving DecidableEq, Repr

/-- The displacement of a 16-bit effective address: mod 00, 01 and 10 of R312. -/
inductive Disp16 where
  | none
  | d8 (d : BitVec 8)
  | d16 (d : BitVec 16)
  deriving DecidableEq, Repr

/-- The displacement of a 32-bit effective address: mod 00, 01 and 10 of R314. -/
inductive Disp32 where
  | none
  | d8 (d : BitVec 8)
  | d32 (d : BitVec 32)
  deriving DecidableEq, Repr

/-- The effective-address forms of the ModR/M and SIB bytes (R312, R314, R315). -/
inductive Ea where
  /-- A 16-bit form with registers (R312). -/
  | m16 (b : Base16) (d : Disp16)
  /-- disp16 alone: mod 00, r/m 110 of R312. -/
  | abs16 (d : BitVec 16)
  /-- A 32-bit form without SIB (R314). -/
  | m32 (b : Reg) (d : Disp32)
  /-- disp32 alone: mod 00, r/m 101 of R314. -/
  | abs32 (d : BitVec 32)
  /-- A SIB form with a base register (R315); the index number 100 (`Reg.esp`) means no index. -/
  | sib (ss : BitVec 2) (x : Reg) (b : Reg) (d : Disp32)
  /-- A SIB form with base = 101 and mod = 00: disp32 and no base register (R315). -/
  | sibAbs (ss : BitVec 2) (x : Reg) (d : BitVec 32)
  deriving DecidableEq, Repr

/-- An r/m operand: a register (mod = 11) or memory (R310). -/
inductive Rm where
  | reg (r : Reg)
  | mem (ea : Ea)
  deriving DecidableEq, Repr

/-- A moffs operand: the offset written in the instruction, of the address size (R320). -/
inductive Moffs where
  | p16 (off : BitVec 16)
  | p32 (off : BitVec 32)
  deriving DecidableEq, Repr

/-- The encodings of a two-operand arithmetic or logical instruction, one per row of the opcode table:
`00 /r`, `01 /r`, `02 /r`, `03 /r`, `04 ib`, `05 iw`, `05 id`, `80 /0 ib`, `81 /0 iw`, `81 /0 id`, `83 /0 ib`
for ADD, and the same pattern for the seven others (R340). -/
inductive AluForm where
  | rm8R8 (rm : Rm) (r : Reg)
  | rmvRv (o : OSize) (rm : Rm) (r : Reg)
  | r8Rm8 (r : Reg) (rm : Rm)
  | rvRmv (o : OSize) (r : Reg) (rm : Rm)
  | alImm8 (i : BitVec 8)
  | axImm16 (i : BitVec 16)
  | eaxImm32 (i : BitVec 32)
  | rm8Imm8 (rm : Rm) (i : BitVec 8)
  | rm16Imm16 (rm : Rm) (i : BitVec 16)
  | rm32Imm32 (rm : Rm) (i : BitVec 32)
  | rmvImm8 (o : OSize) (rm : Rm) (i : BitVec 8)
  deriving DecidableEq, Repr

/-- The encodings of a shift or rotate, one per row of the opcode table: `D0 /n`, `D2 /n`, `C0 /n ib`, `D1 /n`,
`D3 /n`, `C1 /n ib` (R340). -/
inductive ShiftForm where
  | rm8One (rm : Rm)
  | rm8Cl (rm : Rm)
  | rm8Imm8 (rm : Rm) (i : BitVec 8)
  | rmvOne (o : OSize) (rm : Rm)
  | rmvCl (o : OSize) (rm : Rm)
  | rmvImm8 (o : OSize) (rm : Rm) (i : BitVec 8)
  deriving DecidableEq, Repr

/-- The encodings of a conditional jump, one per row of the opcode table: `7x cb`, `0F 8x cw`, `0F 8x cd` (R340,
R341). -/
inductive JccForm where
  | rel8 (o : OSize) (d : BitVec 8)
  | rel16 (d : BitVec 16)
  | rel32 (d : BitVec 32)
  deriving DecidableEq, Repr

/-- The sixteen conditions of the tttn field (R330). -/
inductive Cond where
  | o
  | no
  | b
  | ae
  | e
  | ne
  | be
  | a
  | s
  | ns
  | p
  | np
  | l
  | ge
  | le
  | g
  deriving DecidableEq, Repr


/-- One instruction: a constructor for each row of the opcode table, in the table's notation (R300).
Three kinds of rows that differ only in where the operands stand share a constructor whose argument names the
row (`AluForm`, `ShiftForm`, `JccForm`): Lean's code generator admits at most 244 constructors with fields in
one type, and the table has 437 rows.
`o` is the operand size and `a` the address size the instruction was decoded under (R305). -/
inductive Instr where
  /-- ADD, its eleven encodings -/
  | add (f : AluForm)
  /-- OR, its eleven encodings -/
  | or (f : AluForm)
  /-- ADC, its eleven encodings -/
  | adc (f : AluForm)
  /-- SBB, its eleven encodings -/
  | sbb (f : AluForm)
  /-- AND, its eleven encodings -/
  | and (f : AluForm)
  /-- SUB, its eleven encodings -/
  | sub (f : AluForm)
  /-- XOR, its eleven encodings -/
  | xor (f : AluForm)
  /-- CMP, its eleven encodings -/
  | cmp (f : AluForm)
  /-- ROL, its six encodings -/
  | rol (f : ShiftForm)
  /-- ROR, its six encodings -/
  | ror (f : ShiftForm)
  /-- RCL, its six encodings -/
  | rcl (f : ShiftForm)
  /-- RCR, its six encodings -/
  | rcr (f : ShiftForm)
  /-- SHL, its six encodings -/
  | shl (f : ShiftForm)
  /-- SHR, its six encodings -/
  | shr (f : ShiftForm)
  /-- SAR, its six encodings -/
  | sar (f : ShiftForm)
  /-- JO, opcodes 70 and 0F 80 -/
  | jo (f : JccForm)
  /-- JNO, opcodes 71 and 0F 81 -/
  | jno (f : JccForm)
  /-- JB_C_NAE, opcodes 72 and 0F 82 -/
  | jb (f : JccForm)
  /-- JAE_NB_NC, opcodes 73 and 0F 83 -/
  | jae (f : JccForm)
  /-- JE_Z, opcodes 74 and 0F 84 -/
  | je (f : JccForm)
  /-- JNE_NZ, opcodes 75 and 0F 85 -/
  | jne (f : JccForm)
  /-- JBE_NA, opcodes 76 and 0F 86 -/
  | jbe (f : JccForm)
  /-- JA_NBE, opcodes 77 and 0F 87 -/
  | ja (f : JccForm)
  /-- JS, opcodes 78 and 0F 88 -/
  | js (f : JccForm)
  /-- JNS, opcodes 79 and 0F 89 -/
  | jns (f : JccForm)
  /-- JP_PE, opcodes 7A and 0F 8A -/
  | jp (f : JccForm)
  /-- JNP_PO, opcodes 7B and 0F 8B -/
  | jnp (f : JccForm)
  /-- JL_NGE, opcodes 7C and 0F 8C -/
  | jl (f : JccForm)
  /-- JGE_NL, opcodes 7D and 0F 8D -/
  | jge (f : JccForm)
  /-- JLE_NG, opcodes 7E and 0F 8E -/
  | jle (f : JccForm)
  /-- JG_NLE, opcodes 7F and 0F 8F -/
  | jg (f : JccForm)
  /-- `88 /r` MOV r/m8,r8 -/
  | movRm8R8 (rm : Rm) (r : Reg)
  /-- `89 /r` MOV r/m16,r16 | r/m32,r32 -/
  | movRmvRv (o : OSize) (rm : Rm) (r : Reg)
  /-- `8A /r` MOV r8,r/m8 -/
  | movR8Rm8 (r : Reg) (rm : Rm)
  /-- `8B /r` MOV r16,r/m16 | r32,r/m32 -/
  | movRvRmv (o : OSize) (r : Reg) (rm : Rm)
  /-- `8C /r` MOV r/m16,Sreg -/
  | movRmvSreg (o : OSize) (rm : Rm) (sr : SReg)
  /-- `8E /r` MOV Sreg,r/m16 -/
  | movSregRm16 (sr : SReg) (rm : Rm)
  /-- `A0 moffs` MOV AL,moffs8 -/
  | movAlMoffs8 (p : Moffs)
  /-- `A1 moffs` MOV AX,moffs16 | EAX,moffs32 -/
  | movAccMoffs (o : OSize) (p : Moffs)
  /-- `A2 moffs` MOV moffs8,AL -/
  | movMoffs8Al (p : Moffs)
  /-- `A3 moffs` MOV moffs16,AX | moffs32,EAX -/
  | movMoffsAcc (o : OSize) (p : Moffs)
  /-- `B0+rb ib` MOV reg8,imm8 -/
  | movR8Imm8 (r : Reg) (i : BitVec 8)
  /-- `B8+rw iw` MOV reg16,imm16 -/
  | movR16Imm16 (r : Reg) (i : BitVec 16)
  /-- `B8+rd id` MOV reg32,imm32 -/
  | movR32Imm32 (r : Reg) (i : BitVec 32)
  /-- `C6 /0 ib` MOV r/m8,imm8 -/
  | movRm8Imm8 (rm : Rm) (i : BitVec 8)
  /-- `C7 /0 iw` MOV r/m16,imm16 -/
  | movRm16Imm16 (rm : Rm) (i : BitVec 16)
  /-- `C7 /0 id` MOV r/m32,imm32 -/
  | movRm32Imm32 (rm : Rm) (i : BitVec 32)
  /-- `0F 20 /r` MOV r32,CR0/CR2/CR3 -/
  | movR32Cr (r : Reg) (cr : CrReg)
  /-- `0F 21 /r` MOV r32,DR0-3/DR6/DR7 -/
  | movR32Dr (r : Reg) (dr : DrReg)
  /-- `0F 22 /r` MOV CR0/CR2/CR3,r32 -/
  | movCrR32 (cr : CrReg) (r : Reg)
  /-- `0F 23 /r` MOV DR0-3/DR6/DR7,r32 -/
  | movDrR32 (dr : DrReg) (r : Reg)
  /-- `0F 24 /r` MOV r32,TR6/TR7 -/
  | movR32Tr (r : Reg) (tr : TrReg)
  /-- `0F 26 /r` MOV TR6/TR7,r32 -/
  | movTrR32 (tr : TrReg) (r : Reg)
  /-- `8D /r` LEA r16,m | r32,m -/
  | lea (o : OSize) (r : Reg) (ea : Ea)
  /-- `C5 /r` LDS r16,m16:16 | r32,m16:32 -/
  | lds (o : OSize) (r : Reg) (ea : Ea)
  /-- `C4 /r` LES r16,m16:16 | r32,m16:32 -/
  | les (o : OSize) (r : Reg) (ea : Ea)
  /-- `0F B2 /r` LSS r16,m16:16 | r32,m16:32 -/
  | lss (o : OSize) (r : Reg) (ea : Ea)
  /-- `0F B4 /r` LFS r16,m16:16 | r32,m16:32 -/
  | lfs (o : OSize) (r : Reg) (ea : Ea)
  /-- `0F B5 /r` LGS r16,m16:16 | r32,m16:32 -/
  | lgs (o : OSize) (r : Reg) (ea : Ea)
  /-- `0F BE /r` MOVSX r16,r/m8 | r32,r/m8 -/
  | movsxRvRm8 (o : OSize) (r : Reg) (rm : Rm)
  /-- `0F BF /r` MOVSX r32,r/m16 -/
  | movsxRvRm16 (o : OSize) (r : Reg) (rm : Rm)
  /-- `0F B6 /r` MOVZX r16,r/m8 | r32,r/m8 -/
  | movzxRvRm8 (o : OSize) (r : Reg) (rm : Rm)
  /-- `0F B7 /r` MOVZX r32,r/m16 -/
  | movzxRvRm16 (o : OSize) (r : Reg) (rm : Rm)
  /-- `90+rw` XCHG AX,r16 | r16,AX -/
  | xchgAxR16 (r : Reg)
  /-- `90+rd` XCHG EAX,r32 | r32,EAX -/
  | xchgEaxR32 (r : Reg)
  /-- `86 /r` XCHG r/m8,r8 | r8,r/m8 -/
  | xchgRm8R8 (rm : Rm) (r : Reg)
  /-- `87 /r` XCHG r/m16,r16 | r/m32,r32 -/
  | xchgRmvRv (o : OSize) (rm : Rm) (r : Reg)
  /-- `8F /0` POP m16 | m32 -/
  | popRmv (o : OSize) (rm : Rm)
  /-- `58+rw` POP r16 -/
  | popR16 (r : Reg)
  /-- `58+rd` POP r32 -/
  | popR32 (r : Reg)
  /-- `1F` POP DS -/
  | popDs (o : OSize)
  /-- `07` POP ES -/
  | popEs (o : OSize)
  /-- `17` POP SS -/
  | popSs (o : OSize)
  /-- `0F A1` POP FS -/
  | popFs (o : OSize)
  /-- `0F A9` POP GS -/
  | popGs (o : OSize)
  /-- `FF /6` PUSH m16 | m32 -/
  | pushRmv (o : OSize) (rm : Rm)
  /-- `50+rw` PUSH r16 -/
  | pushR16 (r : Reg)
  /-- `50+rd` PUSH r32 -/
  | pushR32 (r : Reg)
  /-- `6A ib` PUSH imm8 -/
  | pushImm8 (o : OSize) (i : BitVec 8)
  /-- `68 iw` PUSH imm16 -/
  | pushImm16 (i : BitVec 16)
  /-- `68 id` PUSH imm32 -/
  | pushImm32 (i : BitVec 32)
  /-- `0E` PUSH CS -/
  | pushCs (o : OSize)
  /-- `16` PUSH SS -/
  | pushSs (o : OSize)
  /-- `1E` PUSH DS -/
  | pushDs (o : OSize)
  /-- `06` PUSH ES -/
  | pushEs (o : OSize)
  /-- `0F A0` PUSH FS -/
  | pushFs (o : OSize)
  /-- `0F A8` PUSH GS -/
  | pushGs (o : OSize)
  /-- `D7` XLAT m8 (XLATB) -/
  | xlat (a : ASize)
  /-- `FE /0` INC r/m8 -/
  | incRm8 (rm : Rm)
  /-- `FF /0` INC r/m16 | r/m32 -/
  | incRmv (o : OSize) (rm : Rm)
  /-- `40+rw` INC r16 -/
  | incR16 (r : Reg)
  /-- `40+rd` INC r32 -/
  | incR32 (r : Reg)
  /-- `FE /1` DEC r/m8 -/
  | decRm8 (rm : Rm)
  /-- `FF /1` DEC r/m16 | r/m32 -/
  | decRmv (o : OSize) (rm : Rm)
  /-- `48+rw` DEC r16 -/
  | decR16 (r : Reg)
  /-- `48+rd` DEC r32 -/
  | decR32 (r : Reg)
  /-- `F6 /0 ib` TEST r/m8,imm8 -/
  | testRm8Imm8 (rm : Rm) (i : BitVec 8)
  /-- `F7 /0 iw` TEST r/m16,imm16 -/
  | testRm16Imm16 (rm : Rm) (i : BitVec 16)
  /-- `F7 /0 id` TEST r/m32,imm32 -/
  | testRm32Imm32 (rm : Rm) (i : BitVec 32)
  /-- `A8 ib` TEST AL,imm8 -/
  | testAlImm8 (i : BitVec 8)
  /-- `A9 iw` TEST AX,imm16 -/
  | testAxImm16 (i : BitVec 16)
  /-- `A9 id` TEST EAX,imm32 -/
  | testEaxImm32 (i : BitVec 32)
  /-- `84 /r` TEST r/m8,r8 -/
  | testRm8R8 (rm : Rm) (r : Reg)
  /-- `85 /r` TEST r/m16,r16 | r/m32,r32 -/
  | testRmvRv (o : OSize) (rm : Rm) (r : Reg)
  /-- `F6 /2` NOT r/m8 -/
  | notRm8 (rm : Rm)
  /-- `F7 /2` NOT r/m16 | r/m32 -/
  | notRmv (o : OSize) (rm : Rm)
  /-- `F6 /3` NEG r/m8 -/
  | negRm8 (rm : Rm)
  /-- `F7 /3` NEG r/m16 | r/m32 -/
  | negRmv (o : OSize) (rm : Rm)
  /-- `F6 /4` MUL r/m8 -/
  | mulRm8 (rm : Rm)
  /-- `F7 /4` MUL r/m16 | r/m32 -/
  | mulRmv (o : OSize) (rm : Rm)
  /-- `F6 /5` IMUL r/m8 -/
  | imulRm8 (rm : Rm)
  /-- `F7 /5` IMUL r/m16 | r/m32 -/
  | imulRmv (o : OSize) (rm : Rm)
  /-- `F6 /6` DIV r/m8 -/
  | divRm8 (rm : Rm)
  /-- `F7 /6` DIV r/m16 | r/m32 -/
  | divRmv (o : OSize) (rm : Rm)
  /-- `F6 /7` IDIV r/m8 -/
  | idivRm8 (rm : Rm)
  /-- `F7 /7` IDIV r/m16 | r/m32 -/
  | idivRmv (o : OSize) (rm : Rm)
  /-- `0F AF /r` IMUL r16,r/m16 | r32,r/m32 -/
  | imulRvRmv (o : OSize) (r : Reg) (rm : Rm)
  /-- `6B /r ib` IMUL r16,r/m16,imm8 | r32,r/m32,imm8 -/
  | imulRvRmvImm8 (o : OSize) (r : Reg) (rm : Rm) (i : BitVec 8)
  /-- `69 /r iw` IMUL r16,r/m16,imm16 -/
  | imulR16Rm16Imm16 (r : Reg) (rm : Rm) (i : BitVec 16)
  /-- `69 /r id` IMUL r32,r/m32,imm32 -/
  | imulR32Rm32Imm32 (r : Reg) (rm : Rm) (i : BitVec 32)
  /-- `0F BC /r` BSF r16,r/m16 | r32,r/m32 -/
  | bsf (o : OSize) (r : Reg) (rm : Rm)
  /-- `0F BD /r` BSR r16,r/m16 | r32,r/m32 -/
  | bsr (o : OSize) (r : Reg) (rm : Rm)
  /-- `0F A3 /r` BT r/m16,r16 | r/m32,r32 -/
  | btRmvRv (o : OSize) (rm : Rm) (r : Reg)
  /-- `0F BA /4 ib` BT r/m16,imm8 | r/m32,imm8 -/
  | btRmvImm8 (o : OSize) (rm : Rm) (i : BitVec 8)
  /-- `0F AB /r` BTS r/m16,r16 | r/m32,r32 -/
  | btsRmvRv (o : OSize) (rm : Rm) (r : Reg)
  /-- `0F BA /5 ib` BTS r/m16,imm8 | r/m32,imm8 -/
  | btsRmvImm8 (o : OSize) (rm : Rm) (i : BitVec 8)
  /-- `0F B3 /r` BTR r/m16,r16 | r/m32,r32 -/
  | btrRmvRv (o : OSize) (rm : Rm) (r : Reg)
  /-- `0F BA /6 ib` BTR r/m16,imm8 | r/m32,imm8 -/
  | btrRmvImm8 (o : OSize) (rm : Rm) (i : BitVec 8)
  /-- `0F BB /r` BTC r/m16,r16 | r/m32,r32 -/
  | btcRmvRv (o : OSize) (rm : Rm) (r : Reg)
  /-- `0F BA /7 ib` BTC r/m16,imm8 | r/m32,imm8 -/
  | btcRmvImm8 (o : OSize) (rm : Rm) (i : BitVec 8)
  /-- `0F 90 /r` SETO r/m8 -/
  | seto (rm : Rm)
  /-- `0F 91 /r` SETNO r/m8 -/
  | setno (rm : Rm)
  /-- `0F 92 /r` SETB_C_NAE r/m8 -/
  | setb (rm : Rm)
  /-- `0F 93 /r` SETAE_NB_NC r/m8 -/
  | setae (rm : Rm)
  /-- `0F 94 /r` SETE_Z r/m8 -/
  | sete (rm : Rm)
  /-- `0F 95 /r` SETNE_NZ r/m8 -/
  | setne (rm : Rm)
  /-- `0F 96 /r` SETBE_NA r/m8 -/
  | setbe (rm : Rm)
  /-- `0F 97 /r` SETA_NBE r/m8 -/
  | seta (rm : Rm)
  /-- `0F 98 /r` SETS r/m8 -/
  | sets (rm : Rm)
  /-- `0F 99 /r` SETNS r/m8 -/
  | setns (rm : Rm)
  /-- `0F 9A /r` SETP_PE r/m8 -/
  | setp (rm : Rm)
  /-- `0F 9B /r` SETNP_PO r/m8 -/
  | setnp (rm : Rm)
  /-- `0F 9C /r` SETL_NGE r/m8 -/
  | setl (rm : Rm)
  /-- `0F 9D /r` SETGE_NL r/m8 -/
  | setge (rm : Rm)
  /-- `0F 9E /r` SETLE_NG r/m8 -/
  | setle (rm : Rm)
  /-- `0F 9F /r` SETG_NLE r/m8 -/
  | setg (rm : Rm)
  /-- `0F A4 /r ib` SHLD r/m16,r16,imm8 | r/m32,r32,imm8 -/
  | shldRmvRvImm8 (o : OSize) (rm : Rm) (r : Reg) (i : BitVec 8)
  /-- `0F A5 /r` SHLD r/m16,r16,CL | r/m32,r32,CL -/
  | shldRmvRvCl (o : OSize) (rm : Rm) (r : Reg)
  /-- `0F AC /r ib` SHRD r/m16,r16,imm8 | r/m32,r32,imm8 -/
  | shrdRmvRvImm8 (o : OSize) (rm : Rm) (r : Reg) (i : BitVec 8)
  /-- `0F AD /r` SHRD r/m16,r16,CL | r/m32,r32,CL -/
  | shrdRmvRvCl (o : OSize) (rm : Rm) (r : Reg)
  /-- `62 /r` BOUND r16,m16&16 | r32,m32&32 -/
  | bound (o : OSize) (r : Reg) (ea : Ea)
  /-- `E8 cw` CALL rel16 -/
  | callRel16 (d : BitVec 16)
  /-- `E8 cd` CALL rel32 -/
  | callRel32 (d : BitVec 32)
  /-- `FF /2` CALL r/m16 | r/m32 -/
  | callRmv (o : OSize) (rm : Rm)
  /-- `9A cd` CALL ptr16:16 -/
  | callPtr16 (sel : BitVec 16) (off : BitVec 16)
  /-- `9A cp` CALL ptr16:32 -/
  | callPtr32 (sel : BitVec 16) (off : BitVec 32)
  /-- `FF /3` CALL m16:16 | m16:32 -/
  | callFarM (o : OSize) (ea : Ea)
  /-- `CD ib` INT imm8 -/
  | intImm8 (i : BitVec 8)
  /-- `E3 cb` JCXZ rel8 -/
  | jcxz (o : OSize) (d : BitVec 8)
  /-- `E3 cb` JECXZ rel8 -/
  | jecxz (o : OSize) (d : BitVec 8)
  /-- `EB cb` JMP rel8 -/
  | jmpRel8 (o : OSize) (d : BitVec 8)
  /-- `E9 cw` JMP rel16 -/
  | jmpRel16 (d : BitVec 16)
  /-- `E9 cd` JMP rel32 -/
  | jmpRel32 (d : BitVec 32)
  /-- `FF /4` JMP r/m16 | r/m32 -/
  | jmpRmv (o : OSize) (rm : Rm)
  /-- `EA cd` JMP ptr16:16 -/
  | jmpPtr16 (sel : BitVec 16) (off : BitVec 16)
  /-- `EA cp` JMP ptr16:32 -/
  | jmpPtr32 (sel : BitVec 16) (off : BitVec 32)
  /-- `FF /5` JMP m16:16 | m16:32 -/
  | jmpFarM (o : OSize) (ea : Ea)
  /-- `E2 cb` LOOP rel8 -/
  | loop (o : OSize) (a : ASize) (d : BitVec 8)
  /-- `E1 cb` LOOPE_LOOPZ rel8 -/
  | loope (o : OSize) (a : ASize) (d : BitVec 8)
  /-- `E0 cb` LOOPNE_LOOPNZ rel8 -/
  | loopne (o : OSize) (a : ASize) (d : BitVec 8)
  /-- `C3` RET (near) -/
  | retNear (o : OSize)
  /-- `C2 iw` RET imm16 (near) -/
  | retNearImm16 (o : OSize) (i : BitVec 16)
  /-- `CB` RET (far) -/
  | retFar (o : OSize)
  /-- `CA iw` RET imm16 (far) -/
  | retFarImm16 (o : OSize) (i : BitVec 16)
  /-- `A4` MOVSB -/
  | movsb (a : ASize)
  /-- `A5` MOVSW -/
  | movsw (a : ASize)
  /-- `A5` MOVSD -/
  | movsd (a : ASize)
  /-- `A6` CMPSB -/
  | cmpsb (a : ASize)
  /-- `A7` CMPSW -/
  | cmpsw (a : ASize)
  /-- `A7` CMPSD -/
  | cmpsd (a : ASize)
  /-- `AA` STOSB -/
  | stosb (a : ASize)
  /-- `AB` STOSW -/
  | stosw (a : ASize)
  /-- `AB` STOSD -/
  | stosd (a : ASize)
  /-- `AC` LODSB -/
  | lodsb (a : ASize)
  /-- `AD` LODSW -/
  | lodsw (a : ASize)
  /-- `AD` LODSD -/
  | lodsd (a : ASize)
  /-- `AE` SCASB -/
  | scasb (a : ASize)
  /-- `AF` SCASW -/
  | scasw (a : ASize)
  /-- `AF` SCASD -/
  | scasd (a : ASize)
  /-- `6C` INSB -/
  | insb (a : ASize)
  /-- `6D` INSW -/
  | insw (a : ASize)
  /-- `6D` INSD -/
  | insd (a : ASize)
  /-- `6E` OUTSB -/
  | outsb (a : ASize)
  /-- `6F` OUTSW -/
  | outsw (a : ASize)
  /-- `6F` OUTSD -/
  | outsd (a : ASize)
  /-- `E4 ib` IN AL,imm8 -/
  | inAlImm8 (i : BitVec 8)
  /-- `E5 ib` IN AX,imm8 | EAX,imm8 -/
  | inAccImm8 (o : OSize) (i : BitVec 8)
  /-- `ED` IN AX,DX | EAX,DX -/
  | inAccDx (o : OSize)
  /-- `E6 ib` OUT imm8,AL -/
  | outImm8Al (i : BitVec 8)
  /-- `E7 ib` OUT imm8,AX | imm8,EAX -/
  | outImm8Acc (o : OSize) (i : BitVec 8)
  /-- `EF` OUT DX,AX | DX,EAX -/
  | outDxAcc (o : OSize)
  /-- `C9` LEAVE -/
  | leave (o : OSize)
  /-- `C8 iw ib` ENTER imm16,imm8 -/
  | enter (o : OSize) (n : BitVec 16) (lvl : BitVec 8)
  /-- `D8 /r` ESC m | (register form) -/
  | escD8 (op : BitVec 3) (rm : Rm)
  /-- `D9 /r` ESC m | (register form) -/
  | escD9 (op : BitVec 3) (rm : Rm)
  /-- `DA /r` ESC m | (register form) -/
  | escDA (op : BitVec 3) (rm : Rm)
  /-- `DB /r` ESC m | (register form) -/
  | escDB (op : BitVec 3) (rm : Rm)
  /-- `DC /r` ESC m | (register form) -/
  | escDC (op : BitVec 3) (rm : Rm)
  /-- `DD /r` ESC m | (register form) -/
  | escDD (op : BitVec 3) (rm : Rm)
  /-- `DE /r` ESC m | (register form) -/
  | escDE (op : BitVec 3) (rm : Rm)
  /-- `DF /r` ESC m | (register form) -/
  | escDF (op : BitVec 3) (rm : Rm)
  /-- `63 /r` ARPL r/m16,r16 -/
  | arpl (rm : Rm) (r : Reg)
  /-- `0F 02 /r` LAR r16,r/m16 | r32,r/m32 -/
  | lar (o : OSize) (r : Reg) (rm : Rm)
  /-- `0F 03 /r` LSL r16,r/m16 | r32,r/m32 -/
  | lsl (o : OSize) (r : Reg) (rm : Rm)
  /-- `0F 01 /0` SGDT m -/
  | sgdt (o : OSize) (ea : Ea)
  /-- `0F 01 /1` SIDT m -/
  | sidt (o : OSize) (ea : Ea)
  /-- `0F 01 /2` LGDT m16&32 -/
  | lgdt (o : OSize) (ea : Ea)
  /-- `0F 01 /3` LIDT m16&32 -/
  | lidt (o : OSize) (ea : Ea)
  /-- `0F 01 /4` SMSW r/m16 -/
  | smsw (o : OSize) (rm : Rm)
  /-- `0F 01 /6` LMSW r/m16 -/
  | lmsw (rm : Rm)
  /-- `0F 00 /0` SLDT r/m16 -/
  | sldt (o : OSize) (rm : Rm)
  /-- `0F 00 /1` STR r/m16 -/
  | str (o : OSize) (rm : Rm)
  /-- `0F 00 /2` LLDT r/m16 -/
  | lldt (rm : Rm)
  /-- `0F 00 /3` LTR r/m16 -/
  | ltr (rm : Rm)
  /-- `0F 00 /4` VERR r/m16 -/
  | verr (rm : Rm)
  /-- `0F 00 /5` VERW r/m16 -/
  | verw (rm : Rm)
  /-- `F6 /1` (reserved) Intel reserved, no #UD; model refuses -/
  | reservedF6 (rm : Rm)
  /-- `F7 /1` (reserved) Intel reserved, no #UD; model refuses -/
  | reservedF7 (rm : Rm)
  /-- `C0 /6` (reserved) Intel reserved, no #UD; model refuses -/
  | reservedC0 (rm : Rm)
  /-- `C1 /6` (reserved) Intel reserved, no #UD; model refuses -/
  | reservedC1 (rm : Rm)
  /-- `D0 /6` (reserved) Intel reserved, no #UD; model refuses -/
  | reservedD0 (rm : Rm)
  /-- `D1 /6` (reserved) Intel reserved, no #UD; model refuses -/
  | reservedD1 (rm : Rm)
  /-- `D2 /6` (reserved) Intel reserved, no #UD; model refuses -/
  | reservedD2 (rm : Rm)
  /-- `D3 /6` (reserved) Intel reserved, no #UD; model refuses -/
  | reservedD3 (rm : Rm)
  /-- `82` (reserved) Intel reserved, no #UD; model refuses -/
  | reserved82
  /-- `D6` (reserved) Intel reserved, no #UD; model refuses -/
  | reservedD6
  /-- `F1` (reserved) Intel reserved, no #UD; model refuses -/
  | reservedF1
  /-- `0F 07` (reserved) Intel reserved, no #UD; model refuses -/
  | reserved0F07
  /-- `0F 10` (reserved) Intel reserved, no #UD; model refuses -/
  | reserved0F10
  /-- `0F 11` (reserved) Intel reserved, no #UD; model refuses -/
  | reserved0F11
  /-- `0F 12` (reserved) Intel reserved, no #UD; model refuses -/
  | reserved0F12
  /-- `0F 13` (reserved) Intel reserved, no #UD; model refuses -/
  | reserved0F13
  /-- `98` CBW -/
  | cbw
  /-- `98` CWDE -/
  | cwde
  /-- `99` CWD -/
  | cwd
  /-- `99` CDQ -/
  | cdq
  /-- `61` POPA -/
  | popa
  /-- `61` POPAD -/
  | popad
  /-- `60` PUSHA -/
  | pusha
  /-- `60` PUSHAD -/
  | pushad
  /-- `37` AAA -/
  | aaa
  /-- `D5 0A` AAD -/
  | aad
  /-- `D4 0A` AAM -/
  | aam
  /-- `3F` AAS -/
  | aas
  /-- `27` DAA -/
  | daa
  /-- `2F` DAS -/
  | das
  /-- `EC` IN AL,DX -/
  | inAlDx
  /-- `EE` OUT DX,AL -/
  | outDxAl
  /-- `CC` INT 3 -/
  | int3
  /-- `CE` INTO -/
  | into
  /-- `CF` IRET -/
  | iret
  /-- `CF` IRETD -/
  | iretd
  /-- `F8` CLC -/
  | clc
  /-- `FC` CLD -/
  | cld
  /-- `FA` CLI -/
  | cli
  /-- `F5` CMC -/
  | cmc
  /-- `9F` LAHF -/
  | lahf
  /-- `9E` SAHF -/
  | sahf
  /-- `F9` STC -/
  | stc
  /-- `FD` STD -/
  | std
  /-- `FB` STI -/
  | sti
  /-- `90` NOP -/
  | nop
  /-- `9B` WAIT -/
  | wait
  /-- `F4` HLT -/
  | hlt
  /-- `9D` POPF -/
  | popf
  /-- `9D` POPFD -/
  | popfd
  /-- `9C` PUSHF -/
  | pushf
  /-- `9C` PUSHFD -/
  | pushfd
  /-- `0F 06` CLTS -/
  | clts
  /-- `F0` LOCK (prefix) -/
  | lock
  /-- `F2` REPNE_REPNZ (prefix) -/
  | repne
  /-- `F3` REP_REPE_REPZ (prefix) -/
  | rep
  /-- `26` ES: (segment-override prefix) -/
  | segEs
  /-- `2E` CS: (segment-override prefix) -/
  | segCs
  /-- `36` SS: (segment-override prefix) -/
  | segSs
  /-- `3E` DS: (segment-override prefix) -/
  | segDs
  /-- `64` FS: (segment-override prefix) -/
  | segFs
  /-- `65` GS: (segment-override prefix) -/
  | segGs
  /-- `66` OPSIZE (operand-size prefix) -/
  | opsize
  /-- `67` ADSIZE (address-size prefix) -/
  | adsize
  deriving DecidableEq, Repr

end Sys2Proof
end

