-- ==== Sys2Proof/Machine/State.lean ====
section
/-! DEFINITION. Everything the machine holds, as plain data (spec/10_state.md), the reasons a step can stop, and the
state after reset (spec/70_reset_and_hazards.md R1050). -/

namespace Sys2Proof.Machine

/-- A reason to stop with a fault. There is none: no access on this processor stops the machine (R143, R271), and every
violation is an exception whose entry the spec gives (R900 to R926). Nobody raises a fault: safe. -/
inductive Fault where
  deriving DecidableEq, Repr

/-- A reason for which an instruction has no meaning. -/
inductive Refusal where
  /-- An instruction without a meaning yet. No meaning answers it: safe. -/
  | notModelled (mnemonic : String)
  /-- Raised by an ESC instruction that reaches the coprocessor, whose behaviour another manual gives (R795, D64): safe,
  a run stops where the hardware would go on. -/
  | coprocessor
  /-- Raised by an opcode that Intel reserves and that raises no #UD (R351, D91), with or without LOCK (log entry 66): safe,
  its effect is not described. -/
  | reservedOpcode
  /-- Raised by AAM or AAD with a second byte other than 0AH (R352, D21), with or without LOCK (log entry 66): safe, its
  effect is not described. -/
  | aamAadBase
  /-- Raised by MOV to or from a control, debug or test register whose ModR/M mod field is not 11 (R310, R352, D54): safe,
  its effect is not described. -/
  | specialMod
  /-- Raised by a memory operand whose SIB byte has index 100 and a scale other than 1 (R315, R352, D94, U27): safe, its
  effective address is undefined. -/
  | sibIndex
  /-- Raised by a port access that runs past port FFFFH (R270, D103): safe, its effect is not described. -/
  | portRange
  /-- Raised by a REP or REPNE prefix before an instruction that is not a string instruction (R287, R352, D93, log entry
  8): safe, such a byte string is not defined. -/
  | repeatPrefix
  /-- Raised by an NMI that would be accepted in shutdown (R1090 b, D11, log entry 33): safe, what the NMI finds there is
  not described, and the run ends as far as the model describes it. -/
  | shutdownNmi
  /-- Raised by a HLT executed with TF = 1 (R1012, D102): safe, whether the trap comes at once or after the halt is not
  described. -/
  | haltTraced
  deriving DecidableEq, Repr

/-- The eight general registers (R40). -/
structure Regs where
  eax : Word
  ecx : Word
  edx : Word
  ebx : Word
  esp : Word
  ebp : Word
  esi : Word
  edi : Word
  deriving DecidableEq, Repr

/-- The flags of EFLAGS (R70). Bits 1, 3, 5 and 15 are fixed and bits 31:18 are not stored. -/
structure Flags where
  cf : Bool
  pf : Bool
  af : Bool
  zf : Bool
  sf : Bool
  /-- TF, the single-step trap flag. -/
  tf : Bool
  /-- IF, the interrupt-enable flag. -/
  ie : Bool
  df : Bool
  /-- OF, signed overflow. -/
  ov : Bool
  iopl : BitVec 2
  nt : Bool
  rf : Bool
  vm : Bool
  deriving DecidableEq, Repr

/-- A segment register: the selector and the invisible descriptor cache (R80). -/
structure SegReg where
  sel : Half
  base : Word
  /-- The effective limit in bytes (R170). -/
  limit : Word
  /-- Cleared by a null selector in DS, ES, FS, GS (R163). -/
  valid : Bool
  /-- The Type field: code or data, E or C, W or R, A (R84). -/
  typ : BitVec 4
  dt : Bool
  dpl : BitVec 2
  /-- D for CS, B for SS and for expand-down data (R86). -/
  db : Bool
  deriving DecidableEq, Repr

/-- The six segment registers (R80). -/
structure Segs where
  es : SegReg
  cs : SegReg
  ss : SegReg
  ds : SegReg
  fs : SegReg
  gs : SegReg
  deriving DecidableEq, Repr

/-- GDTR or IDTR: a 32-bit linear base and a 16-bit limit (R90, R91). -/
structure TableReg where
  base : Word
  limit : Half
  deriving DecidableEq, Repr

/-- LDTR: the selector, and the base and limit of its cache (R92). `valid` is false for a null selector. -/
structure LdtReg where
  sel : Half
  base : Word
  limit : Word
  valid : Bool
  deriving DecidableEq, Repr

/-- TR: the selector, and the base, limit and TSS type of its cache (R93). -/
structure TaskReg where
  sel : Half
  base : Word
  limit : Word
  typ : BitVec 4
  deriving DecidableEq, Repr

/-- The bits of CR0 that can change; ET reads 1 and bits 30:5 read 0 (R100, D65). -/
structure Cr0 where
  pe : Bool
  mp : Bool
  em : Bool
  ts : Bool
  pg : Bool
  deriving DecidableEq, Repr

/-- The control and memory-management registers (R90 to R102). Bits 11:0 of CR3 stay 0 (D72). -/
structure SysRegs where
  cr0 : Cr0
  cr2 : Word
  cr3 : Word
  gdtr : TableReg
  idtr : TableReg
  ldtr : LdtReg
  tr : TaskReg
  deriving DecidableEq, Repr

/-- The debug registers (R115 to R117). -/
structure DebugRegs where
  dr0 : Word
  dr1 : Word
  dr2 : Word
  dr3 : Word
  dr6 : Word
  dr7 : Word
  deriving DecidableEq, Repr

/-- One entry of the TLB, at a block and a set (R130, R246). An entry that is not listed was never written. -/
structure TlbEntry where
  block : BitVec 2
  set : BitVec 3
  page : BitVec 20
  valid : Bool
  dirty : Bool
  user : Bool
  writable : Bool
  frame : BitVec 12
  deriving DecidableEq, Repr

/-- The TLB and its test registers (R120, R130, R244 to R249). -/
structure Tlb where
  entries : List TlbEntry
  /-- A load of CR3 has cleared every V bit since reset (R245). -/
  flushed : Bool
  tr6 : Word
  tr7 : Word
  deriving DecidableEq, Repr

/-- The latches that the text describes by their effect (R132), and debug conditions that wait for a boundary. -/
structure Latches where
  /-- An NMI was accepted and no IRET has completed since (R906). -/
  nmiBlocked : Bool
  /-- An NMI request waits (R904, D95). -/
  nmiPending : Bool
  /-- `inhibit_one`: the previous instruction was MOV SS or POP SS (R907). -/
  inhibit : Bool
  /-- The previous instruction was STI and changed IF from 0 to 1 (R908, D63). -/
  stiShadow : Bool
  /-- HLT (R822). -/
  halted : Bool
  /-- Shutdown (R948). -/
  shutdown : Bool
  /-- DR6 bits of a debug trap that waits for the next boundary: a task-switch trap (R1013). -/
  trap : Word
  /-- Breakpoint hits that MOV SS or POP SS suppressed, to be reported with the next debug exception (D96). -/
  deferred : BitVec 4
  /-- Breakpoint hits of an inexact data breakpoint, to be reported one instruction later (U30). -/
  late : BitVec 4
  deriving DecidableEq, Repr

/-- What answers at a range of physical addresses (the parameter `PhysMap` of R8). -/
inductive RegionKind where
  /-- Writes are kept. -/
  | ram
  /-- Writes are lost. -/
  | rom
  /-- Nothing is mapped: reads are unspecified, writes are lost (R271). -/
  | unmapped
  deriving DecidableEq, Repr

/-- A range of physical addresses; addresses in no range are RAM. -/
structure Region where
  first : Nat
  last : Nat
  kind : RegionKind
  deriving DecidableEq, Repr

/-- What the processor does on the bus that the platform sees: writes, port reads and special cycles, in the order in
which they happen (R262, R270, R1070). -/
inductive IoEvent where
  /-- Bytes stored at physical addresses by one access, the first at the lowest offset; their number is the width. -/
  | memWrite (cells : List (Nat × Byte))
  /-- Bits set in one byte of memory by a read-modify-write: Accessed and Dirty bits (R165, R241). -/
  | memSet (addr : Nat) (mask : Byte)
  | portRead (port bytes : Nat) (value : Word)
  | portWrite (port bytes : Nat) (value : Word)
  /-- The acknowledge cycle of an INTR, with the vector the controller gave (R903). -/
  | intAck (vector : Byte)
  /-- The special bus cycle of HLT (R822). -/
  | halt
  /-- The special bus cycle of shutdown (R948). -/
  | shutdown
  deriving DecidableEq, Repr

/-- When a data breakpoint is reported while DR7.LE = DR7.GE = 0 (U30). -/
inductive BpReport where
  | now
  | next
  | never
  deriving DecidableEq, Repr

/-- What the processor chooses at one translation of a page (R241, R244, D87, D88). -/
structure PageChoice where
  /-- The entries dropped before the translation, by block * 8 + set. -/
  drop : BitVec 32
  /-- The entries that may serve it; where none does, the tables are walked. -/
  use : BitVec 32
  /-- The block into which the translation that a walk found is put when its access is made, if any. -/
  fill : Option (BitVec 2)
  /-- Whether a walk sets the PDE's Accessed bit when it finds the PTE not present (D87). -/
  pdeAccessed : Bool
  /-- Whether the Dirty bit of the PDE is set where an access sets bits of the tables (U25). -/
  pdeDirty : Bool
  deriving DecidableEq, Repr

/-- The choice that drops nothing, walks the tables, keeps nothing, and leaves the open bits of the PDE alone. -/
def PageChoice.walk : PageChoice where
  drop := 0
  use := 0
  fill := none
  pdeAccessed := false
  pdeDirty := false

/-- The platform's inputs for one step (R1070) and the choices the spec leaves to the processor during it. The quiet
tick raises nothing, walks the page tables on every access and prefetches nothing (log entry 21). -/
structure Tick where
  /-- RESET#: `some 0` before anything else of the step, `some n` after the first `n` bus events of the step (D12, log
  entry 63). -/
  reset : Option Nat
  /-- NMI. -/
  nmi : Bool
  /-- INTR, with the vector that the acknowledge cycle would read. -/
  intr : Option Byte
  /-- BUSY# is active: at WAIT (R796), or at the end of RESET#, where it asks for the self-test (R1070). -/
  busy : Bool
  /-- ERROR# is active at WAIT (R925). -/
  error : Bool
  /-- `IceInUse` (R1010, D66). -/
  ice : Bool
  /-- How many bytes after the instruction are held prefetched when it completes (R265). -/
  prefetch : Nat
  /-- An instruction whose first byte was prefetched under the other value of CR0.PE runs under that value (R1060). -/
  oldMode : Bool
  /-- The choices about pages, one for each translation of the step in order; when none is left the tables are
  walked (R244, D88). -/
  pages : List PageChoice
  bpReport : BpReport
  deriving DecidableEq, Repr

/-- The tick that raises nothing. -/
def Tick.quiet : Tick where
  reset := none
  nmi := false
  intr := none
  busy := false
  error := false
  ice := false
  prefetch := 0
  oldMode := false
  pages := []
  bpReport := .now

/-- A prefetched byte, and the value of CR0.PE under which it was fetched (R131, R1060). -/
structure Prefetched where
  byte : Byte
  pe : Bool
  deriving DecidableEq, Repr

/-- A repeat prefix: F3 or F2 (R710). -/
inductive RepKind where
  | repe
  | repne
  deriving DecidableEq, Repr

/-- How far the instruction in progress is. -/
inductive Stage where
  /-- Prefixes are being read. -/
  | prefixes
  /-- The instruction, or one iteration of it, completed. -/
  | completed
  /-- The instruction raised an exception, which has been delivered. -/
  | excepted
  deriving DecidableEq, Repr

/-- The instruction in progress: what its prefixes said, and what has happened in it. Between steps it is `Cur.none`.
The model's own bookkeeping, not the spec's. -/
structure Cur where
  stage : Stage
  /-- EIP of the instruction's first byte, prefixes included (R940). -/
  start : Word
  /-- The bytes read so far (R281). -/
  len : Nat
  lock : Bool
  rep : Option RepKind
  seg : Option SReg
  /-- 66H was seen (R305, D92). -/
  osz : Bool
  /-- 67H was seen. -/
  asz : Bool
  /-- The value of CR0.PE under which the instruction was prefetched and runs, when it is not the current one (R1060). -/
  mode : Option Bool
  /-- Breakpoints 0 to 3 whose condition a data access met (R1007). -/
  hits : BitVec 4
  /-- Breakpoints 0 to 3 whose condition the instruction's own address met (R1005, R1014). -/
  fetchHits : BitVec 4
  /-- A task switch passed its commit point (R990 step 7). -/
  committed : Bool
  /-- The instruction loaded RF, which then is not cleared at its end (R943 c). -/
  keepRf : Bool
  /-- The instruction is a repeated string instruction with iterations left (R710), or a WAIT that goes on waiting. -/
  again : Bool
  /-- No single-step trap follows: the instruction entered a software interrupt (R1012), or is still waiting. -/
  soft : Bool
  deriving DecidableEq, Repr

/-- No instruction in progress. -/
def Cur.none : Cur where
  stage := .prefixes
  start := 0
  len := 0
  lock := false
  rep := Option.none
  seg := Option.none
  osz := false
  asz := false
  mode := Option.none
  hits := 0
  fetchHits := 0
  committed := false
  keepRf := false
  again := false
  soft := false

/-- The state of the machine (spec/10_state.md), the platform that stands behind it (R1070), and the model's own
counter and context. -/
structure State where
  regs : Regs
  eip : Word
  flags : Flags
  segs : Segs
  /-- The CPL latch (R81, D70). -/
  cpl : BitVec 2
  sys : SysRegs
  dbg : DebugRegs
  tlb : Tlb
  latches : Latches
  /-- Prefetched bytes at CS:EIP that are executed as they were when fetched (R131, R265). -/
  queue : List Prefetched
  /-- Physical memory: the bytes that differ from `Config.unwritten`, by rising address (R140). -/
  mem : List Host.Cell
  /-- The parameter `PhysMap`; addresses in no region are RAM. -/
  regions : List Region
  /-- The trace of the bus events that the platform sees, newest first (R270, R1070). -/
  io : List IoEvent
  /-- The platform's inputs for the steps to come; when none is left every step has the quiet tick. -/
  inputs : List Tick
  /-- The tick of the step in progress, and `Tick.quiet` between steps. -/
  now : Tick
  cur : Cur
  /-- How many free values have been drawn: the model's own field. -/
  draws : Nat
  deriving DecidableEq, Repr

/-- A data segment as reset leaves it: selector 0, base 0, limit FFFFH, writable, 16-bit, DPL 0 (R80, log entry 5). -/
def SegReg.reset : SegReg where
  sel := 0
  base := 0
  limit := 0xFFFF
  valid := true
  typ := 3
  dt := true
  dpl := 0
  db := false

/-- The machine right after reset (R1050). Registers whose value the spec leaves undefined hold the value of log
entries 1 to 4. -/
def State.reset : State where
  regs :=
    { eax := 0
      ecx := 0
      edx := 0#16 ++ 0x23#8 ++ Config.revisionId
      ebx := 0
      esp := 0
      ebp := 0
      esi := 0
      edi := 0 }
  eip := 0x0000FFF0
  flags :=
    { cf := false
      pf := false
      af := false
      zf := false
      sf := false
      tf := false
      ie := false
      df := false
      ov := false
      iopl := 0
      nt := false
      rf := false
      vm := false }
  segs :=
    { es := SegReg.reset
      cs := { SegReg.reset with sel := 0xF000, base := 0xFFFF0000, typ := 11 }
      ss := SegReg.reset
      ds := SegReg.reset
      fs := SegReg.reset
      gs := SegReg.reset }
  cpl := 0
  sys :=
    { cr0 := { pe := false, mp := false, em := false, ts := false, pg := false }
      cr2 := 0
      cr3 := 0
      gdtr := { base := 0, limit := 0 }
      idtr := { base := 0, limit := 0x03FF }
      ldtr := { sel := 0, base := 0, limit := 0, valid := false }
      tr := { sel := 0, base := 0, limit := 0, typ := 0 } }
  dbg := { dr0 := 0, dr1 := 0, dr2 := 0, dr3 := 0, dr6 := 0, dr7 := 0 }
  tlb := { entries := [], flushed := false, tr6 := 0, tr7 := 0 }
  latches :=
    { nmiBlocked := false
      nmiPending := false
      inhibit := false
      stiShadow := false
      halted := false
      shutdown := false
      trap := 0
      deferred := 0
      late := 0 }
  queue := []
  mem := []
  regions := []
  io := []
  inputs := []
  now := Tick.quiet
  cur := Cur.none
  draws := 0

end Sys2Proof.Machine
end

