-- ==== Sys2Proof/Machine/Basic.lean ====
section
/-! DEFINITION. The step monad: computations over State that may raise an exception or refuse, the draws of free
values, and the bit fields that the other files share. -/

namespace Sys2Proof.Machine

/-- An error code (R930): a selector-like word, or the three bits of a page fault (R924). -/
inductive ErrCode where
  | sel (v : Half)
  | page (bits : BitVec 3)
  deriving DecidableEq, Repr

/-- An exception: its vector, and its error code for the vectors that have one (R901). -/
structure Exc where
  vec : Byte
  code : Option ErrCode
  deriving DecidableEq, Repr

/-- Why a computation stops: an exception to be delivered, or a refusal. -/
inductive Err where
  | exc (e : Exc)
  | refuse (r : Refusal)
  deriving DecidableEq, Repr

/-- A computation over the machine state. The state after a stop is the one reached when it stopped. -/
abbrev M := EStateM Err State

/-- Stop with an exception. -/
def raise {α : Type} (e : Exc) : M α := fun s => .error (.exc e) s

/-- Stop without a meaning. -/
def refuse {α : Type} (r : Refusal) : M α := fun s => .error (.refuse r) s

/-- Raise an exception unless a condition holds. -/
def require (c : Bool) (e : Exc) : M Unit := if c then pure () else raise e

/-- #DE, divide error (R910). -/
def Exc.de : Exc := ⟨0, none⟩
/-- #DB, a debug fault (R912). -/
def Exc.db : Exc := ⟨1, none⟩
/-- #BR, bounds check (R915). -/
def Exc.br : Exc := ⟨5, none⟩
/-- #UD, invalid opcode (R916). -/
def Exc.ud : Exc := ⟨6, none⟩
/-- #NM, coprocessor not available (R917). -/
def Exc.nm : Exc := ⟨7, none⟩
/-- #DF, double fault, whose error code is always 0 (R918). -/
def Exc.df : Exc := ⟨8, some (.sel 0)⟩
/-- #TS, invalid TSS (R920). -/
def Exc.ts (v : Half) : Exc := ⟨10, some (.sel v)⟩
/-- #NP, segment not present (R911). -/
def Exc.np (v : Half) : Exc := ⟨11, some (.sel v)⟩
/-- #SS, stack fault (R921). -/
def Exc.ss (v : Half) : Exc := ⟨12, some (.sel v)⟩
/-- #GP, general protection (R922). -/
def Exc.gp (v : Half) : Exc := ⟨13, some (.sel v)⟩
/-- #PF, page fault (R924). -/
def Exc.pf (bits : BitVec 3) : Exc := ⟨14, some (.page bits)⟩
/-- #MF, coprocessor error (R925). -/
def Exc.mf : Exc := ⟨16, none⟩

/-- An error code that names a selector: its upper 14 bits, and EXT in bit 0 (R930). -/
def selCode (sel : Half) (ext : Bool) : Half := (sel &&& 0xFFFC) ||| (BitVec.ofBool ext).setWidth 16

/-- An error code that names IDT entry `n`: `n * 8 + 2 + EXT` (R930). -/
def idtCode (n : Byte) (ext : Bool) : Half := (n.setWidth 16 <<< 3) ||| 2 ||| (BitVec.ofBool ext).setWidth 16

/-- An error code that is null but for EXT (R930). -/
def extCode (ext : Bool) : Half := (BitVec.ofBool ext).setWidth 16

/-- A fresh undefined bit (U1). -/
def freeBit : M Bool := fun s => .ok (Config.freeBit s.draws) { s with draws := s.draws + 1 }

/-- A fresh unspecified value of `n` bits, `n` at most 32. -/
def freeBits (n : Nat) : M (BitVec n) := fun s =>
  .ok ((Config.freeWord s.draws).setWidth n) { s with draws := s.draws + 1 }

/-- Read a part of the state. -/
def gets {α : Type} (f : State → α) : M α := fun s => .ok (f s) s

/-- PE as the instruction in progress sees it: CR0.PE, or the older value under which the instruction was prefetched
(R1060, log entry 17). -/
def State.pe (s : State) : Bool := s.cur.mode.getD s.sys.cr0.pe

/-- Real-address mode: PE = 0 (R110). -/
def State.isReal (s : State) : Bool := !s.pe

/-- Virtual-8086 mode: PE = 1 and VM = 1 (R110). -/
def State.isV86 (s : State) : Bool := s.pe && s.flags.vm

/-- Protected mode: PE = 1 and VM = 0 (R110). -/
def State.isProtected (s : State) : Bool := s.pe && !s.flags.vm

/-- The current privilege level: 0 in real-address mode, 3 in virtual-8086 mode, else the latch (R81). -/
def State.curCpl (s : State) : BitVec 2 :=
  if s.isReal then 0 else if s.flags.vm then 3 else s.cpl

/-- The bytes of a word value, least significant first (R141). -/
def leBytes (n : Nat) (v : Word) : List Byte :=
  match n with
  | 0 => []
  | n + 1 => v.setWidth 8 :: leBytes n (v >>> 8)

/-- The value of up to four bytes, least significant first (R141). -/
def leValue (bs : List Byte) : Word :=
  match bs with
  | [] => 0
  | b :: rest => b.setWidth 32 ||| (leValue rest <<< 8)

/-- The RPL of a selector (R82). -/
abbrev rpl (sel : Half) : BitVec 2 := sel.setWidth 2

/-- TI of a selector: set for the LDT (R82). -/
def selTi (sel : Half) : Bool := sel.getLsbD 2

/-- A null selector: 0000H to 0003H (R82). -/
def selNull (sel : Half) : Bool := sel &&& 0xFFFC == 0

/-- A selector with its RPL replaced. -/
def withRpl (sel : Half) (p : BitVec 2) : Half := (sel &&& 0xFFFC) ||| p.setWidth 16

/-- The larger, that is less privileged, of two levels. -/
def maxPl (a b : BitVec 2) : BitVec 2 := if a.toNat ≤ b.toNat then b else a

end Sys2Proof.Machine
end

