-- ==== Sys2Proof/Machine/Flags.lean ====
section
/-! DEFINITION. The flags: their images, the conditions, and every computation of the status flags
(spec/10_state.md R70 to R72, spec/41_binary_arithmetic.md R450 to R453, spec/43_logical_shift_bit.md). -/

namespace Sys2Proof.Machine

/-- FLAGS, the low 16 bits of EFLAGS (R70). -/
def Flags.low (f : Flags) : Half :=
  0#1 ++ BitVec.ofBool f.nt ++ f.iopl ++ BitVec.ofBool f.ov ++ BitVec.ofBool f.df ++ BitVec.ofBool f.ie
    ++ BitVec.ofBool f.tf ++ BitVec.ofBool f.sf ++ BitVec.ofBool f.zf ++ 0#1 ++ BitVec.ofBool f.af ++ 0#1
    ++ BitVec.ofBool f.pf ++ 1#1 ++ BitVec.ofBool f.cf

/-- EFLAGS with a value for the bits 31:18 that are not stored (R70, U21). -/
def Flags.image (f : Flags) (high : BitVec 14) : Word :=
  high ++ BitVec.ofBool f.vm ++ BitVec.ofBool f.rf ++ f.low

/-- The flags that an EFLAGS image holds (R70). -/
def Flags.ofImage (v : Word) : Flags :=
  { cf := v.getLsbD 0
    pf := v.getLsbD 2
    af := v.getLsbD 4
    zf := v.getLsbD 6
    sf := v.getLsbD 7
    tf := v.getLsbD 8
    ie := v.getLsbD 9
    df := v.getLsbD 10
    ov := v.getLsbD 11
    iopl := v.extractLsb' 12 2
    nt := v.getLsbD 14
    rf := v.getLsbD 16
    vm := v.getLsbD 17 }

/-- The byte SF:ZF:xx:AF:xx:PF:xx:CF loaded into the flags, as SAHF does (R72 c). -/
def Flags.withLowByte (f : Flags) (v : Byte) : Flags :=
  { f with cf := v.getLsbD 0, pf := v.getLsbD 2, af := v.getLsbD 4, zf := v.getLsbD 6, sf := v.getLsbD 7 }

/-- The image that POPF and IRET load (R72 d, e): every flag but VM and RF; IOPL and IF only if they may change. -/
def Flags.load (f : Flags) (v : Word) (iopl ie : Bool) : Flags :=
  let n := Flags.ofImage v
  { n with
    iopl := if iopl then n.iopl else f.iopl
    ie := if ie then n.ie else f.ie
    rf := f.rf
    vm := f.vm }

/-- A condition of the tttn field (R330). -/
def condHolds (c : Cond) (f : Flags) : Bool :=
  match c with
  | .o => f.ov
  | .no => !f.ov
  | .b => f.cf
  | .ae => !f.cf
  | .e => f.zf
  | .ne => !f.zf
  | .be => f.cf || f.zf
  | .a => !f.cf && !f.zf
  | .s => f.sf
  | .ns => !f.sf
  | .p => f.pf
  | .np => !f.pf
  | .l => f.sf != f.ov
  | .ge => f.sf == f.ov
  | .le => f.zf || f.sf != f.ov
  | .g => !f.zf && f.sf == f.ov

/-- PF of a result: the low byte holds an even number of 1 bits (R450). -/
def parity {n : Nat} (v : BitVec n) : Bool :=
  !(v.getLsbD 0 ^^ v.getLsbD 1 ^^ v.getLsbD 2 ^^ v.getLsbD 3 ^^ v.getLsbD 4 ^^ v.getLsbD 5 ^^ v.getLsbD 6
    ^^ v.getLsbD 7)

/-- SF, ZF and PF set according to a result (R450). -/
def Flags.result {n : Nat} (f : Flags) (v : BitVec n) : Flags := { f with sf := v.msb, zf := v == 0, pf := parity v }

/-- The flags of `a + b + cin` (R451). -/
def Flags.add {n : Nat} (f : Flags) (a b : BitVec n) (cin : Bool) : Flags :=
  let res := a + b + (BitVec.ofBool cin).setWidth n
  { f.result res with
    cf := decide (2 ^ n ≤ a.toNat + b.toNat + cin.toNat)
    af := decide (16 ≤ a.toNat % 16 + b.toNat % 16 + cin.toNat)
    ov := a.msb == b.msb && res.msb != a.msb }

/-- The flags of `a - b - bin` (R452). -/
def Flags.sub {n : Nat} (f : Flags) (a b : BitVec n) (bin : Bool) : Flags :=
  let res := a - b - (BitVec.ofBool bin).setWidth n
  { f.result res with
    cf := decide (a.toNat < b.toNat + bin.toNat)
    af := decide (a.toNat % 16 < b.toNat % 16 + bin.toNat)
    ov := a.msb != b.msb && res.msb != a.msb }

/-- The flags of a logical result: CF = OF = 0, AF undefined (R522, R530, R543, R544). -/
def Flags.logic {n : Nat} (f : Flags) (v : BitVec n) (af : Bool) : Flags :=
  { f.result v with cf := false, ov := false, af := af }

/-- A value for each status flag, for the flags an instruction leaves undefined (R453). -/
structure Status where
  cf : Bool
  pf : Bool
  af : Bool
  zf : Bool
  sf : Bool
  ov : Bool
  deriving DecidableEq, Repr

/-- Fresh undefined values for the six status flags (U1). -/
def freeStatus : M Status := fun s =>
  let n := s.draws
  .ok
    { cf := Config.freeBit n
      pf := Config.freeBit (n + 1)
      af := Config.freeBit (n + 2)
      zf := Config.freeBit (n + 3)
      sf := Config.freeBit (n + 4)
      ov := Config.freeBit (n + 5) }
    { s with draws := n + 6 }

/-- All six status flags undefined (R458, U9). -/
def Flags.undefined (f : Flags) (u : Status) : Flags :=
  { f with cf := u.cf, pf := u.pf, af := u.af, zf := u.zf, sf := u.sf, ov := u.ov }

/-- The flags of a multiplication: CF and OF tell whether the product overflows, the others are undefined (R460,
R462). -/
def Flags.product (f : Flags) (u : Status) (big : Bool) : Flags := { f.undefined u with cf := big, ov := big }

/-- The flags of a bit test: CF is the bit, the others are undefined (R525 to R528). -/
def Flags.bitTest (f : Flags) (u : Status) (bit : Bool) : Flags := { f.undefined u with cf := bit }

/-- The flags of a bit scan: ZF is defined, the others are not (R523, R524). -/
def Flags.bitScan (f : Flags) (u : Status) (zf : Bool) : Flags := { f.undefined u with zf := zf }

/-- `f` applied `n` times. -/
def iter {α : Type} (f : α → α) (n : Nat) (x : α) : α :=
  match n with
  | 0 => x
  | n + 1 => iter f n (f x)

/-- The seven shifts and rotates. -/
inductive ShiftOp where
  | rol
  | ror
  | rcl
  | rcr
  | shl
  | shr
  | sar
  deriving DecidableEq, Repr

/-- Whether an operation is a rotate (R531), not a shift (R536). -/
def ShiftOp.isRotate (op : ShiftOp) : Bool :=
  match op with
  | .rol => true
  | .ror => true
  | .rcl => true
  | .rcr => true
  | .shl => false
  | .shr => false
  | .sar => false

/-- One single-bit step on the operand and CF (R532 to R535, R537 to R539). -/
def ShiftOp.step {n : Nat} (op : ShiftOp) (x : BitVec n × Bool) : BitVec n × Bool :=
  let v := x.1
  let top (b : Bool) : BitVec n := (BitVec.ofBool b).setWidth n <<< (n - 1)
  match op with
  | .rol => (v <<< 1 ||| (BitVec.ofBool v.msb).setWidth n, v.msb)
  | .ror => (v >>> 1 ||| top (v.getLsbD 0), v.getLsbD 0)
  | .rcl => (v <<< 1 ||| (BitVec.ofBool x.2).setWidth n, v.msb)
  | .rcr => (v >>> 1 ||| top x.2, v.getLsbD 0)
  | .shl => (v <<< 1, v.msb)
  | .shr => (v >>> 1, v.getLsbD 0)
  | .sar => (v >>> 1 ||| top v.msb, v.getLsbD 0)

/-- OF after a shift or rotate by one: the old operand, the result and its CF (R531, R537 to R539). -/
def ShiftOp.overflow {n : Nat} (op : ShiftOp) (old res : BitVec n) (cf : Bool) : Bool :=
  match op with
  | .rol => res.msb ^^ cf
  | .rcl => res.msb ^^ cf
  | .shl => res.msb ^^ cf
  | .ror => res.msb ^^ res.getLsbD (n - 2)
  | .rcr => res.msb ^^ res.getLsbD (n - 2)
  | .sar => false
  | .shr => old.msb

/-- The result and the flags of a shift or rotate by a masked count (R531, R536). A count of 0 changes no flag but the
OF of a rotate, which is defined only for a count of 1 (log entry 46). -/
def ShiftOp.apply {n : Nat} (op : ShiftOp) (f : Flags) (u : Status) (v : BitVec n) (count : Nat) :
    BitVec n × Flags :=
  let r := iter op.step count (v, f.cf)
  let ov := if count = 1 then op.overflow v r.1 r.2 else u.ov
  if op.isRotate then (r.1, { f with cf := r.2, ov := ov })
  else if count = 0 then (v, f)
  else (r.1, { f.result r.1 with cf := r.2, af := u.af, ov := ov })

/-- SHLD (R541): the result and flags for a count already taken modulo 32. -/
def shldApply {n : Nat} (f : Flags) (u : Status) (undef v src : BitVec n) (count : Nat) : BitVec n × Flags :=
  if count = 0 then (v, f)
  else if n ≤ count then (undef, f.undefined u)
  else
    let res := v <<< count ||| src >>> (n - count)
    (res,
      { f.result res with
        cf := v.getLsbD (n - count)
        af := u.af
        ov := if count = 1 then v.msb != res.msb else u.ov })

/-- SHRD (R542): the result and flags for a count already taken modulo 32. -/
def shrdApply {n : Nat} (f : Flags) (u : Status) (undef v src : BitVec n) (count : Nat) : BitVec n × Flags :=
  if count = 0 then (v, f)
  else if n ≤ count then (undef, f.undefined u)
  else
    let res := v >>> count ||| src <<< (n - count)
    (res,
      { f.result res with
        cf := v.getLsbD (count - 1)
        af := u.af
        ov := if count = 1 then v.msb != res.msb else u.ov })

/-- The eight two-operand arithmetic and logical operations of Group 1 (R340). -/
inductive AluOp where
  | add
  | or
  | adc
  | sbb
  | and
  | sub
  | xor
  | cmp
  deriving DecidableEq, Repr

/-- Whether an operation leaves AF undefined. -/
def AluOp.isLogic (op : AluOp) : Bool :=
  match op with
  | .or => true
  | .and => true
  | .xor => true
  | .add => false
  | .adc => false
  | .sbb => false
  | .sub => false
  | .cmp => false

/-- Whether an operation stores its result: CMP does not (R456). -/
def AluOp.stores (op : AluOp) : Bool := op != .cmp

/-- The result and the flags of an arithmetic or logical operation (R454 to R456, R464, R465, R522, R530, R544); `af` is
the value of an undefined AF. -/
def AluOp.apply {n : Nat} (op : AluOp) (f : Flags) (af : Bool) (a b : BitVec n) : BitVec n × Flags :=
  match op with
  | .add => (a + b, f.add a b false)
  | .or => (a ||| b, f.logic (a ||| b) af)
  | .adc => (a + b + (BitVec.ofBool f.cf).setWidth n, f.add a b f.cf)
  | .sbb => (a - b - (BitVec.ofBool f.cf).setWidth n, f.sub a b f.cf)
  | .and => (a &&& b, f.logic (a &&& b) af)
  | .sub => (a - b, f.sub a b false)
  | .xor => (a ^^^ b, f.logic (a ^^^ b) af)
  | .cmp => (a - b, f.sub a b false)

/-- Set the flags. -/
def setFlags (f : Flags) : M Unit := modify fun s => { s with flags := f }

end Sys2Proof.Machine
end

