-- ==== Sys2Proof/Machine/Memory.lean ====
section
/-! DEFINITION. Physical memory: 2^24 bytes kept as a canonical list of cells (spec/20_memory.md R140, R141, R271). -/

namespace Sys2Proof.Machine

/-- The byte at an address. -/
def Mem.read (m : List Host.Cell) (a : Nat) : Byte :=
  match m with
  | [] => Config.unwritten
  | (b, v) :: rest => if b = a then v else Mem.read rest a

/-- Memory with a byte stored. The addresses stay in rising order, and a byte equal to what an unlisted address reads
as is not listed. -/
def Mem.write (m : List Host.Cell) (a : Nat) (v : Byte) : List Host.Cell :=
  match m with
  | [] => if v = Config.unwritten then [] else [(a, v)]
  | (b, w) :: rest =>
    if a < b then
      if v = Config.unwritten then (b, w) :: rest else (a, v) :: (b, w) :: rest
    else if a = b then
      if v = Config.unwritten then rest else (a, v) :: rest
    else (b, w) :: Mem.write rest a v

/-- The canonical form from an address on: addresses at least `lo`, strictly rising, below 2^24, and no listed byte equal
to what an unlisted address reads as. -/
def Mem.wfFrom (lo : Nat) (m : List Host.Cell) : Bool :=
  match m with
  | [] => true
  | (a, v) :: rest => decide (lo ≤ a) && decide (a < 2 ^ 24) && v != Config.unwritten && Mem.wfFrom (a + 1) rest

/-- The canonical form of memory. -/
def Mem.wf (m : List Host.Cell) : Bool := Mem.wfFrom 0 m

/-- What answers at a physical address: the first region that holds it, and RAM elsewhere (log entry 15). -/
def regionAt (rs : List Region) (a : Nat) : RegionKind :=
  match rs with
  | [] => .ram
  | r :: rest => if r.first ≤ a && a ≤ r.last then r.kind else regionAt rest a

/-- The byte of physical memory at an address, as software sees it (R271). -/
def physRead (a : BitVec 24) : M Byte := fun s =>
  match regionAt s.regions a.toNat with
  | .ram => .ok (Mem.read s.mem a.toNat) s
  | .rom => .ok (Mem.read s.mem a.toNat) s
  | .unmapped => .ok (Config.busByte s.draws) { s with draws := s.draws + 1 }

/-- Memory after a byte was stored at a physical address; ROM and unmapped addresses lose it (R271). -/
def Mem.store (rs : List Region) (m : List Host.Cell) (a : Nat) (v : Byte) : List Host.Cell :=
  match regionAt rs a with
  | .ram => Mem.write m a v
  | .rom => m
  | .unmapped => m

/-- Memory after bits were set in a byte. -/
def Mem.setBits (rs : List Region) (m : List Host.Cell) (a : Nat) (mask : Byte) : List Host.Cell :=
  Mem.store rs m a (Mem.read m a ||| mask)

/-- Set bits of a byte of memory, as the processor does for Accessed and Dirty bits (R165, R241): one OR into the
entry, which the platform sees (R1070, log entry 62). -/
def physSetBits (a : BitVec 24) (mask : Byte) : M Unit := modify fun s =>
  { s with
    mem := Mem.setBits s.regions s.mem a.toNat mask
    io := .memSet a.toNat mask :: s.io }

/-- The bytes at a list of physical addresses. -/
def physReadAll (as : List (BitVec 24)) : M (List Byte) :=
  match as with
  | [] => pure []
  | a :: rest => do
    let b ← physRead a
    let bs ← physReadAll rest
    return b :: bs

/-- Memory after bytes were stored one after the other. -/
def Mem.storeAll (rs : List Region) (cells : List (Nat × Byte)) (m : List Host.Cell) : List Host.Cell :=
  match cells with
  | [] => m
  | (a, v) :: rest => Mem.storeAll rs rest (Mem.store rs m a v)

/-- Memory after bus events, given oldest first. -/
def Mem.after (rs : List Region) (es : List IoEvent) (m : List Host.Cell) : List Host.Cell :=
  match es with
  | [] => m
  | .memWrite cells :: rest => Mem.after rs rest (Mem.storeAll rs cells m)
  | .memSet a mask :: rest => Mem.after rs rest (Mem.setBits rs m a mask)
  | .portRead _ _ _ :: rest => Mem.after rs rest m
  | .portWrite _ _ _ :: rest => Mem.after rs rest m
  | .intAck _ :: rest => Mem.after rs rest m
  | .halt :: rest => Mem.after rs rest m
  | .shutdown :: rest => Mem.after rs rest m

/-- Store bytes at a list of physical addresses, in ascending order: one write that the platform sees (R1070). -/
def physWriteAll (as : List (BitVec 24)) (bs : List Byte) : M Unit := modify fun s =>
  let cells := (as.map BitVec.toNat).zip bs
  { s with mem := Mem.storeAll s.regions cells s.mem, io := .memWrite cells :: s.io }

/-- The four physical addresses of a doubleword, wrapping at 2^24 (R143). -/
def dwordAt (a : BitVec 24) : List (BitVec 24) := [a, a + 1, a + 2, a + 3]

end Sys2Proof.Machine
end

