-- ==== Sys2Proof/Machine/Paging.lean ====
section
/-! DEFINITION. From linear to physical addresses: the page walk, protection, Accessed and Dirty bits, the TLB, and
the accesses that carry a linear address (spec/20_memory.md R143, R144, R240 to R246). -/

namespace Sys2Proof.Machine

/-- What an access asks of the pages it touches (R242): whether it writes, and whether it is user-level. -/
structure Access where
  write : Bool
  user : Bool
  deriving DecidableEq, Repr

/-- An access that the processor makes for itself, checked as supervisor-level (R243). -/
def Access.system (write : Bool) : Access := ⟨write, false⟩

/-- A page that an access may touch: its frame, and what the access will set when it is made. -/
inductive Trans where
  /-- Paging is off: the linear address is the physical address (R140). -/
  | direct (frame : BitVec 12)
  /-- A walk found it: the entries' addresses, the combined attributes, the Dirty bit of the PTE, and the choice made
  at the translation (R240, R244). -/
  | walked (frame : BitVec 12) (pde pte : BitVec 24) (user writable dirty : Bool) (choice : PageChoice)
  /-- A TLB entry found it (R244). -/
  | cached (entry : TlbEntry) (choice : PageChoice)
  deriving DecidableEq, Repr

/-- The frame of a translation. -/
def Trans.frame (t : Trans) : BitVec 12 :=
  match t with
  | .direct f => f
  | .walked f _ _ _ _ _ _ => f
  | .cached e _ => e.frame

/-- The linear page of an address. -/
def pageOf (lin : Word) : BitVec 20 := lin.extractLsb' 12 20

/-- The error-code bits of a page fault: U/S, W/R, P (R924). -/
def pfBits (acc : Access) (present : Bool) : BitVec 3 :=
  BitVec.ofBool acc.user ++ BitVec.ofBool acc.write ++ BitVec.ofBool present

/-- Whether the combined attributes of a page admit an access (R242). -/
def pageAllows (acc : Access) (user writable : Bool) : Bool :=
  !acc.user || (user && (!acc.write || writable))

/-- Whether an entry is in a mask of TLB entries, numbered block * 8 + set. -/
def TlbEntry.inMask (e : TlbEntry) (mask : BitVec 32) : Bool := mask.getLsbD (e.block.toNat * 8 + e.set.toNat)

/-- The TLB without the entries of a mask (D88). -/
def dropTlb (mask : BitVec 32) (s : State) : State :=
  { s with
    tlb := { s.tlb with entries := s.tlb.entries.map fun e => { e with valid := e.valid && !e.inMask mask } } }

/-- The processor's next choice about a page, with the TLB entries that it drops gone (R244, D88). -/
def nextChoice : M PageChoice := fun s =>
  match s.now.pages with
  | [] => .ok .walk s
  | c :: rest => .ok c (dropTlb c.drop { s with now := { s.now with pages := rest } })

/-- The TLB entry that serves a page, if a usable one is there (R244, log entry 18). -/
def tlbLookup (s : State) (use : BitVec 32) (page : BitVec 20) : Option TlbEntry :=
  s.tlb.entries.find? fun e => e.valid && e.page == page && e.inMask use

/-- The TLB with an entry put at its block and set, in place of what was there. -/
def tlbPut (es : List TlbEntry) (e : TlbEntry) : List TlbEntry :=
  match es with
  | [] => [e]
  | x :: rest => if x.block = e.block ∧ x.set = e.set then e :: rest else x :: tlbPut rest e

/-- The TLB keeps the translation of a page in a block, or does not (R244). -/
def fillTlb (fill : Option (BitVec 2)) (page : BitVec 20) (frame : BitVec 12) (user writable dirty : Bool) (s : State) :
    State :=
  match fill with
  | none => s
  | some block =>
    { s with
      tlb :=
        { s.tlb with
          entries :=
            tlbPut s.tlb.entries
              { block := block
                set := Config.tlbSet page
                page := page
                valid := true
                dirty := dirty
                user := user
                writable := writable
                frame := frame } } }

/-- The address of the directory entry for a page: CR3 and DIR concatenated, truncated to 24 bits (R240). -/
def pdeAddr (cr3 : Word) (page : BitVec 20) : BitVec 24 :=
  (cr3.extractLsb' 12 12) ++ (page.extractLsb' 10 10) ++ 0#2

/-- The address of the table entry for a page (R240). -/
def pteAddr (pde : Word) (page : BitVec 20) : BitVec 24 :=
  (pde.extractLsb' 12 12) ++ (page.extractLsb' 0 10) ++ 0#2

/-- A page-table entry in physical memory. -/
def readEntry (a : BitVec 24) : M Word := do
  let bs ← physReadAll (dwordAt a)
  return leValue bs

/-- Stop with a page fault: CR2 takes the linear address (R924, D97). -/
def pageFault {α : Type} (lin : Word) (acc : Access) (present : Bool) : M α := do
  modify fun s => { s with sys := { s.sys with cr2 := lin } }
  raise (.pf (pfBits acc present))

/-- Walk the page tables for a page and check the access (R240, R242). No bit is set and nothing is put into the TLB before
the access is made. -/
def walk (lin : Word) (acc : Access) (c : PageChoice) : M Trans := do
  let page := pageOf lin
  let s ← get
  let pa := pdeAddr s.sys.cr3 page
  let pde ← readEntry pa
  if !pde.getLsbD 0 then pageFault lin acc false
  else
    let ta := pteAddr pde page
    let pte ← readEntry ta
    if !pte.getLsbD 0 then do
      if c.pdeAccessed then physSetBits pa 0x20
      pageFault lin acc false
    else do
      let user := pde.getLsbD 2 && pte.getLsbD 2
      let writable := pde.getLsbD 1 && pte.getLsbD 1
      if pageAllows acc user writable then
        return .walked (pte.extractLsb' 12 12) pa ta user writable (pte.getLsbD 6) c
      else pageFault lin acc true

/-- Translate the page of a linear address and check the access, setting no Accessed or Dirty bit yet. Paging is on or off as
CR0.PG says now, for an instruction that was prefetched before PG changed too (R1061, log entry 17, DESIGN CHOICE). -/
def translate (lin : Word) (acc : Access) : M Trans := do
  let s ← get
  if s.sys.cr0.pg then do
    let c ← nextChoice
    let s ← get
    match tlbLookup s c.use (pageOf lin) with
    | some e => if pageAllows acc e.user e.writable then return .cached e c else pageFault lin acc true
    | none => walk lin acc c
  else return .direct (lin.extractLsb' 12 12)

/-- Set the bits that an access to a translated page sets (R241), and put the translation that a walk found into the TLB, if
it is kept (R244). A write through a TLB entry with D = 0 sets D in memory and in the entry (R246). The entry holds no PTE
address: which PTE gets D is left open, and the model reads the PDE that the current CR3 names, whether present or not, and
takes the PTE it points at, also for an entry put in through TR6 (log entry 55, DESIGN CHOICE). -/
def touchPage (page : BitVec 20) (acc : Access) (t : Trans) : M Unit :=
  match t with
  | .direct _ => pure ()
  | .walked frame pa ta user writable dirty c => do
    physSetBits pa (if c.pdeDirty then 0x60 else 0x20)
    physSetBits ta (if acc.write then 0x60 else 0x20)
    modify (fillTlb c.fill page frame user writable (dirty || acc.write))
  | .cached e c =>
    if acc.write && !e.dirty then do
      let s ← get
      let pa := pdeAddr s.sys.cr3 page
      let pde ← readEntry pa
      if c.pdeDirty then physSetBits pa 0x40
      physSetBits (pteAddr pde page) 0x40
      modify fun s => { s with tlb := { s.tlb with entries := tlbPut s.tlb.entries { e with dirty := true } } }
    else pure ()

/-- The physical address of a byte: in the first page of an access, or in the second. -/
def byteAddr (lin : Word) (t1 t2 : Trans) (i : Nat) : BitVec 24 :=
  let a := lin + BitVec.ofNat 32 i
  (if pageOf a = pageOf lin then t1.frame else t2.frame) ++ a.extractLsb' 0 12

/-- Translate the one or two pages of `n` bytes at a linear address; both are checked before anything is set (D81).
The address of the first byte in the second page is what CR2 gets when that page faults (D97). -/
def translateBoth (lin : Word) (n : Nat) (acc : Access) : M (Trans × Trans) := do
  let last := lin + BitVec.ofNat 32 (n - 1)
  let t1 ← translate lin acc
  if pageOf last = pageOf lin then return (t1, t1)
  else
    let t2 ← translate (pageOf last ++ 0#12) acc
    return (t1, t2)

/-- The physical addresses of `n` bytes at a linear address whose pages have been translated, in ascending order, with the
page bits set (R144 steps 5 and 6). -/
def physFrom (lin : Word) (n : Nat) (acc : Access) (ts : Trans × Trans) : M (List (BitVec 24)) := do
  touchPage (pageOf lin) acc ts.1
  let last := lin + BitVec.ofNat 32 (n - 1)
  if pageOf last ≠ pageOf lin then touchPage (pageOf last) acc ts.2
  return (List.range n).map (byteAddr lin ts.1 ts.2)

/-- The physical addresses of `n` bytes at a linear address: the translation of their pages and what comes after it. -/
def physOf (lin : Word) (n : Nat) (acc : Access) : M (List (BitVec 24)) := do
  let ts ← translateBoth lin n acc
  physFrom lin n acc ts

/-- Read `n` bytes, at most four, at a linear address. -/
def linRead (lin : Word) (n : Nat) (acc : Access) : M Word := do
  let as ← physOf lin n acc
  let bs ← physReadAll as
  return leValue bs

/-- Write the low `n` bytes, at most four, of a value at a linear address. -/
def linWrite (lin : Word) (n : Nat) (v : Word) (acc : Access) : M Unit := do
  let as ← physOf lin n acc
  physWriteAll as (leBytes n v)

/-- A read that the processor makes for itself, at supervisor level and outside every segment (R166, R243). -/
def sysRead (lin : Word) (n : Nat) : M Word := linRead lin n (Access.system false)

/-- A write that the processor makes for itself (R166, R243). -/
def sysWrite (lin : Word) (n : Nat) (v : Word) : M Unit := linWrite lin n v (Access.system true)

/-- Set bits of one byte at a linear address for good: the Accessed bit of a descriptor (R165). -/
def sysSetBits (lin : Word) (mask : Byte) : M Unit := do
  let as ← physOf lin 1 (Access.system true)
  match as with
  | a :: _ => physSetBits a mask
  | [] => pure ()

/-- The TLB emptied: all V bits cleared (R245). -/
def flushTlb (s : State) : State :=
  { s with
    tlb := { s.tlb with entries := s.tlb.entries.map fun e => { e with valid := false }, flushed := true } }

end Sys2Proof.Machine
end

