-- ==== Sys2Proof/Machine/Segment.lean ====
section
/-! DEFINITION. Segment registers, descriptors, the checks on a memory access, data breakpoints, and the loads of
segment registers (spec/10_state.md R80 to R86, spec/20_memory.md R144 to R202). -/

namespace Sys2Proof.Machine

/-- A segment register. -/
def Segs.get (g : Segs) (r : SReg) : SegReg :=
  match r with
  | .es => g.es
  | .cs => g.cs
  | .ss => g.ss
  | .ds => g.ds
  | .fs => g.fs
  | .gs => g.gs

/-- The segment registers with one replaced. -/
def Segs.put (g : Segs) (r : SReg) (v : SegReg) : Segs :=
  match r with
  | .es => { g with es := v }
  | .cs => { g with cs := v }
  | .ss => { g with ss := v }
  | .ds => { g with ds := v }
  | .fs => { g with fs := v }
  | .gs => { g with gs := v }

/-- The segment register of a state. -/
def State.seg (s : State) (r : SReg) : SegReg := s.segs.get r

/-- Replace a segment register. -/
def setSeg (r : SReg) (v : SegReg) : M Unit := modify fun s => { s with segs := s.segs.put r v }

/-- The cached segment is a code segment: Type bit 3 (R84). -/
def SegReg.isCode (g : SegReg) : Bool := g.dt && g.typ.getLsbD 3

/-- The cached segment is expand-down data (R84). -/
def SegReg.expandDown (g : SegReg) : Bool := g.dt && !g.typ.getLsbD 3 && g.typ.getLsbD 2

/-- Type bit 1: readable for code, writable for data (R84). -/
def SegReg.rw (g : SegReg) : Bool := g.typ.getLsbD 1

/-- Whether `n` bytes at an offset lie inside the segment, without wrap (R170, R171). -/
def SegReg.inLimit (g : SegReg) (off : Word) (n : Nat) : Bool :=
  let last := off.toNat + n - 1
  if g.expandDown then
    decide (g.limit.toNat < off.toNat) && decide (last ≤ if g.db then 0xFFFFFFFF else 0xFFFF)
  else decide (last ≤ g.limit.toNat)

/-- The exception of a failed check on an access through a segment register (R200, R202). -/
def segFault (r : SReg) : Exc := if r = .ss then .ss 0 else .gp 0

/-- The segment checks of a data access in their order: null and type in protected mode (R200 a, b, R201), the limit in
every mode (R200 c, R202). -/
def segCheck (s : State) (r : SReg) (off : Word) (n : Nat) (write : Bool) : Bool :=
  let g := s.seg r
  let typeOk := g.valid && (if write then !g.isCode && g.rw else !g.isCode || g.rw)
  (!s.isProtected || typeOk) && g.inLimit off n

/-- The L and G bits of breakpoint `i` (R117). -/
def bpEnabled (dr7 : Word) (i : Nat) : Bool := dr7.getLsbD (2 * i) || dr7.getLsbD (2 * i + 1)

/-- The R/W field of breakpoint `i` (R117). -/
def bpKind (dr7 : Word) (i : Nat) : BitVec 2 := dr7.extractLsb' (16 + 4 * i) 2

/-- The LEN field of breakpoint `i` (R117). -/
def bpLen (dr7 : Word) (i : Nat) : BitVec 2 := dr7.extractLsb' (18 + 4 * i) 2

/-- The address register of breakpoint `i` (R115). -/
def bpAddr (d : DebugRegs) (i : Nat) : Word :=
  match i with
  | 0 => d.dr0
  | 1 => d.dr1
  | 2 => d.dr2
  | _ => d.dr3

/-- Whether a byte range meets the range of a breakpoint: `len` bytes at the address with its low bits masked (R1005).
Both ranges are taken modulo 2^32. -/
def bpOverlaps (addr : Word) (len : Nat) (lin : Word) (n : Nat) : Bool :=
  let first := addr &&& ~~~(BitVec.ofNat 32 (len - 1))
  (lin - first).toNat < len || (first - lin).toNat < n

/-- Whether a data access meets the condition of breakpoint `i`, enabled or not (R1005). The answer for the encodings
that the spec calls undefined is the argument `undef` (U23, log entry 24). -/
def bpDataMatch (d : DebugRegs) (undef : Bool) (lin : Word) (n : Nat) (write : Bool) (i : Nat) : Bool :=
  match bpKind d.dr7 i with
  | 0#2 => false
  | 2#2 => undef
  | k =>
    match bpLen d.dr7 i with
    | 0#2 => (k == 3#2 || write) && bpOverlaps (bpAddr d i) 1 lin n
    | 1#2 => (k == 3#2 || write) && bpOverlaps (bpAddr d i) 2 lin n
    | 3#2 => (k == 3#2 || write) && bpOverlaps (bpAddr d i) 4 lin n
    | _ => undef

/-- Whether an instruction whose first byte is at a linear address meets the condition of breakpoint `i`, enabled or not
(R1005). The length of an instruction breakpoint should be one byte; with another the effect is undefined. -/
def bpInstrMatch (d : DebugRegs) (undef : Bool) (lin : Word) (i : Nat) : Bool :=
  bpKind d.dr7 i == 0#2 && (if bpLen d.dr7 i == 0#2 then bpAddr d i == lin else undef)

/-- Four bits, one for each breakpoint. -/
def bits4 (f : Nat → Bool) : BitVec 4 :=
  BitVec.ofBool (f 3) ++ BitVec.ofBool (f 2) ++ BitVec.ofBool (f 1) ++ BitVec.ofBool (f 0)

/-- Record which breakpoints a data access met, enabled or not (R144 step 4, R1005, R1007). -/
def recordHits (lin : Word) (n : Nat) (write : Bool) : M Unit := modify fun s =>
  { s with
    cur :=
      { s.cur with
        hits := s.cur.hits ||| bits4 (bpDataMatch s.dbg (Config.undefinedBreakpoint s.draws) lin n write) }
    draws := s.draws + 1 }

/-- The access that the program makes: user-level at CPL 3 (R242). -/
def State.access (s : State) (write : Bool) : Access := ⟨write, s.curCpl == 3⟩

/-- The linear address of an offset in a segment (R144 step 3). -/
def State.linear (s : State) (r : SReg) (off : Word) : Word := (s.seg r).base + off

/-- The checks and the translation of a data access, in their order: the segment, the breakpoints, the pages. The
answer is the physical addresses of its bytes, in ascending order (R144). -/
def dataPhys (r : SReg) (off : Word) (n : Nat) (write : Bool) : M (List (BitVec 24)) := do
  let s ← get
  require (segCheck s r off n write) (segFault r)
  let lin := s.linear r off
  recordHits lin n write
  physOf lin n (s.access write)

/-- MEM-R: read `n` bytes, at most four, at an offset in a segment (R144, R200). -/
def readMem (r : SReg) (off : Word) (n : Nat) : M Word := do
  let as ← dataPhys r off n false
  let bs ← physReadAll as
  return leValue bs

/-- MEM-W: write `n` bytes, at most four, at an offset in a segment (R144, R201). -/
def writeMem (r : SReg) (off : Word) (n : Nat) (v : Word) : M Unit := do
  let as ← dataPhys r off n true
  physWriteAll as (leBytes n v)

/-- The checks of MEM-W without the write: made before the read of a read-modify-write (R201, D59), and before a port is
read for INS (D41). The answer is the translation of the pages, in which no bit has been set yet. -/
def probeMem (r : SReg) (off : Word) (n : Nat) : M (Trans × Trans) := do
  let s ← get
  require (segCheck s r off n true) (segFault r)
  translateBoth (s.linear r off) n (s.access true)

/-- The write whose checks `probeMem` has made, by the translation it answered: it raises nothing (D41). -/
def writeProbed (r : SReg) (off : Word) (n : Nat) (ts : Trans × Trans) (v : Word) : M Unit := do
  let s ← get
  let lin := s.linear r off
  recordHits lin n true
  let as ← physFrom lin n (s.access true) ts
  physWriteAll as (leBytes n v)

/-- The eight bytes of a descriptor, as two doublewords (R83, R961). -/
structure Desc where
  lo : Word
  hi : Word
  deriving DecidableEq, Repr

/-- The P bit (R83). -/
def Desc.present (d : Desc) : Bool := d.hi.getLsbD 15

/-- The DPL field (R83). -/
def Desc.dpl (d : Desc) : BitVec 2 := d.hi.extractLsb' 13 2

/-- The DT bit: set for code and data (R83). -/
def Desc.dt (d : Desc) : Bool := d.hi.getLsbD 12

/-- The Type field (R84, R85). -/
def Desc.typ (d : Desc) : BitVec 4 := d.hi.extractLsb' 8 4

/-- The base address (R83). -/
def Desc.base (d : Desc) : Word := d.hi.extractLsb' 24 8 ++ d.hi.extractLsb' 0 8 ++ d.lo.extractLsb' 16 16

/-- The effective limit (R170). -/
def Desc.limit (d : Desc) : Word :=
  let raw : BitVec 20 := d.hi.extractLsb' 16 4 ++ d.lo.extractLsb' 0 16
  if d.hi.getLsbD 23 then raw ++ 0xFFF#12 else raw.setWidth 32

/-- The D or B bit (R86). -/
def Desc.db (d : Desc) : Bool := d.hi.getLsbD 22

/-- A code segment: DT = 1 and Type bit 3 (R84). -/
def Desc.isCode (d : Desc) : Bool := d.dt && d.typ.getLsbD 3

/-- A conforming code segment (R84). -/
def Desc.conforming (d : Desc) : Bool := d.isCode && d.typ.getLsbD 2

/-- A data segment: DT = 1 and not code. -/
def Desc.isData (d : Desc) : Bool := d.dt && !d.typ.getLsbD 3

/-- A writable data segment (R84). -/
def Desc.writable (d : Desc) : Bool := d.isData && d.typ.getLsbD 1

/-- A data segment or a readable code segment (R84). -/
def Desc.readable (d : Desc) : Bool := d.isData || (d.isCode && d.typ.getLsbD 1)

/-- A data segment or a nonconforming code segment, to which the data-access privilege rule applies (R962). -/
def Desc.privChecked (d : Desc) : Bool := !d.conforming

/-- The selector field of a gate (R961). -/
def Desc.gateSel (d : Desc) : Half := d.lo.extractLsb' 16 16

/-- The offset field of a gate: 16 bits in an 80286 gate (R961). -/
def Desc.gateOff (d : Desc) : Word :=
  if d.typ.getLsbD 3 then d.hi.extractLsb' 16 16 ++ d.lo.extractLsb' 0 16 else (d.lo.extractLsb' 0 16).setWidth 32

/-- The count field of a call gate (R961). -/
def Desc.gateCount (d : Desc) : Nat := (d.hi.extractLsb' 0 5).toNat

/-- The cache of a segment register loaded from a descriptor (R80). -/
def Desc.toSeg (d : Desc) (sel : Half) : SegReg :=
  { sel := sel
    base := d.base
    limit := d.limit
    valid := true
    typ := d.typ
    dt := d.dt
    dpl := d.dpl
    db := d.db }

/-- Where the descriptor of a selector lies: its linear address, if the selector is within the limit of its table. A
selector for the LDT fails while LDTR is null (R160). -/
def descAddr (s : State) (sel : Half) : Option Word :=
  let off := (sel &&& 0xFFF8).toNat
  if selTi sel then
    if s.sys.ldtr.valid && decide (off + 7 ≤ s.sys.ldtr.limit.toNat) then
      some (s.sys.ldtr.base + BitVec.ofNat 32 off)
    else none
  else if off + 7 ≤ s.sys.gdtr.limit.toNat then some (s.sys.gdtr.base + BitVec.ofNat 32 off)
  else none

/-- Fetch a descriptor at a linear address (R160, R166). -/
def readDesc (lin : Word) : M Desc := do
  let lo ← sysRead lin 4
  let hi ← sysRead (lin + 4) 4
  return ⟨lo, hi⟩

/-- Fetch the descriptor of a selector, or raise the given exception if it is outside its table. The linear address
comes with it. -/
def fetchDesc (sel : Half) (e : Exc) : M (Word × Desc) := do
  let s ← get
  match descAddr s sel with
  | none => raise e
  | some lin => do
    let d ← readDesc lin
    return (lin, d)

/-- Set the Accessed bit of a code or data descriptor that is loaded into a segment register, if it is clear (R165). -/
def markAccessed (lin : Word) (d : Desc) : M Unit :=
  if d.dt && !d.typ.getLsbD 0 then sysSetBits (lin + 5) 1 else pure ()

/-- The cache after a segment load has set the Accessed bit. -/
def Desc.accessed (d : Desc) : Desc := { d with hi := d.hi ||| 0x100 }

/-- Load a segment register from a checked descriptor (R160, R165). -/
def loadFromDesc (r : SReg) (sel : Half) (lin : Word) (d : Desc) : M Unit := do
  markAccessed lin d
  setSeg r (d.accessed.toSeg sel)

/-- A load in real-address mode: selector and base only (R150, D84). -/
def SegReg.real (g : SegReg) (sel : Half) : SegReg := { g with sel := sel, base := sel.setWidth 32 <<< 4 }

/-- A load in virtual-8086 mode: base, and the attributes of a 64K writable 16-bit segment with DPL 3 (R151, D85). -/
def SegReg.v86 (sel : Half) : SegReg :=
  { sel := sel
    base := sel.setWidth 32 <<< 4
    limit := 0xFFFF
    valid := true
    typ := 3
    dt := true
    dpl := 3
    db := false }

/-- A null selector in a data segment register: the cache is marked invalid (R163). -/
def SegReg.null (g : SegReg) (sel : Half) : SegReg := { g with sel := sel, valid := false }

/-- Load SS with a selector (R161), in every mode (R160). -/
def loadSs (sel : Half) : M Unit := do
  let s ← get
  if s.isReal then setSeg .ss ((s.seg .ss).real sel)
  else if s.isV86 then setSeg .ss (SegReg.v86 sel)
  else do
    require (!selNull sel) (.gp 0)
    let code := selCode sel false
    let (lin, d) ← fetchDesc sel (.gp code)
    require (rpl sel == s.curCpl) (.gp code)
    require d.writable (.gp code)
    require (d.dpl == s.curCpl) (.gp code)
    require d.present (.ss code)
    loadFromDesc .ss sel lin d

/-- Load DS, ES, FS or GS with a selector (R162, R163), in every mode (R160). -/
def loadData (r : SReg) (sel : Half) : M Unit := do
  let s ← get
  if s.isReal then setSeg r ((s.seg r).real sel)
  else if s.isV86 then setSeg r (SegReg.v86 sel)
  else if selNull sel then setSeg r ((s.seg r).null sel)
  else do
    let code := selCode sel false
    let (lin, d) ← fetchDesc sel (.gp code)
    require d.readable (.gp code)
    require (!d.privChecked || decide ((maxPl s.curCpl (rpl sel)).toNat ≤ d.dpl.toNat)) (.gp code)
    require d.present (.np code)
    loadFromDesc r sel lin d

/-- Load a segment register other than CS (R160). -/
def loadSeg (r : SReg) (sel : Half) : M Unit := if r = .ss then loadSs sel else loadData r sel

end Sys2Proof.Machine
end

