-- ==== Sys2Proof/Machine/Operands.lean ====
section
/-! DEFINITION. Operands: general registers of every width, effective addresses, r/m and moffs operands, the stack
pointer (spec/10_state.md R40, spec/30_encoding.md R305 to R320). -/

namespace Sys2Proof.Machine

/-- A general register. -/
def Regs.get (g : Regs) (r : Reg) : Word :=
  match r with
  | .eax => g.eax
  | .ecx => g.ecx
  | .edx => g.edx
  | .ebx => g.ebx
  | .esp => g.esp
  | .ebp => g.ebp
  | .esi => g.esi
  | .edi => g.edi

/-- The general registers with one replaced. -/
def Regs.put (g : Regs) (r : Reg) (v : Word) : Regs :=
  match r with
  | .eax => { g with eax := v }
  | .ecx => { g with ecx := v }
  | .edx => { g with edx := v }
  | .ebx => { g with ebx := v }
  | .esp => { g with esp := v }
  | .ebp => { g with ebp := v }
  | .esi => { g with esi := v }
  | .edi => { g with edi := v }

/-- The register whose low bytes a byte register number names, and whether it names the high byte: 0 to 3 AL, CL, DL,
BL and 4 to 7 AH, CH, DH, BH (R311). -/
def byteReg (r : Reg) : Reg × Bool :=
  match r with
  | .eax => (.eax, false)
  | .ecx => (.ecx, false)
  | .edx => (.edx, false)
  | .ebx => (.ebx, false)
  | .esp => (.eax, true)
  | .ebp => (.ecx, true)
  | .esi => (.edx, true)
  | .edi => (.ebx, true)

/-- The operand of width `z` that a register number names (R40, R311). -/
def Regs.read (g : Regs) (z : Size) (r : Reg) : z.Val :=
  match z with
  | .b => if (byteReg r).2 then (g.get (byteReg r).1).extractLsb' 8 8 else (g.get (byteReg r).1).setWidth 8
  | .w => (g.get r).setWidth 16
  | .d => g.get r

/-- The registers with an operand written: the rest of the register is left unchanged (R40). -/
def Regs.write (g : Regs) (z : Size) (r : Reg) (v : z.Val) : Regs :=
  match z with
  | .b =>
    let old := g.get (byteReg r).1
    if (byteReg r).2 then g.put (byteReg r).1 (old.extractLsb' 16 16 ++ v ++ old.extractLsb' 0 8)
    else g.put (byteReg r).1 (old.extractLsb' 8 24 ++ v)
  | .w => g.put r ((g.get r).extractLsb' 16 16 ++ v)
  | .d => g.put r v

/-- Read a register operand. -/
def readReg (z : Size) (r : Reg) : M z.Val := gets fun s => s.regs.read z r

/-- Write a register operand. -/
def writeReg (z : Size) (r : Reg) (v : z.Val) : M Unit := modify fun s => { s with regs := s.regs.write z r v }

/-- A value of width `z` as the low part of a doubleword. -/
def toWord (z : Size) (v : z.Val) : Word := v.setWidth 32

/-- The low part of a doubleword as a value of width `z`. -/
def ofWord (z : Size) (v : Word) : z.Val := v.setWidth z.bits

/-- The registers of a 16-bit effective address, added modulo 2^16 (R312). -/
def base16Val (g : Regs) (b : Base16) : Half :=
  let bx := g.ebx.setWidth 16
  let bp := g.ebp.setWidth 16
  let si := g.esi.setWidth 16
  let di := g.edi.setWidth 16
  match b with
  | .bxSi => bx + si
  | .bxDi => bx + di
  | .bpSi => bp + si
  | .bpDi => bp + di
  | .si => si
  | .di => di
  | .bp => bp
  | .bx => bx

/-- A 16-bit displacement: disp8 is sign-extended (R312). -/
def disp16Val (d : Disp16) : Half :=
  match d with
  | .none => 0
  | .d8 d => d.signExtend 16
  | .d16 d => d

/-- A 32-bit displacement: disp8 is sign-extended (R314). -/
def disp32Val (d : Disp32) : Word :=
  match d with
  | .none => 0
  | .d8 d => d.signExtend 32
  | .d32 d => d

/-- The scaled index of a SIB byte: none for index 100 (R315). -/
def indexVal (g : Regs) (ss : BitVec 2) (x : Reg) : Word := if x = .esp then 0 else g.get x <<< ss.toNat

/-- The effective address (R312, R314, R315). -/
def eaVal (g : Regs) (e : Ea) : Word :=
  match e with
  | .m16 b d => (base16Val g b + disp16Val d).setWidth 32
  | .abs16 d => d.setWidth 32
  | .m32 b d => g.get b + disp32Val d
  | .abs32 d => d
  | .sib ss x b d => g.get b + indexVal g ss x + disp32Val d
  | .sibAbs ss x d => indexVal g ss x + d

/-- The SIB encodings whose effective address the spec calls undefined: no index with a scale (R315, U27). -/
def eaUndefined (e : Ea) : Bool :=
  match e with
  | .m16 _ _ => false
  | .abs16 _ => false
  | .m32 _ _ => false
  | .abs32 _ => false
  | .sib ss x _ _ => x == .esp && ss != 0
  | .sibAbs ss x _ => x == .esp && ss != 0

/-- The effective address of a memory operand; the instruction is refused where it is undefined (R315, R352, D94). -/
def effAddr (e : Ea) : M Word :=
  if eaUndefined e then refuse .sibIndex else gets fun s => eaVal s.regs e

/-- The default segment: SS with a BP, EBP or ESP base, DS otherwise (R313). -/
def eaSeg (e : Ea) : SReg :=
  match e with
  | .m16 .bpSi _ => .ss
  | .m16 .bpDi _ => .ss
  | .m16 .bp _ => .ss
  | .m16 _ _ => .ds
  | .abs16 _ => .ds
  | .m32 .ebp _ => .ss
  | .m32 .esp _ => .ss
  | .m32 _ _ => .ds
  | .abs32 _ => .ds
  | .sib _ _ .ebp _ => .ss
  | .sib _ _ .esp _ => .ss
  | .sib _ _ _ _ => .ds
  | .sibAbs _ _ _ => .ds

/-- The segment of an overridable memory operand: the prefix's, or the default (R286, R313). -/
def State.dataSeg (s : State) (dflt : SReg) : SReg := s.cur.seg.getD dflt

/-- Where an r/m operand stands, with its address computed. -/
inductive Place where
  | reg (r : Reg)
  | mem (seg : SReg) (off : Word)
  deriving DecidableEq, Repr

/-- Whether a place is in memory. -/
def Place.isMem (p : Place) : Bool :=
  match p with
  | .reg _ => false
  | .mem _ _ => true

/-- The place of a memory operand (R313, R316). -/
def eaPlace (e : Ea) : M Place := do
  let off ← effAddr e
  let s ← get
  return .mem (s.dataSeg (eaSeg e)) off

/-- The place of an r/m operand (R310). -/
def place (rm : Rm) : M Place :=
  match rm with
  | .reg r => pure (.reg r)
  | .mem e => eaPlace e

/-- Read an operand of width `z` (MEM-R when it is in memory). -/
def Place.read (z : Size) (p : Place) : M z.Val :=
  match p with
  | .reg r => readReg z r
  | .mem sr off => do
    let v ← readMem sr off z.bytes
    return ofWord z v

/-- Write an operand of width `z` (MEM-W when it is in memory). -/
def Place.write (z : Size) (p : Place) (v : z.Val) : M Unit :=
  match p with
  | .reg r => writeReg z r v
  | .mem sr off => writeMem sr off z.bytes (toWord z v)

/-- Read an operand that will be written: every check of the write comes before the read (R201). -/
def Place.readRmw (z : Size) (p : Place) : M z.Val :=
  match p with
  | .reg r => readReg z r
  | .mem sr off => do
    let _ ← probeMem sr off z.bytes
    let v ← readMem sr off z.bytes
    return ofWord z v

/-- Read an r/m operand of width `z`. -/
def readRm (z : Size) (rm : Rm) : M z.Val := do
  let p ← place rm
  p.read z

/-- Write an r/m operand of width `z`. -/
def writeRm (z : Size) (rm : Rm) (v : z.Val) : M Unit := do
  let p ← place rm
  p.write z v

/-- The place of a moffs operand (R313, R320). -/
def moffsPlace (p : Moffs) : M Place := do
  let s ← get
  let off : Word :=
    match p with
    | .p16 off => off.setWidth 32
    | .p32 off => off
  return .mem (s.dataSeg .ds) off

/-- The width of a register used as an address or a counter under an address size (R305). -/
abbrev asizeOf (a : ASize) : Size :=
  match a with
  | .a16 => .w
  | .a32 => .d

/-- A register used as an address under an address size, extended with zeros. -/
def addrReg (a : ASize) (r : Reg) : M Word := do
  let v ← readReg (asizeOf a) r
  return toWord (asizeOf a) v

/-- Write a register used as an address or a counter: with 16 bits the upper half stays (R700). -/
def setAddrReg (a : ASize) (r : Reg) (v : Word) : M Unit := writeReg (asizeOf a) r (ofWord (asizeOf a) v)

/-- StackAddrSize: the B bit of the SS cache, in every mode (R305, R1062). -/
def State.stackSize (s : State) : ASize := if s.segs.ss.db then .a32 else .a16

/-- The offset that a stack pointer value stands for: SP or ESP (R405). -/
def stackOff (a : ASize) (v : Word) : Word :=
  match a with
  | .a16 => (v.setWidth 16).setWidth 32
  | .a32 => v

/-- ESP with the stack pointer replaced: SP alone when the stack is 16-bit (R405). -/
def withSp (a : ASize) (esp v : Word) : Word :=
  match a with
  | .a16 => esp.extractLsb' 16 16 ++ v.extractLsb' 0 16
  | .a32 => v

/-- Set the stack pointer, SP or ESP by the stack size. -/
def setSp (v : Word) : M Unit := modify fun s =>
  { s with regs := { s.regs with esp := withSp s.stackSize s.regs.esp v } }

/-- Load the stack pointer of a stack whose segment a descriptor gives: ESP, or SP alone when its B bit is clear (R15,
R607). -/
def loadSp (big : Bool) (v : Word) : M Unit := modify fun s =>
  { s with regs := { s.regs with esp := withSp (if big then .a32 else .a16) s.regs.esp v } }

end Sys2Proof.Machine
end

