-- ==== Sys2Proof/Machine/Task.lean ====
section
/-! DEFINITION. The task state segment and the task switch (spec/20_memory.md R230, R231, spec/60_exceptions.md R990,
R992). -/

namespace Sys2Proof.Machine

/-- What a task switch is made by (R990). Interrupts and exceptions through a task gate switch with nesting, as CALL
does. -/
inductive TaskKind where
  | jmp
  | call
  | iret
  deriving DecidableEq, Repr

/-- A TSS type of the 386 SX, 9 or 11; the others are 80286 types (R231). -/
def tss32 (typ : BitVec 4) : Bool := typ.getLsbD 3

/-- An available TSS: type 1 or 9 (R231). -/
def Desc.availTss (d : Desc) : Bool := !d.dt && (d.typ == 1 || d.typ == 9)

/-- A busy TSS: type 3 or 11 (R231). -/
def Desc.busyTss (d : Desc) : Bool := !d.dt && (d.typ == 3 || d.typ == 11)

/-- A selector in a slot of `n` bytes: a doubleword has the upper half `hi`. -/
def selSlot (n : Nat) (hi sel : Half) : Word := if n = 2 then sel.setWidth 32 else hi ++ sel

/-- A selector in a slot of `n` bytes; the upper half of a doubleword is unspecified (U7, D32). -/
def padSel (n : Nat) (sel : Half) : M Word := do
  let hi ← freeBits 16
  return selSlot n hi sel

/-- The flags in a slot of width `z`: FLAGS, or the given image of EFLAGS. -/
def flagsSlot (z : Size) (f : Flags) (image : Word) : Word := if z = .d then image else f.low.setWidth 32

/-- The EFLAGS image that is exposed: bits 31:18 are unspecified (R70, U21). -/
def eflagsImage (f : Flags) : M Word := do
  let hi ← freeBits 14
  return f.image hi

/-- Set or clear the Busy bit of the TSS descriptor at a linear address (R231). -/
def setBusy (lin : Word) (busy : Bool) : M Unit := do
  let b ← sysRead (lin + 5) 1
  sysWrite (lin + 5) 1 (if busy then b ||| 2 else b &&& 0xFD)

/-- The general registers in the order of a TSS (R230). -/
def tssRegs : List Reg := [.eax, .ecx, .edx, .ebx, .esp, .ebp, .esi, .edi]

/-- The segment registers in the order of a TSS (R230); an 80286 TSS has the first four. -/
def tssSegs : List SReg := [.es, .cs, .ss, .ds, .fs, .gs]

/-- Save general registers in the TSS from an address on, `n` bytes apart and `n` bytes each. -/
def saveRegs (lin : Word) (n : Nat) (rs : List Reg) : M Unit :=
  match rs with
  | [] => pure ()
  | r :: rest => do
    let s ← get
    sysWrite lin n (s.regs.get r)
    saveRegs (lin + BitVec.ofNat 32 n) n rest

/-- Save selectors in the TSS from an address on; a doubleword slot gets an unspecified upper half (U7). -/
def saveSels (lin : Word) (n : Nat) (rs : List SReg) : M Unit :=
  match rs with
  | [] => pure ()
  | r :: rest => do
    let s ← get
    let v ← padSel n (s.seg r).sel
    sysWrite lin n v
    saveSels (lin + BitVec.ofNat 32 n) n rest

/-- The offset of the last byte that a save of the task writes in a TSS of a type (R230). -/
def saveEnd (typ : BitVec 4) : Nat := if tss32 typ then 0x5F else 0x29

/-- Save the task in its TSS, in the layout of the TSS's type (R230) and in the order of R990 step 4. The fields must lie
within the limit of TR (R166), else #TS with its selector (log entry 57, DESIGN CHOICE). -/
def saveTask (f : Flags) (ext : Bool) : M Unit := do
  let s ← get
  let tr := s.sys.tr
  require (decide (saveEnd tr.typ ≤ tr.limit.toNat)) (.ts (selCode tr.sel ext))
  let image ← eflagsImage f
  if tss32 tr.typ then do
    saveRegs (tr.base + 0x28) 4 tssRegs
    saveSels (tr.base + 0x48) 4 tssSegs
    sysWrite (tr.base + 0x24) 4 image
    sysWrite (tr.base + 0x20) 4 s.eip
  else do
    saveRegs (tr.base + 0x12) 2 tssRegs
    saveSels (tr.base + 0x22) 2 (tssSegs.take 4)
    sysWrite (tr.base + 0x10) 2 (flagsSlot .w f image)
    sysWrite (tr.base + 0x0E) 2 s.eip

/-- Clear the Busy bit of the TSS that TR names (R990 step 2). Its descriptor must lie within the limit of the GDT (R166),
else #TS with its selector (log entry 57, DESIGN CHOICE). -/
def clearOldBusy (ext : Bool) : M Unit := do
  let s ← get
  match descAddr s (s.sys.tr.sel &&& 0xFFF8) with
  | none => raise (.ts (selCode s.sys.tr.sel ext))
  | some lin => setBusy lin false

/-- What a task switch loads from the new TSS (R990 step 9). -/
structure TaskImage where
  eip : Word
  eflags : Word
  rf : Bool
  regs : Regs
  es : Half
  cs : Half
  ss : Half
  ds : Half
  fs : Half
  gs : Half
  ldt : Half
  deriving DecidableEq, Repr

/-- Read the dynamic fields and the LDT selector of a 386 SX TSS (R230). -/
def readTask32 (base : Word) : M TaskImage := do
  let eflags ← sysRead (base + 0x24) 4
  let eip ← sysRead (base + 0x20) 4
  let eax ← sysRead (base + 0x28) 4
  let ecx ← sysRead (base + 0x2C) 4
  let edx ← sysRead (base + 0x30) 4
  let ebx ← sysRead (base + 0x34) 4
  let esp ← sysRead (base + 0x38) 4
  let ebp ← sysRead (base + 0x3C) 4
  let esi ← sysRead (base + 0x40) 4
  let edi ← sysRead (base + 0x44) 4
  let ldt ← sysRead (base + 0x60) 2
  let es ← sysRead (base + 0x48) 2
  let cs ← sysRead (base + 0x4C) 2
  let ss ← sysRead (base + 0x50) 2
  let ds ← sysRead (base + 0x54) 2
  let fs ← sysRead (base + 0x58) 2
  let gs ← sysRead (base + 0x5C) 2
  return {
    eip := eip
    eflags := eflags
    rf := eflags.getLsbD 16
    regs := { eax := eax, ecx := ecx, edx := edx, ebx := ebx, esp := esp, ebp := ebp, esi := esi, edi := edi }
    es := es.setWidth 16
    cs := cs.setWidth 16
    ss := ss.setWidth 16
    ds := ds.setWidth 16
    fs := fs.setWidth 16
    gs := gs.setWidth 16
    ldt := ldt.setWidth 16 }

/-- A 16-bit register image: its upper half is unspecified after the load (D86). -/
def readHalfReg (lin : Word) : M Word := do
  let v ← sysRead lin 2
  let hi ← freeBits 16
  return hi ++ v.setWidth 16

/-- Read an 80286 TSS: no FS and GS, which become null, and no upper EFLAGS word (R230). RF, which such a TSS
does not hold, is unspecified. -/
def readTask16 (base : Word) : M TaskImage := do
  let flags ← sysRead (base + 0x10) 2
  let rf ← freeBit
  let eip ← sysRead (base + 0x0E) 2
  let eax ← readHalfReg (base + 0x12)
  let ecx ← readHalfReg (base + 0x14)
  let edx ← readHalfReg (base + 0x16)
  let ebx ← readHalfReg (base + 0x18)
  let esp ← readHalfReg (base + 0x1A)
  let ebp ← readHalfReg (base + 0x1C)
  let esi ← readHalfReg (base + 0x1E)
  let edi ← readHalfReg (base + 0x20)
  let ldt ← sysRead (base + 0x2A) 2
  let es ← sysRead (base + 0x22) 2
  let cs ← sysRead (base + 0x24) 2
  let ss ← sysRead (base + 0x26) 2
  let ds ← sysRead (base + 0x28) 2
  return {
    eip := eip
    eflags := flags
    rf := rf
    regs := { eax := eax, ecx := ecx, edx := edx, ebx := ebx, esp := esp, ebp := ebp, esi := esi, edi := edi }
    es := es.setWidth 16
    cs := cs.setWidth 16
    ss := ss.setWidth 16
    ds := ds.setWidth 16
    fs := 0
    gs := 0
    ldt := ldt.setWidth 16 }

/-- A segment register whose selector is loaded and whose cache is invalid: any use of it faults (R990). -/
def SegReg.stale (g : SegReg) (sel : Half) : SegReg := { g with sel := sel, valid := false }

/-- The general registers with a value in each. -/
def Regs.ofFun (f : Reg → Word) : Regs :=
  { eax := f .eax
    ecx := f .ecx
    edx := f .edx
    ebx := f .ebx
    esp := f .esp
    ebp := f .ebp
    esi := f .esi
    edi := f .edi }

/-- The task state after a page fault while the new TSS was being read: any value, with every descriptor cache invalid
(U24, log entry 37). -/
def scrambleTask (s : State) : State :=
  let v (k : Nat) : Word := Config.freeWord (s.draws + k)
  let b (k : Nat) : Bool := Config.freeBit (s.draws + k)
  { s with
    regs := Regs.ofFun fun r => v (8 + (regNum r))
    eip := v 0
    flags :=
      { Flags.ofImage (v 1) with vm := s.flags.vm, rf := b 0 }
    segs :=
      { es := s.segs.es.stale ((v 2).setWidth 16)
        cs := s.segs.cs.stale ((v 3).setWidth 16)
        ss := s.segs.ss.stale ((v 4).setWidth 16)
        ds := s.segs.ds.stale ((v 5).setWidth 16)
        fs := s.segs.fs.stale ((v 6).setWidth 16)
        gs := s.segs.gs.stale ((v 7).setWidth 16) }
    sys := { s.sys with ldtr := { s.sys.ldtr with sel := (v 16).setWidth 16, valid := false } }
    draws := s.draws + 17 }
where
  /-- A number for each general register. -/
  regNum (r : Reg) : Nat :=
    match r with
    | .eax => 0
    | .ecx => 1
    | .edx => 2
    | .ebx => 3
    | .esp => 4
    | .ebp => 5
    | .esi => 6
    | .edi => 7

/-- Run a computation; if it raises an exception, change the state in which the exception is delivered. -/
def onExc {α : Type} (m : M α) (h : State → State) : M α := fun s =>
  match m s with
  | .ok a s' => .ok a s'
  | .error (.exc e) s' => .error (.exc e) (h s')
  | .error (.refuse r) s' => .error (.refuse r) s'

/-- DR7 after a task switch: L0 to L3 and LE cleared (R1015). -/
def dr7AfterSwitch (v : Word) : Word := v &&& ~~~0x155#32

/-- Load CR3 from the new TSS if paging is on; the TLB is flushed when the value changes (R245, R990 step 8, D100). -/
def switchCr3 (base : Word) : M Unit := do
  let s ← get
  if s.sys.cr0.pg then do
    let v ← sysRead (base + 0x1C) 4
    let v := v &&& 0xFFFFF000
    if v ≠ s.sys.cr3 then
      modify fun s => flushTlb { s with sys := { s.sys with cr3 := v } }

/-- Put the new task's registers and selectors in place, every descriptor cache invalid (R990 steps 9 and 10). -/
def installTask (kind : TaskKind) (t : TaskImage) (s : State) : State :=
  let f := Flags.ofImage t.eflags
  { s with
    regs := t.regs
    eip := t.eip
    flags :=
      { f with
        rf := t.rf
        nt :=
          match kind with
          | .jmp => false
          | .call => true
          | .iret => f.nt }
    segs :=
      { es := s.segs.es.stale t.es
        cs := s.segs.cs.stale t.cs
        ss := s.segs.ss.stale t.ss
        ds := s.segs.ds.stale t.ds
        fs := s.segs.fs.stale t.fs
        gs := s.segs.gs.stale t.gs }
    sys := { s.sys with ldtr := { s.sys.ldtr with sel := t.ldt, valid := false } }
    dbg := { s.dbg with dr7 := dr7AfterSwitch s.dbg.dr7 }
    queue := []
    cur := { s.cur with keepRf := true } }

/-- The T bit of the new TSS, bit 0 of the word at 64H, raises the debug trap that is taken before the task's first
instruction; an 80286 TSS has no T bit (R230, R990 step 16, R1013). -/
def raiseTrap (d : Desc) : M Unit :=
  if tss32 d.typ then do
    let t ← sysRead (d.base + 0x64) 2
    if t.getLsbD 0 then
      modify fun s => { s with latches := { s.latches with trap := s.latches.trap ||| 0x8000 } }
  else pure ()

/-- Check and load the LDT of the new task (R990 step 11). -/
def switchLdt (sel : Half) (ext : Bool) : M Unit :=
  if selNull sel then pure ()
  else do
    let e := Exc.ts (selCode sel ext)
    require (!selTi sel) e
    let (_, d) ← fetchDesc sel e
    require (!d.dt && d.typ == 2 && d.present) e
    modify fun s =>
      { s with sys := { s.sys with ldtr := { sel := sel, base := d.base, limit := d.limit, valid := true } } }

/-- Check and load CS of the new task; CPL becomes its RPL (R990 step 13). -/
def switchCs (sel : Half) (ext : Bool) : M Unit := do
  let e := Exc.ts (selCode sel ext)
  require (!selNull sel) e
  let (lin, d) ← fetchDesc sel e
  require d.isCode e
  require (if d.conforming then decide (d.dpl.toNat ≤ (rpl sel).toNat) else d.dpl == rpl sel) e
  require d.present (.np (selCode sel ext))
  loadFromDesc .cs sel lin d
  modify fun s => { s with cpl := rpl sel }

/-- Check and load SS of the new task (R990 step 14). -/
def switchSs (sel : Half) (ext : Bool) : M Unit := do
  let e := Exc.ts (selCode sel ext)
  require (!selNull sel) e
  let (lin, d) ← fetchDesc sel e
  require d.writable e
  let s ← get
  require (rpl sel == s.cpl && d.dpl == s.cpl) e
  require d.present (.ss (selCode sel ext))
  loadFromDesc .ss sel lin d

/-- Check and load DS, ES, FS or GS of the new task (R990 step 15). -/
def switchData (ext : Bool) (r : SReg) (sel : Half) : M Unit :=
  if selNull sel then pure ()
  else do
    let e := Exc.ts (selCode sel ext)
    let (lin, d) ← fetchDesc sel e
    require d.readable e
    let s ← get
    require (!d.privChecked || decide ((maxPl s.cpl (rpl sel)).toNat ≤ d.dpl.toNat)) e
    require d.present (.np (selCode sel ext))
    loadFromDesc r sel lin d

/-- Load the descriptors of the new task, or form its segments 8086-style if its VM flag is set (R990 steps 11 to 15,
D99). -/
def loadTaskSegs (t : TaskImage) (ext : Bool) : M Unit := do
  switchLdt t.ldt ext
  let s ← get
  if s.flags.vm then
    modify fun s =>
      { s with
        segs :=
          { es := SegReg.v86 t.es
            cs := SegReg.v86 t.cs
            ss := SegReg.v86 t.ss
            ds := SegReg.v86 t.ds
            fs := SegReg.v86 t.fs
            gs := SegReg.v86 t.gs }
        cpl := 3 }
  else do
    switchCs t.cs ext
    switchSs t.ss ext
    switchData ext .ds t.ds
    switchData ext .es t.es
    switchData ext .fs t.fs
    switchData ext .gs t.gs

/-- The commit point of a task switch: TR takes the new TSS and CR0.TS is set (R990 step 7). -/
def commitTask (sel : Half) (d : Desc) : M Unit := modify fun s =>
  { s with
    sys :=
      { s.sys with
        tr := { sel := sel, base := d.base, limit := d.limit, typ := d.typ ||| 2 }
        cr0 := { s.sys.cr0 with ts := true } }
    cur := { s.cur with committed := true } }

/-- Read the new TSS (R990 steps 8 and 9). -/
def readTask (d : Desc) : M TaskImage := do
  if tss32 d.typ then do
    switchCr3 d.base
    readTask32 d.base
  else readTask16 d.base

/-- SWITCH-TASKS (R990): `sel` names the TSS whose descriptor `d` lies at `lin`, and its type and presence have been
checked. `rf` sets RF in the saved image, for a fault (R943 a); `ext` is the EXT bit of the error codes. -/
def switchTask (kind : TaskKind) (sel : Half) (lin : Word) (d : Desc) (rf ext : Bool) : M Unit := do
  require (decide ((if tss32 d.typ then 0x67 else 0x2B) ≤ d.limit.toNat)) (.ts (selCode sel ext))
  let s ← get
  if kind ≠ .call then clearOldBusy ext
  saveTask
    { s.flags with
      nt := s.flags.nt && kind != .iret
      rf := s.flags.rf || rf }
    ext
  if kind = .call then do
    let n := if tss32 d.typ then 4 else 2
    let link ← padSel n s.sys.tr.sel
    sysWrite d.base n link
  if kind ≠ .iret then setBusy lin true
  commitTask sel d
  let t ← onExc (readTask d) scrambleTask
  modify (installTask kind t)
  loadTaskSegs t ext
  onExc (raiseTrap d) scrambleTask

/-- The new EIP must lie in the new code segment (R990 step 17), unless the trap of step 16 was raised, which comes
first (log entry 61, DEDUCED). -/
def checkNewEip : M Unit := do
  let s ← get
  require (s.latches.trap != 0 || s.segs.cs.inLimit s.eip 1) (.gp 0)

/-- The stack pointer and stack selector that the TSS holds for a privilege level (R230); both fields must lie in the
TSS, else #TS names it. An 80286 TSS holds only SP; the upper half of ESP is then unspecified (D61). -/
def innerStack (level : BitVec 2) (ext : Bool) : M (Half × Word) := do
  let s ← get
  let tr := s.sys.tr
  let n := level.toNat
  if tss32 tr.typ then do
    require (decide (8 + 8 * n + 1 ≤ tr.limit.toNat)) (.ts (selCode tr.sel ext))
    let esp ← sysRead (tr.base + BitVec.ofNat 32 (4 + 8 * n)) 4
    let ss ← sysRead (tr.base + BitVec.ofNat 32 (8 + 8 * n)) 2
    return (ss.setWidth 16, esp)
  else do
    require (decide (4 + 4 * n + 1 ≤ tr.limit.toNat)) (.ts (selCode tr.sel ext))
    let sp ← readHalfReg (tr.base + BitVec.ofNat 32 (2 + 4 * n))
    let ss ← sysRead (tr.base + BitVec.ofNat 32 (4 + 4 * n)) 2
    return (ss.setWidth 16, sp)

end Sys2Proof.Machine
end

