-- ==== Sys2Proof/Machine/Ops.lean ====
section
/-! DEFINITION. The stack, taking an exception or interrupt, and the return from one
(spec/40_data_movement.md R405, spec/60_exceptions.md R900 to R957, spec/44_control_transfer.md R613 to R616). -/

namespace Sys2Proof.Machine

/-- Push(value): the store comes first, and the stack pointer changes only when it succeeds (R405). A word pushed at SP = 1
is a stack fault: in real-address mode its delivery ends in shutdown (R948), in virtual-8086 mode it goes through the IDT (log
entry 68, DEDUCED). -/
def push (z : Size) (v : Word) : M Unit := do
  let s ← get
  let sp := s.regs.esp - BitVec.ofNat 32 z.bytes
  writeMem .ss (stackOff s.stackSize sp) z.bytes v
  setSp sp

/-- Pop() (R405). -/
def pop (z : Size) : M Word := do
  let s ← get
  let v ← readMem .ss (stackOff s.stackSize s.regs.esp) z.bytes
  setSp (s.regs.esp + BitVec.ofNat 32 z.bytes)
  return v

/-- The item of width `z` that lies `k` bytes above the top of the stack. -/
def peekStack (z : Size) (k : Nat) : M Word := do
  let s ← get
  readMem .ss (stackOff s.stackSize (s.regs.esp + BitVec.ofNat 32 k)) z.bytes

/-- Whether `n` bytes can be pushed onto a stack whose pointer holds a value: they lie inside the segment, in one
piece. -/
def roomFor (g : SegReg) (esp : Word) (n : Nat) : Bool :=
  g.inLimit (stackOff (if g.db then .a32 else .a16) (esp - BitVec.ofNat 32 n)) n

/-- The current stack must have room for `n` bytes, else #SS(0). -/
def needRoom (n : Nat) : M Unit := do
  let s ← get
  require (roomFor s.segs.ss s.regs.esp n) (.ss 0)

/-- The top `n` bytes of the stack, from `k` bytes above the pointer, must be within the stack limits, else #SS(0). -/
def needTop (k n : Nat) : M Unit := do
  let s ← get
  require (s.segs.ss.inLimit (stackOff s.stackSize (s.regs.esp + BitVec.ofNat 32 k)) n) (.ss 0)

/-- A selector pushed with operand width `z`: a doubleword has an unspecified upper half (U7, D32). -/
def pushSel (z : Size) (sel : Half) : M Unit := do
  let v ← padSel z.bytes sel
  push z v

/-- Prefetched bytes are discarded by a taken transfer (R265). -/
def flushQueue : M Unit := modify fun s => { s with queue := [] }

/-- A near transfer: a new EIP in the same code segment. -/
def setEip (v : Word) : M Unit := modify fun s => { s with eip := v, queue := [] }

/-- What kind of event is delivered (R900). -/
inductive EventKind where
  /-- INT n, INT 3 or INTO. -/
  | soft
  /-- INTR or NMI. -/
  | external
  /-- An exception that the processor detects, or BOUND. -/
  | exception
  deriving DecidableEq, Repr

/-- An interrupt or exception to be delivered. `rf` says that the saved EFLAGS image gets RF = 1, which faults do
(R943 a). -/
structure Event where
  kind : EventKind
  vec : Byte
  code : Option ErrCode
  rf : Bool
  deriving DecidableEq, Repr

/-- Whether an exception is a fault (R901). -/
def isFault (vec : Byte) : Bool := vec != 3 && vec != 4 && vec != 8 && vec != 9

/-- The event of an exception that an instruction or a delivery raises. -/
def Event.ofExc (e : Exc) : Event := ⟨.exception, e.vec, e.code, isFault e.vec⟩

/-- The event of INT n, INT 3 or INTO (R926). -/
def Event.soft (n : Byte) : Event := ⟨.soft, n, none, false⟩

/-- The event of an accepted INTR or NMI (R903, R904). -/
def Event.external (n : Byte) : Event := ⟨.external, n, none, false⟩

/-- A debug trap (R1000). -/
def Event.debugTrap : Event := ⟨.exception, 1, none, false⟩

/-- EXT of the error codes that the delivery of an event raises (R930): clear for the programmed exceptions INT n, INT 3,
INTO and BOUND, set for external interrupts and for other exceptions (log entry 31). -/
def Event.ext (ev : Event) : Bool :=
  match ev.kind with
  | .soft => false
  | .external => true
  | .exception => ev.vec != 5

/-- Push an error code, whose upper bits are unspecified (R924, R930, U29). -/
def pushCode (z : Size) (c : Option ErrCode) : M Unit :=
  match c with
  | none => pure ()
  | some (.sel v) => pushSel z v
  | some (.page bits) => do
    let hi ← freeBits 29
    push z (hi ++ bits)

/-- The bytes that an error code takes on the stack. -/
def codeBytes (z : Size) (c : Option ErrCode) : Nat := if c.isSome then z.bytes else 0

/-- The flags after entry through an interrupt or trap gate (R953, R954, R957 c). -/
def entryFlags (f : Flags) (intGate : Bool) : Flags :=
  { f with tf := false, nt := false, rf := false, vm := false, ie := f.ie && !intGate }

/-- Entry in real-address mode (R950). -/
def enterReal (ev : Event) : M Unit := do
  let s ← get
  let n := ev.vec.toNat * 4
  require (decide (n + 3 ≤ s.sys.idtr.limit.toNat)) .df
  push .w (s.flags.low.setWidth 32)
  setFlags { s.flags with ie := false, tf := false }
  push .w (s.segs.cs.sel.setWidth 32)
  push .w s.eip
  let entry := s.sys.idtr.base + BitVec.ofNat 32 n
  let ip ← sysRead entry 2
  let cs ← sysRead (entry + 2) 2
  setSeg .cs (s.segs.cs.real (cs.setWidth 16))
  setEip ip

/-- Push the return frame of an event: flags, CS and EIP (R953 to R955). -/
def pushReturn (z : Size) (flags : Word) (cs : Half) (eip : Word) : M Unit := do
  push z flags
  pushSel z cs
  push z eip

/-- Set the current privilege level (R81). -/
def setCpl (level : BitVec 2) : M Unit := modify fun s => { s with cpl := level }

/-- Load the descriptor that a gate's selector names into CS at a privilege level and go to the gate's offset. -/
def loadGateTarget (sel : Half) (level : BitVec 2) (lin : Word) (d : Desc) (off : Word) : M Unit := do
  loadFromDesc .cs (withRpl sel level) lin d
  setCpl level
  setEip off

/-- The checks on the stack of an inner level (R953), with `level` the DPL of the target code segment. -/
def checkInnerSs (ss : Half) (level : BitVec 2) (ext : Bool) : M (Word × Desc) := do
  require (!selNull ss) (.ts (extCode ext))
  let e := Exc.ts (selCode ss ext)
  let (lin, d) ← fetchDesc ss e
  require (rpl ss == level) e
  require (d.dpl == level) e
  require d.writable e
  require d.present (.ss (selCode ss ext))
  return (lin, d)

/-- The operand width of a gate: 16 bits for an 80286 gate (R606, R952). -/
def gateSize (gate : Desc) : Size := if gate.typ.getLsbD 3 then .d else .w

/-- Entry at the same privilege level (R955). -/
def enterSame (ev : Event) (gate : Desc) (sel : Half) (lin : Word) (d : Desc) (image : Word) : M Unit := do
  let s ← get
  let z := gateSize gate
  needRoom (3 * z.bytes + codeBytes z ev.code)
  require ((d.toSeg sel).inLimit gate.gateOff 1) (.gp 0)
  pushReturn z (flagsSlot z s.flags image) s.segs.cs.sel s.eip
  loadGateTarget sel s.curCpl lin d gate.gateOff
  pushCode z ev.code
  setFlags (entryFlags s.flags (!gate.typ.getLsbD 0))

/-- Entry at an inner privilege level, with the stack of that level (R953). `eSP` is SP when the new stack segment has
B = 0 (R15 says "the current stack segment": log entry 60, DEDUCED). -/
def enterInner (ev : Event) (gate : Desc) (sel : Half) (lin : Word) (d : Desc) (image : Word) : M Unit := do
  let s ← get
  let z := gateSize gate
  let (ss, esp) ← innerStack d.dpl ev.ext
  let (slin, sd) ← checkInnerSs ss d.dpl ev.ext
  require (roomFor (sd.toSeg ss) esp (5 * z.bytes + codeBytes z ev.code)) (.ss 0)
  require ((d.toSeg sel).inLimit gate.gateOff 1) (.gp 0)
  loadGateTarget sel d.dpl lin d gate.gateOff
  loadFromDesc .ss ss slin sd
  loadSp sd.db esp
  pushSel z s.segs.ss.sel
  push z s.regs.esp
  pushReturn z (flagsSlot z s.flags image) s.segs.cs.sel s.eip
  pushCode z ev.code
  setFlags (entryFlags s.flags (!gate.typ.getLsbD 0))

/-- Entry from virtual-8086 mode to privilege level 0 (R954): the pushes are those of level 0 (R243), and CS is loaded after
them. The rule lists no test of the gate's offset against the
limit of the code segment; the model makes the one of R953 and R955 before anything is pushed (log entry 59, DESIGN
CHOICE). -/
def enterV86 (ev : Event) (gate : Desc) (sel : Half) (lin : Word) (d : Desc) (image : Word) : M Unit := do
  let s ← get
  let (ss, esp) ← innerStack 0 ev.ext
  let (slin, sd) ← checkInnerSs ss 0 ev.ext
  require (roomFor (sd.toSeg ss) esp (36 + codeBytes .d ev.code)) (.ss 0)
  require ((d.toSeg sel).inLimit gate.gateOff 1) (.gp 0)
  setFlags (entryFlags s.flags (!gate.typ.getLsbD 0))
  setCpl 0
  loadFromDesc .ss ss slin sd
  writeReg .d .esp esp
  pushSel .d s.segs.gs.sel
  pushSel .d s.segs.fs.sel
  pushSel .d s.segs.ds.sel
  pushSel .d s.segs.es.sel
  setSeg .gs (s.segs.gs.null 0)
  setSeg .fs (s.segs.fs.null 0)
  setSeg .ds (s.segs.ds.null 0)
  setSeg .es (s.segs.es.null 0)
  pushSel .d s.segs.ss.sel
  push .d s.regs.esp
  pushReturn .d image s.segs.cs.sel s.eip
  pushCode .d ev.code
  loadGateTarget sel 0 lin d gate.gateOff

/-- Entry through an interrupt gate or a trap gate (R952). -/
def enterCode (ev : Event) (gate : Desc) : M Unit := do
  let s ← get
  let sel := gate.gateSel
  let ext := ev.ext
  require (!selNull sel) (.gp (extCode ext))
  let e := Exc.gp (selCode sel ext)
  let (lin, d) ← fetchDesc sel e
  require d.isCode e
  require d.present (.np (selCode sel ext))
  let image ← eflagsImage { s.flags with rf := s.flags.rf || ev.rf }
  if s.flags.vm then do
    require (!d.conforming && d.dpl == 0 && gate.typ.getLsbD 3) e
    enterV86 ev gate sel lin d image
  else if !d.conforming && decide (d.dpl.toNat < s.cpl.toNat) then enterInner ev gate sel lin d image
  else if d.conforming || d.dpl == s.cpl then enterSame ev gate sel lin d image
  else raise e

/-- Entry through a task gate (R956). GDT entry 0 is never used, so that a null selector names no TSS (R90). As every entry
through a gate it clears RF, whatever the new TSS holds (R943 e, R957 c, D98; log entry 64, DEDUCED). -/
def enterTask (ev : Event) (gate : Desc) : M Unit := do
  let sel := gate.gateSel
  let e := Exc.ts (selCode sel ev.ext)
  require (!selNull sel && !selTi sel) e
  let (lin, d) ← fetchDesc sel e
  require d.availTss e
  require d.present (.np (selCode sel ev.ext))
  switchTask .call sel lin d ev.rf ev.ext
  modify fun s => { s with flags := { s.flags with rf := false } }
  let z : Size := if tss32 d.typ then .d else .w
  if ev.code.isSome then needRoom z.bytes
  pushCode z ev.code
  checkNewEip

/-- Whether a descriptor is an interrupt gate (6, 14), a trap gate (7, 15) or a task gate (5) (R951). -/
def Desc.isIdtGate (d : Desc) : Bool :=
  !d.dt && (d.typ == 6 || d.typ == 14 || d.typ == 7 || d.typ == 15 || d.typ == 5)

/-- Entry through the IDT: the gate lookup (R951). -/
def enterGate (ev : Event) : M Unit := do
  let s ← get
  let n := ev.vec.toNat * 8
  let code := idtCode ev.vec ev.ext
  require (decide (n + 7 ≤ s.sys.idtr.limit.toNat)) (.gp code)
  let gate ← readDesc (s.sys.idtr.base + BitVec.ofNat 32 n)
  require gate.isIdtGate (.gp code)
  require (!(ev.kind == .soft && decide (gate.dpl.toNat < s.curCpl.toNat))) (.gp code)
  require gate.present (.np code)
  if gate.typ == 5 then enterTask ev gate else enterCode ev gate

/-- Taking an interrupt or exception (R950 to R957): the saved EIP is the one in the state. HLT ends (R957 a). -/
def enter (ev : Event) : M Unit := do
  let s ← get
  if s.isReal then enterReal ev else enterGate ev
  modify fun s => { s with latches := { s.latches with halted := false } }

/-- The classes of the double-fault table (R918). -/
inductive ExcClass where
  | benign
  | contributory
  | page
  | double
  deriving DecidableEq, Repr

/-- The class of an exception vector (R918). -/
def vecClass (vec : Byte) : ExcClass :=
  if vec == 0 || vec == 9 || vec == 10 || vec == 11 || vec == 12 || vec == 13 then .contributory
  else if vec == 14 then .page
  else if vec == 8 then .double
  else .benign

/-- The class of an event: interrupts and INT n are benign whatever their vector (R918). -/
def Event.cls (ev : Event) : ExcClass :=
  match ev.kind with
  | .exception => vecClass ev.vec
  | .soft => .benign
  | .external => .benign

/-- What is delivered when an exception is raised during the delivery of an event: the exception itself, #DF, or nothing
because the processor shuts down (R918, R948). -/
def escalate (first : Event) (second : Exc) : Option Event :=
  match first.cls, vecClass second.vec with
  | .double, _ => none
  | .contributory, .contributory => some (.ofExc .df)
  | .page, .contributory => some (.ofExc .df)
  | .page, .page => some (.ofExc .df)
  | _, _ => some (.ofExc second)

/-- Whether a bus event stays when a fault undoes its instruction: all but the stores (R940, log entry 62). -/
def IoEvent.stays (e : IoEvent) : Bool :=
  match e with
  | .memWrite _ => false
  | .memSet _ _ => true
  | .portRead _ _ _ => true
  | .portWrite _ _ _ => true
  | .intAck _ => true
  | .halt => true
  | .shutdown => true

/-- The bus events between two states, newest first. -/
def newEvents (before after : State) : List IoEvent := after.io.take (after.io.length - before.io.length)

/-- The bus events of an instruction that stay when a fault undoes it, newest first. -/
def keptEvents (before after : State) : List IoEvent := (newEvents before after).filter IoEvent.stays

/-- The state a fault leaves, from the state before and the state in which it was raised: as before, but for the bits
that stay set in memory, CR2, the TLB, and what the platform saw and chose (R940). -/
def rollback (before after : State) : State :=
  { before with
    mem := Mem.after before.regions (keptEvents before after).reverse before.mem
    sys := { before.sys with cr2 := after.sys.cr2 }
    tlb := { before.tlb with entries := after.tlb.entries }
    io := keptEvents before after ++ before.io
    now := after.now
    draws := after.draws }

/-- The state in which an exception is delivered: rolled back, unless a task switch passed its commit point, after which
the exception belongs to the new task (R990) and the lower-priority trap of the new TSS is discarded (R909). -/
def afterExc (before after : State) : State :=
  if after.cur.committed then { after with latches := { after.latches with trap := before.latches.trap } }
  else rollback before after

/-- Nothing of the instruction or delivery that starts here has happened yet. -/
def markPoint (s : State) : State := { s with cur := { s.cur with committed := false } }

/-- The rest of the step runs in the mode that CR0.PE says (R1060, log entry 17). -/
def currentMode (s : State) : State := { s with cur := { s.cur with mode := none } }

/-- Shutdown, with its special bus cycle (R948). -/
def enterShutdown (s : State) : State :=
  { s with
    latches := { s.latches with shutdown := true, halted := false }
    io := .shutdown :: s.io }

/-- The outcome of a step. -/
abbrev StepOut := Host.Outcome State Fault Refusal

/-- Deliver an event, and what its delivery raises, in the current mode, by the double-fault table (R918). The bound is
never reached: a delivery raises only contributory exceptions and page faults, so that the third exception at the latest is
#DF, and an exception in the delivery of #DF shuts down. -/
def deliverN (fuel : Nat) (ev : Event) (s : State) : StepOut :=
  match fuel with
  | 0 => .next (enterShutdown s)
  | n + 1 =>
    let m := markPoint (currentMode s)
    match enter ev m with
    | .ok _ s' => .next s'
    | .error (.refuse r) _ => .refused r
    | .error (.exc e) s' =>
      let b := afterExc m s'
      match escalate ev e with
      | none => .next (enterShutdown b)
      | some ev' => deliverN n ev' b

/-- Deliver an event (R918, R957). -/
def deliver (ev : Event) (s : State) : StepOut := deliverN 6 ev s

/-- Deliver the exception of an instruction: `before` is the state in which the instruction began to execute, `after` the
one in which it raised the exception. The saved EIP is that of its first byte (R940). -/
def deliverExc (e : Exc) (before after : State) : StepOut :=
  let b := afterExc { before with eip := before.cur.start } after
  deliver (.ofExc e) { b with cur := { b.cur with stage := .excepted } }

/-- Set bits of DR6 before a debug exception (R1014), with the hits that MOV SS or POP SS kept back (D96). -/
def setDr6 (bits : Word) (s : State) : State :=
  { s with
    dbg := { s.dbg with dr6 := s.dbg.dr6 ||| bits ||| s.latches.deferred.setWidth 32 }
    latches := { s.latches with deferred := 0 } }

/-- An instruction's body run to its end: completed, or its exception delivered (R902, R940). -/
def runBody (body : M Unit) (s : State) : StepOut :=
  match body (markPoint s) with
  | .ok _ s' => .next { s' with cur := { s'.cur with stage := .completed } }
  | .error (.refuse r) _ => .refused r
  | .error (.exc e) s' => deliverExc e (markPoint s) s'

/-- An instruction that is not a string instruction: a repeat prefix before it is refused (R287, R352, D93). -/
def unrepeated (out : State → StepOut) (s : State) : StepOut :=
  if s.cur.rep.isSome then .refused .repeatPrefix else out s

/-- An instruction that the LOCK prefix may not precede: LOCK makes it #UD (R287, R790). -/
def unlocked (out : State → StepOut) (s : State) : StepOut :=
  if s.cur.lock then deliverExc .ud (markPoint s) s else out s

/-- A string instruction: repeat prefixes may precede it, and LOCK may not (R287, R710). -/
def stringInstr (body : M Unit) (s : State) : StepOut := unlocked (runBody body) s

/-- An instruction that neither LOCK nor a repeat prefix may precede; the #UD that LOCK raises comes first (R287). -/
def instr (body : M Unit) (s : State) : StepOut := unlocked (unrepeated (runBody body)) s

/-- An instruction that LOCK may precede when `mem` says that its destination is in memory (R260, R790), and that no
repeat prefix may precede (R287). -/
def lockable (mem : Bool) (body : M Unit) (s : State) : StepOut :=
  if mem then unrepeated (runBody body) s else instr body s

/-- The flags that IRET and POPF load: IOPL only at CPL 0, IF only at CPL <= IOPL (R72 d, e). Real-address mode acts as
CPL 0. -/
def loadedFlags (s : State) (v : Word) : Flags :=
  s.flags.load v (s.curCpl == 0) (s.isReal || decide (s.curCpl.toNat ≤ s.flags.iopl.toNat))

/-- The flags that IRET loads: as `loadedFlags`, and RF by the 32-bit form (R72 e). -/
def iretFlags (s : State) (z : Size) (v : Word) : Flags :=
  let f := loadedFlags s v
  if z = .d then { f with rf := v.getLsbD 16 } else f

/-- RF is not cleared at the end of this instruction (R943 c). -/
def keepRf : M Unit := modify fun s => { s with cur := { s.cur with keepRf := true } }

/-- The checks on a return CS whose RPL is not below CPL: the same for a return to the same level and to an outer level
(R616, R627). -/
def checkReturnCs (sel : Half) : M (Word × Desc) := do
  require (!selNull sel) (.gp 0)
  let e := Exc.gp (selCode sel false)
  let (lin, d) ← fetchDesc sel e
  require d.isCode e
  require (if d.conforming then decide (d.dpl.toNat ≤ (rpl sel).toNat) else d.dpl == rpl sel) e
  require d.present (.np (selCode sel false))
  return (lin, d)

/-- The checks on the SS of a return to an outer level (R616, R627). -/
def checkReturnSs (sel : Half) (level : BitVec 2) : M (Word × Desc) := do
  require (!selNull sel) (.gp 0)
  let e := Exc.gp (selCode sel false)
  let (lin, d) ← fetchDesc sel e
  require (rpl sel == level) e
  require d.writable e
  require (d.dpl == level) e
  require d.present (.ss (selCode sel false))
  return (lin, d)

/-- A data segment register after a return to an outer level: null if it is data or nonconforming code whose DPL is less
than the new CPL (R616, R627, R962). -/
def SegReg.afterOuter (g : SegReg) (level : BitVec 2) : SegReg :=
  if g.valid && !(g.isCode && g.typ.getLsbD 2) && decide (g.dpl.toNat < level.toNat) then g.null 0 else g

/-- The data segment registers after a return to an outer level. -/
def nullOuter (level : BitVec 2) : M Unit := modify fun s =>
  { s with
    segs :=
      { s.segs with
        es := s.segs.es.afterOuter level
        fs := s.segs.fs.afterOuter level
        gs := s.segs.gs.afterOuter level
        ds := s.segs.ds.afterOuter level } }

/-- ESP after an IRET of width `z` to an outer level: the 16-bit form loads SP, and the upper half is unspecified when the
new stack is 32-bit (R616, D61). -/
def outerEsp (z : Size) (sd : Desc) (v : Word) : M Unit :=
  if z = .d then writeReg .d .esp v
  else if sd.db then do
    let hi ← freeBits 16
    writeReg .d .esp (hi ++ v.setWidth 16)
  else writeReg .w .esp (v.setWidth 16)

/-- The stack pointer after a RET far of width `z` to an outer level: eSP by the new stack's B bit; a 16-bit form leaves
the upper half of ESP unspecified when the new stack is 32-bit (R627, R15, D61). -/
def retEsp (z : Size) (sd : Desc) (v : Word) : M Unit :=
  if z = .w && sd.db then do
    let hi ← freeBits 16
    writeReg .d .esp (hi ++ v.setWidth 16)
  else loadSp sd.db v

/-- A new EIP must lie in the code segment of a descriptor, else #GP(0). -/
def checkTarget (d : Desc) (eip : Word) : M Unit := require ((d.toSeg 0).inLimit eip 1) (.gp 0)

/-- IRET in real-address mode (R613). -/
def iretReal (z : Size) : M Unit := do
  let s ← get
  let eip ← pop z
  let cs ← pop z
  let fl ← pop z
  setSeg .cs (s.segs.cs.real (cs.setWidth 16))
  setFlags (iretFlags s z fl)
  setEip eip

/-- IRET in virtual-8086 mode with IOPL 3 (R613). -/
def iretV86 (z : Size) : M Unit := do
  let s ← get
  require (s.flags.iopl == 3) (.gp 0)
  let eip ← pop z
  let cs ← pop z
  let fl ← pop z
  setSeg .cs (SegReg.v86 (cs.setWidth 16))
  setFlags (iretFlags s z fl)
  setEip eip

/-- IRET with NT = 1: the return to the task that the back link names (R614). GDT entry 0 is never used, so that a null
back link names no TSS (R90). The link must lie within the limit of TR (R166), else #TS with the selector of TR (log entry
57, DESIGN CHOICE). -/
def iretTask : M Unit := do
  let s ← get
  require (decide (1 ≤ s.sys.tr.limit.toNat)) (.ts (selCode s.sys.tr.sel false))
  let link ← sysRead s.sys.tr.base 2
  let sel : Half := link.setWidth 16
  let e := Exc.ts (selCode sel false)
  require (!selNull sel && !selTi sel) e
  let (lin, d) ← fetchDesc sel e
  require d.busyTss e
  require d.present (.np (selCode sel false))
  switchTask .iret sel lin d false false
  checkNewEip

/-- IRETD from privilege level 0 to virtual-8086 mode, with the reads in the order of R615: EFLAGS before the items that are
popped, among which its slot is read again and thrown away. -/
def iretToV86 : M Unit := do
  needTop 0 36
  let eip ← peekStack .d 0
  require (decide (eip.toNat ≤ 0xFFFF)) (.gp 0)
  let fl ← peekStack .d 8
  let cs ← peekStack .d 4
  let _ ← peekStack .d 8
  let esp ← peekStack .d 12
  let ss ← peekStack .d 16
  let es ← peekStack .d 20
  let ds ← peekStack .d 24
  let fs ← peekStack .d 28
  let gs ← peekStack .d 32
  modify fun s =>
    { s with
      flags := Flags.ofImage fl
      segs :=
        { es := SegReg.v86 (es.setWidth 16)
          cs := SegReg.v86 (cs.setWidth 16)
          ss := SegReg.v86 (ss.setWidth 16)
          ds := SegReg.v86 (ds.setWidth 16)
          fs := SegReg.v86 (fs.setWidth 16)
          gs := SegReg.v86 (gs.setWidth 16) }
      cpl := 3 }
  writeReg .d .esp esp
  setEip eip

/-- IRET to the same privilege level (R616). -/
def iretSame (z : Size) (sel : Half) : M Unit := do
  needTop 0 (3 * z.bytes)
  let s ← get
  let (lin, d) ← checkReturnCs sel
  let eip ← peekStack z 0
  checkTarget d eip
  loadFromDesc .cs sel lin d
  let fl ← peekStack z (2 * z.bytes)
  setFlags (iretFlags s z fl)
  setSp (s.regs.esp + BitVec.ofNat 32 (3 * z.bytes))
  setEip eip

/-- IRET to an outer privilege level (R616). The 32-bit form loads all of ESP, also when the new stack segment has
B = 0: R616 writes (E)SP, the register of the operand size (log entry 60). -/
def iretOuter (z : Size) (sel : Half) : M Unit := do
  needTop 0 (5 * z.bytes)
  let s ← get
  let (lin, d) ← checkReturnCs sel
  let ss ← peekStack .w (4 * z.bytes)
  let ssel : Half := ss.setWidth 16
  let (slin, sd) ← checkReturnSs ssel (rpl sel)
  let eip ← peekStack z 0
  checkTarget d eip
  let fl ← peekStack z (2 * z.bytes)
  let esp ← peekStack z (3 * z.bytes)
  loadFromDesc .cs sel lin d
  loadFromDesc .ss ssel slin sd
  setFlags (iretFlags s z fl)
  outerEsp z sd esp
  setCpl (rpl sel)
  nullOuter (rpl sel)
  setEip eip

/-- The selector of a far return: the word at an offset in the frame must be within the stack limits, and no other byte
of its slot is looked at (R616, R627). -/
def returnSel (k : Nat) : M Half := do
  needTop k 2
  let cs ← peekStack .w k
  return cs.setWidth 16

/-- IRET in protected mode without a task return: to virtual-8086 mode, or by the stack (R613, R616). -/
def iretStack (z : Size) : M Unit := do
  let s ← get
  let toV86 ←
    if z = .d && s.cpl == 0 then do
      let fl ← peekStack .d 8
      pure (fl.getLsbD 17)
    else pure false
  if toV86 then iretToV86
  else do
    let sel ← returnSel z.bytes
    require (decide (s.cpl.toNat ≤ (rpl sel).toNat)) (.gp (selCode sel false))
    if rpl sel == s.cpl then iretSame z sel else iretOuter z sel

/-- The return from an interrupt or exception (R613). NMI is unmasked (R906) and RF keeps what was loaded (R943 c). -/
def iretOp (z : Size) : M Unit := do
  let s ← get
  if s.isReal then iretReal z
  else if s.flags.vm then iretV86 z
  else if s.flags.nt then iretTask
  else iretStack z
  keepRf
  modify fun s => { s with latches := { s.latches with nmiBlocked := false } }

end Sys2Proof.Machine
end

