-- ==== Sys2Proof/Machine/Arith.lean ====
section
/-! DEFINITION. Binary arithmetic: ADD, ADC, SUB, SBB, CMP, INC, DEC, NEG, MUL, IMUL, DIV, IDIV, and the shared form of
the two-operand instructions (spec/41_binary_arithmetic.md). -/

namespace Sys2Proof.Machine

/-- An r/m operand in memory. -/
def rmIsMem (rm : Rm) : Bool :=
  match rm with
  | .reg _ => false
  | .mem _ => true

/-- Whether the destination of an encoding is in memory (R260). -/
def aluDestMem (f : AluForm) : Bool :=
  match f with
  | .rm8R8 rm _ => rmIsMem rm
  | .rmvRv _ rm _ => rmIsMem rm
  | .r8Rm8 _ _ => false
  | .rvRmv _ _ _ => false
  | .alImm8 _ => false
  | .axImm16 _ => false
  | .eaxImm32 _ => false
  | .rm8Imm8 rm _ => rmIsMem rm
  | .rm16Imm16 rm _ => rmIsMem rm
  | .rm32Imm32 rm _ => rmIsMem rm
  | .rmvImm8 _ rm _ => rmIsMem rm

/-- An arithmetic or logical operation on a destination and a source value: CMP only sets the flags (R454 to R456,
R522). -/
def aluTo (op : AluOp) (z : Size) (p : Place) (b : z.Val) : M Unit := do
  let a ← if op.stores then p.readRmw z else p.read z
  let af ← if op.isLogic then freeBit else pure false
  let s ← get
  let (res, f) := op.apply s.flags af a b
  if op.stores then p.write z res
  setFlags f

/-- The eleven encodings of an arithmetic or logical instruction; imm8 is sign-extended in opcode 83 (R320). -/
def aluBody (op : AluOp) (f : AluForm) : M Unit :=
  match f with
  | .rm8R8 rm r => do
    let p ← place rm
    let b ← readReg .b r
    aluTo op .b p b
  | .rmvRv o rm r => do
    let p ← place rm
    let b ← readReg o.size r
    aluTo op o.size p b
  | .r8Rm8 r rm => do
    let b ← readRm .b rm
    aluTo op .b (.reg r) b
  | .rvRmv o r rm => do
    let b ← readRm o.size rm
    aluTo op o.size (.reg r) b
  | .alImm8 i => aluTo op .b (.reg .eax) i
  | .axImm16 i => aluTo op .w (.reg .eax) i
  | .eaxImm32 i => aluTo op .d (.reg .eax) i
  | .rm8Imm8 rm i => do
    let p ← place rm
    aluTo op .b p i
  | .rm16Imm16 rm i => do
    let p ← place rm
    aluTo op .w p i
  | .rm32Imm32 rm i => do
    let p ← place rm
    aluTo op .d p i
  | .rmvImm8 o rm i => do
    let p ← place rm
    aluTo op o.size p (i.signExtend o.size.bits)

/-- An arithmetic or logical instruction: LOCK may precede it when it stores to memory (R287). -/
def aluInstr (op : AluOp) (f : AluForm) (s : State) : StepOut :=
  lockable (op.stores && aluDestMem f) (aluBody op f) s

/-- ADD (R455). -/
def execAdd (f : AluForm) (s : State) : StepOut := aluInstr .add f s

/-- ADC (R454). -/
def execAdc (f : AluForm) (s : State) : StepOut := aluInstr .adc f s

/-- SUB (R465). -/
def execSub (f : AluForm) (s : State) : StepOut := aluInstr .sub f s

/-- SBB (R464). -/
def execSbb (f : AluForm) (s : State) : StepOut := aluInstr .sbb f s

/-- CMP (R456). -/
def execCmp (f : AluForm) (s : State) : StepOut := aluInstr .cmp f s

/-- INC: the flags of `a + 1`, CF unchanged (R461). -/
def incTo (z : Size) (p : Place) : M Unit := do
  let a ← p.readRmw z
  let s ← get
  p.write z (a + 1)
  setFlags { s.flags.add a 1 false with cf := s.flags.cf }

/-- DEC: the flags of `a - 1`, CF unchanged (R457). -/
def decTo (z : Size) (p : Place) : M Unit := do
  let a ← p.readRmw z
  let s ← get
  p.write z (a - 1)
  setFlags { s.flags.sub a 1 false with cf := s.flags.cf }

/-- NEG: the flags of `0 - a` (R463). -/
def negTo (z : Size) (p : Place) : M Unit := do
  let a ← p.readRmw z
  let s ← get
  p.write z (0 - a)
  setFlags (s.flags.sub 0 a false)

/-- A one-operand instruction that writes its r/m operand. -/
def unary (f : Place → M Unit) (rm : Rm) (s : State) : StepOut :=
  lockable (rmIsMem rm) (do
    let p ← place rm
    f p) s

/-- INC r/m8 (R461). -/
def execIncRm8 (rm : Rm) (s : State) : StepOut := unary (incTo .b) rm s

/-- INC r/m16 and r/m32 (R461). -/
def execIncRmv (o : OSize) (rm : Rm) (s : State) : StepOut := unary (incTo o.size) rm s

/-- INC r16 (R461). -/
def execIncR16 (r : Reg) (s : State) : StepOut := instr (incTo .w (.reg r)) s

/-- INC r32 (R461). -/
def execIncR32 (r : Reg) (s : State) : StepOut := instr (incTo .d (.reg r)) s

/-- DEC r/m8 (R457). -/
def execDecRm8 (rm : Rm) (s : State) : StepOut := unary (decTo .b) rm s

/-- DEC r/m16 and r/m32 (R457). -/
def execDecRmv (o : OSize) (rm : Rm) (s : State) : StepOut := unary (decTo o.size) rm s

/-- DEC r16 (R457). -/
def execDecR16 (r : Reg) (s : State) : StepOut := instr (decTo .w (.reg r)) s

/-- DEC r32 (R457). -/
def execDecR32 (r : Reg) (s : State) : StepOut := instr (decTo .d (.reg r)) s

/-- NEG r/m8 (R463). -/
def execNegRm8 (rm : Rm) (s : State) : StepOut := unary (negTo .b) rm s

/-- NEG r/m16 and r/m32 (R463). -/
def execNegRmv (o : OSize) (rm : Rm) (s : State) : StepOut := unary (negTo o.size) rm s

/-- The double-width operand of multiply and divide: AX, DX:AX or EDX:EAX (R458). -/
def readPair (z : Size) : M (BitVec (z.bits + z.bits)) :=
  match z with
  | .b => readReg .w .eax
  | .w => do
    let lo ← readReg .w .eax
    let hi ← readReg .w .edx
    return hi ++ lo
  | .d => do
    let lo ← readReg .d .eax
    let hi ← readReg .d .edx
    return hi ++ lo

/-- Write the halves of the double-width operand: AH:AL, DX:AX or EDX:EAX (R458, R462). -/
def writePair (z : Size) (hi lo : z.Val) : M Unit :=
  match z with
  | .b => writeReg .w .eax (hi ++ lo)
  | .w => do
    writeReg .w .eax lo
    writeReg .w .edx hi
  | .d => do
    writeReg .d .eax lo
    writeReg .d .edx hi

/-- The upper half of a double-width value. -/
def upperHalf {n : Nat} (v : BitVec (n + n)) : BitVec n := v.extractLsb' n n

/-- MUL: the unsigned product of the accumulator and an operand (R462). -/
def mulBy (z : Size) (b : z.Val) : M Unit := do
  let a ← readReg z .eax
  let p : BitVec (z.bits + z.bits) := a.setWidth (z.bits + z.bits) * b.setWidth (z.bits + z.bits)
  let hi := upperHalf p
  writePair z hi (p.setWidth z.bits)
  let u ← freeStatus
  let s ← get
  setFlags (s.flags.product u (hi != 0))

/-- The exact signed product of two operands, in twice the width (R460). -/
def signedProduct {n : Nat} (a b : BitVec n) : BitVec (n + n) := a.signExtend (n + n) * b.signExtend (n + n)

/-- Whether a signed product does not fit in its low half (R460). -/
def productOverflows {n : Nat} (p : BitVec (n + n)) : Bool := (p.setWidth n).signExtend (n + n) != p

/-- IMUL with one operand: the full product goes to the accumulator pair (R460). -/
def imulBy (z : Size) (b : z.Val) : M Unit := do
  let a ← readReg z .eax
  let p := signedProduct a b
  writePair z (upperHalf p) (p.setWidth z.bits)
  let u ← freeStatus
  let s ← get
  setFlags (s.flags.product u (productOverflows p))

/-- IMUL with a destination register: the product is truncated (R460). -/
def imulTo (z : Size) (r : Reg) (a b : z.Val) : M Unit := do
  let p := signedProduct a b
  writeReg z r (p.setWidth z.bits)
  let u ← freeStatus
  let s ← get
  setFlags (s.flags.product u (productOverflows p))

/-- All six status flags take undefined values (R453). -/
def undefineFlags : M Unit := do
  let u ← freeStatus
  let s ← get
  setFlags (s.flags.undefined u)

/-- DIV (R458). -/
def divBy (z : Size) (b : z.Val) : M Unit := do
  let d ← readPair z
  require (b.toNat != 0) .de
  let q := d.toNat / b.toNat
  require (decide (q < 2 ^ z.bits)) .de
  writePair z (BitVec.ofNat z.bits (d.toNat % b.toNat)) (BitVec.ofNat z.bits q)
  undefineFlags

/-- IDIV: the quotient is truncated toward 0 and the remainder has the sign of the dividend (R459). -/
def idivBy (z : Size) (b : z.Val) : M Unit := do
  let d ← readPair z
  require (b.toInt != 0) .de
  let q := d.toInt.tdiv b.toInt
  require (decide (-(2 ^ (z.bits - 1) : Int) ≤ q) && decide (q ≤ 2 ^ (z.bits - 1) - 1)) .de
  writePair z (BitVec.ofInt z.bits (d.toInt - q * b.toInt)) (BitVec.ofInt z.bits q)
  undefineFlags

/-- An instruction that only reads its r/m operand. -/
def useRm (z : Size) (rm : Rm) (f : z.Val → M Unit) (s : State) : StepOut :=
  instr (do
    let v ← readRm z rm
    f v) s

/-- MUL r/m8 (R462). -/
def execMulRm8 (rm : Rm) (s : State) : StepOut := useRm .b rm (mulBy .b) s

/-- MUL r/m16 and r/m32 (R462). -/
def execMulRmv (o : OSize) (rm : Rm) (s : State) : StepOut := useRm o.size rm (mulBy o.size) s

/-- IMUL r/m8 (R460). -/
def execImulRm8 (rm : Rm) (s : State) : StepOut := useRm .b rm (imulBy .b) s

/-- IMUL r/m16 and r/m32 (R460). -/
def execImulRmv (o : OSize) (rm : Rm) (s : State) : StepOut := useRm o.size rm (imulBy o.size) s

/-- DIV r/m8 (R458). -/
def execDivRm8 (rm : Rm) (s : State) : StepOut := useRm .b rm (divBy .b) s

/-- DIV r/m16 and r/m32 (R458). -/
def execDivRmv (o : OSize) (rm : Rm) (s : State) : StepOut := useRm o.size rm (divBy o.size) s

/-- IDIV r/m8 (R459). -/
def execIdivRm8 (rm : Rm) (s : State) : StepOut := useRm .b rm (idivBy .b) s

/-- IDIV r/m16 and r/m32 (R459). -/
def execIdivRmv (o : OSize) (rm : Rm) (s : State) : StepOut := useRm o.size rm (idivBy o.size) s

/-- IMUL r,r/m (R460). -/
def execImulRvRmv (o : OSize) (r : Reg) (rm : Rm) (s : State) : StepOut :=
  useRm o.size rm (fun b => do
    let a ← readReg o.size r
    imulTo o.size r a b) s

/-- IMUL r,r/m,imm8 (R460). -/
def execImulRvRmvImm8 (o : OSize) (r : Reg) (rm : Rm) (i : BitVec 8) (s : State) : StepOut :=
  useRm o.size rm (fun a => imulTo o.size r a (i.signExtend o.size.bits)) s

/-- IMUL r16,r/m16,imm16 (R460). -/
def execImulR16Rm16Imm16 (r : Reg) (rm : Rm) (i : BitVec 16) (s : State) : StepOut :=
  useRm .w rm (fun a => imulTo .w r a i) s

/-- IMUL r32,r/m32,imm32 (R460). -/
def execImulR32Rm32Imm32 (r : Reg) (rm : Rm) (i : BitVec 32) (s : State) : StepOut :=
  useRm .d rm (fun a => imulTo .d r a i) s

end Sys2Proof.Machine
end

