-- ==== Sys2Proof/Machine/Move.lean ====
section
/-! DEFINITION. Data movement: MOV, XCHG, PUSH, POP, conversions, LEA, full pointers, XLAT
(spec/40_data_movement.md). -/

namespace Sys2Proof.Machine

/-- Store a value in an r/m operand. -/
def storeRm (z : Size) (rm : Rm) (v : M z.Val) (s : State) : StepOut :=
  instr (do
    let p ← place rm
    let x ← v
    p.write z x) s

/-- Load a register from an r/m operand. -/
def loadRm (z : Size) (r : Reg) (rm : Rm) (s : State) : StepOut := useRm z rm (writeReg z r) s

/-- MOV r/m8,r8 (R404). -/
def execMovRm8R8 (rm : Rm) (r : Reg) (s : State) : StepOut := storeRm .b rm (readReg .b r) s

/-- MOV r/m16,r16 and r/m32,r32 (R404). -/
def execMovRmvRv (o : OSize) (rm : Rm) (r : Reg) (s : State) : StepOut := storeRm o.size rm (readReg o.size r) s

/-- MOV r8,r/m8 (R404). -/
def execMovR8Rm8 (r : Reg) (rm : Rm) (s : State) : StepOut := loadRm .b r rm s

/-- MOV r16,r/m16 and r32,r/m32 (R404). -/
def execMovRvRmv (o : OSize) (r : Reg) (rm : Rm) (s : State) : StepOut := loadRm o.size r rm s

/-- A 16-bit value stored in an r/m operand: a word of memory, or a register of the operand size whose upper half is
unspecified (R404, U6). -/
def storeWord (o : OSize) (rm : Rm) (v : M Half) : M Unit := do
  let p ← place rm
  let x ← v
  match p, o with
  | .reg r, .o32 => do
    let hi ← freeBits 16
    writeReg .d r (hi ++ x)
  | p, _ => p.write .w x

/-- MOV r/m16,Sreg (R404). -/
def execMovRmvSreg (o : OSize) (rm : Rm) (sr : SReg) (s : State) : StepOut :=
  instr (storeWord o rm (gets fun s => (s.seg sr).sel)) s

/-- MOV SS and POP SS inhibit interrupts and debug exceptions at the next boundary (R907). -/
def inhibitAfter (sr : SReg) : M Unit :=
  if sr = .ss then modify fun s => { s with latches := { s.latches with inhibit := true } } else pure ()

/-- MOV Sreg,r/m16 (R404). -/
def execMovSregRm16 (sr : SReg) (rm : Rm) (s : State) : StepOut :=
  useRm .w rm (fun v => do
    loadSeg sr v
    inhibitAfter sr) s

/-- MOV AL,moffs8 (R404). -/
def execMovAlMoffs8 (p : Moffs) (s : State) : StepOut :=
  instr (do
    let pl ← moffsPlace p
    let v ← pl.read .b
    writeReg .b .eax v) s

/-- MOV AX,moffs16 and EAX,moffs32 (R404). -/
def execMovAccMoffs (o : OSize) (p : Moffs) (s : State) : StepOut :=
  instr (do
    let pl ← moffsPlace p
    let v ← pl.read o.size
    writeReg o.size .eax v) s

/-- MOV moffs8,AL (R404). -/
def execMovMoffs8Al (p : Moffs) (s : State) : StepOut :=
  instr (do
    let pl ← moffsPlace p
    let v ← readReg .b .eax
    pl.write .b v) s

/-- MOV moffs16,AX and moffs32,EAX (R404). -/
def execMovMoffsAcc (o : OSize) (p : Moffs) (s : State) : StepOut :=
  instr (do
    let pl ← moffsPlace p
    let v ← readReg o.size .eax
    pl.write o.size v) s

/-- MOV reg8,imm8 (R404). -/
def execMovR8Imm8 (r : Reg) (i : BitVec 8) (s : State) : StepOut := instr (writeReg .b r i) s

/-- MOV reg16,imm16 (R404). -/
def execMovR16Imm16 (r : Reg) (i : BitVec 16) (s : State) : StepOut := instr (writeReg .w r i) s

/-- MOV reg32,imm32 (R404). -/
def execMovR32Imm32 (r : Reg) (i : BitVec 32) (s : State) : StepOut := instr (writeReg .d r i) s

/-- MOV r/m8,imm8 (R404). -/
def execMovRm8Imm8 (rm : Rm) (i : BitVec 8) (s : State) : StepOut := storeRm .b rm (pure i) s

/-- MOV r/m16,imm16 (R404). -/
def execMovRm16Imm16 (rm : Rm) (i : BitVec 16) (s : State) : StepOut := storeRm .w rm (pure i) s

/-- MOV r/m32,imm32 (R404). -/
def execMovRm32Imm32 (rm : Rm) (i : BitVec 32) (s : State) : StepOut := storeRm .d rm (pure i) s

/-- CBW (R400). -/
def execCbw (s : State) : StepOut :=
  instr (do
    let v ← readReg .b .eax
    writeReg .w .eax (v.signExtend 16)) s

/-- CWDE (R400). -/
def execCwde (s : State) : StepOut :=
  instr (do
    let v ← readReg .w .eax
    writeReg .d .eax (v.signExtend 32)) s

/-- CWD (R401). -/
def execCwd (s : State) : StepOut :=
  instr (do
    let v ← readReg .w .eax
    writeReg .w .edx (if v.msb then 0xFFFF else 0)) s

/-- CDQ (R401). -/
def execCdq (s : State) : StepOut :=
  instr (do
    let v ← readReg .d .eax
    writeReg .d .edx (if v.msb then 0xFFFFFFFF else 0)) s

/-- LEA: the effective address itself, of the operand size (R402). -/
def execLea (o : OSize) (r : Reg) (ea : Ea) (s : State) : StepOut :=
  instr (do
    let off ← effAddr ea
    writeReg o.size r (ofWord o.size off)) s

/-- A full pointer in memory: the offset, and the selector above it (R403, R603). The offset of the selector wraps modulo
2^32 (log entry 56, DESIGN CHOICE). -/
def readFarPtr (z : Size) (ea : Ea) : M (Word × Half) := do
  let off ← effAddr ea
  let s ← get
  let sr := s.dataSeg (eaSeg ea)
  let v ← readMem sr off z.bytes
  let sel ← readMem sr (off + BitVec.ofNat 32 z.bytes) 2
  return (v, sel.setWidth 16)

/-- LDS, LES, LSS, LFS, LGS: the segment register first, then the general register (R403). -/
def loadPointer (sr : SReg) (o : OSize) (r : Reg) (ea : Ea) (s : State) : StepOut :=
  instr (do
    let (off, sel) ← readFarPtr o.size ea
    loadSeg sr sel
    writeReg o.size r (ofWord o.size off)) s

/-- LDS (R403). -/
def execLds (o : OSize) (r : Reg) (ea : Ea) (s : State) : StepOut := loadPointer .ds o r ea s

/-- LES (R403). -/
def execLes (o : OSize) (r : Reg) (ea : Ea) (s : State) : StepOut := loadPointer .es o r ea s

/-- LSS (R403): it does not inhibit interrupts (R907). -/
def execLss (o : OSize) (r : Reg) (ea : Ea) (s : State) : StepOut := loadPointer .ss o r ea s

/-- LFS (R403). -/
def execLfs (o : OSize) (r : Reg) (ea : Ea) (s : State) : StepOut := loadPointer .fs o r ea s

/-- LGS (R403). -/
def execLgs (o : OSize) (r : Reg) (ea : Ea) (s : State) : StepOut := loadPointer .gs o r ea s

/-- MOVSX r,r/m8 (R406). -/
def execMovsxRvRm8 (o : OSize) (r : Reg) (rm : Rm) (s : State) : StepOut :=
  useRm .b rm (fun v => writeReg o.size r (v.signExtend o.size.bits)) s

/-- MOVSX r,r/m16: a plain move with 16-bit operand size (R406, D53). -/
def execMovsxRvRm16 (o : OSize) (r : Reg) (rm : Rm) (s : State) : StepOut :=
  useRm .w rm (fun v => writeReg o.size r (v.signExtend o.size.bits)) s

/-- MOVZX r,r/m8 (R407). -/
def execMovzxRvRm8 (o : OSize) (r : Reg) (rm : Rm) (s : State) : StepOut :=
  useRm .b rm (fun v => writeReg o.size r (v.setWidth o.size.bits)) s

/-- MOVZX r,r/m16: a plain move with 16-bit operand size (R407, D53). -/
def execMovzxRvRm16 (o : OSize) (r : Reg) (rm : Rm) (s : State) : StepOut :=
  useRm .w rm (fun v => writeReg o.size r (v.setWidth o.size.bits)) s

/-- XCHG of a place with a register (R408). -/
def xchgTo (z : Size) (p : Place) (r : Reg) : M Unit := do
  let v ← p.readRmw z
  let x ← readReg z r
  p.write z x
  writeReg z r v

/-- XCHG AX,r16 (R408). -/
def execXchgAxR16 (r : Reg) (s : State) : StepOut := instr (xchgTo .w (.reg .eax) r) s

/-- XCHG EAX,r32 (R408). -/
def execXchgEaxR32 (r : Reg) (s : State) : StepOut := instr (xchgTo .d (.reg .eax) r) s

/-- XCHG r/m8,r8 (R408). -/
def execXchgRm8R8 (rm : Rm) (r : Reg) (s : State) : StepOut := unary (fun p => xchgTo .b p r) rm s

/-- XCHG r/m16,r16 and r/m32,r32 (R408). -/
def execXchgRmvRv (o : OSize) (rm : Rm) (r : Reg) (s : State) : StepOut := unary (fun p => xchgTo o.size p r) rm s

/-- POP r/m: an address that uses ESP uses the incremented ESP (R409, D58). -/
def execPopRmv (o : OSize) (rm : Rm) (s : State) : StepOut :=
  instr (do
    let v ← pop o.size
    writeRm o.size rm (ofWord o.size v)) s

/-- POP of a register: POP ESP leaves the popped value in ESP (R409, D58). -/
def popReg (z : Size) (r : Reg) (s : State) : StepOut :=
  instr (do
    let v ← pop z
    writeReg z r (ofWord z v)) s

/-- POP r16 (R409). -/
def execPopR16 (r : Reg) (s : State) : StepOut := popReg .w r s

/-- POP r32 (R409). -/
def execPopR32 (r : Reg) (s : State) : StepOut := popReg .d r s

/-- POP of a segment register: the low word is the selector (R409). -/
def popSeg (sr : SReg) (o : OSize) (s : State) : StepOut :=
  instr (do
    let v ← pop o.size
    loadSeg sr (v.setWidth 16)
    inhibitAfter sr) s

/-- POP DS (R409). -/
def execPopDs (o : OSize) (s : State) : StepOut := popSeg .ds o s

/-- POP ES (R409). -/
def execPopEs (o : OSize) (s : State) : StepOut := popSeg .es o s

/-- POP SS (R409). -/
def execPopSs (o : OSize) (s : State) : StepOut := popSeg .ss o s

/-- POP FS (R409). -/
def execPopFs (o : OSize) (s : State) : StepOut := popSeg .fs o s

/-- POP GS (R409). -/
def execPopGs (o : OSize) (s : State) : StepOut := popSeg .gs o s

/-- PUSH r/m: the operand is read before the stack pointer changes (R411, D31). -/
def execPushRmv (o : OSize) (rm : Rm) (s : State) : StepOut :=
  useRm o.size rm (fun v => push o.size (toWord o.size v)) s

/-- PUSH of a register: PUSH ESP pushes the value before the instruction (R411). -/
def pushReg (z : Size) (r : Reg) (s : State) : StepOut :=
  instr (do
    let v ← readReg z r
    push z (toWord z v)) s

/-- PUSH r16 (R411). -/
def execPushR16 (r : Reg) (s : State) : StepOut := pushReg .w r s

/-- PUSH r32 (R411). -/
def execPushR32 (r : Reg) (s : State) : StepOut := pushReg .d r s

/-- PUSH imm8, sign-extended (R411). -/
def execPushImm8 (o : OSize) (i : BitVec 8) (s : State) : StepOut := instr (push o.size (i.signExtend 32)) s

/-- PUSH imm16 (R411). -/
def execPushImm16 (i : BitVec 16) (s : State) : StepOut := instr (push .w (i.setWidth 32)) s

/-- PUSH imm32 (R411). -/
def execPushImm32 (i : BitVec 32) (s : State) : StepOut := instr (push .d i) s

/-- PUSH of a segment register: a doubleword has an unspecified upper half (R411, D32). -/
def pushSeg (sr : SReg) (o : OSize) (s : State) : StepOut :=
  instr (do
    let s ← get
    pushSel o.size (s.seg sr).sel) s

/-- PUSH CS (R411). -/
def execPushCs (o : OSize) (s : State) : StepOut := pushSeg .cs o s

/-- PUSH SS (R411). -/
def execPushSs (o : OSize) (s : State) : StepOut := pushSeg .ss o s

/-- PUSH DS (R411). -/
def execPushDs (o : OSize) (s : State) : StepOut := pushSeg .ds o s

/-- PUSH ES (R411). -/
def execPushEs (o : OSize) (s : State) : StepOut := pushSeg .es o s

/-- PUSH FS (R411). -/
def execPushFs (o : OSize) (s : State) : StepOut := pushSeg .fs o s

/-- PUSH GS (R411). -/
def execPushGs (o : OSize) (s : State) : StepOut := pushSeg .gs o s

/-- Push values in order. -/
def pushAll (z : Size) (vs : List Word) : M Unit :=
  match vs with
  | [] => pure ()
  | v :: rest => do
    push z v
    pushAll z rest

/-- The stack pointers at which PUSHA in real-address and virtual-8086 mode raises exception 13 (R412, log entry 36). -/
def pushaOdd (sp : Word) : Bool := sp == 7 || sp == 9 || sp == 11 || sp == 13 || sp == 15

/-- The stack pointers with which PUSHA and PUSHAD shut the processor down outside protected mode (R412). -/
def pushaShuts (s : State) : Bool :=
  let sp := stackOff s.stackSize s.regs.esp
  !s.isProtected && (sp == 1 || sp == 3 || sp == 5)

/-- PUSHA and PUSHAD: the pushed stack pointer is the one before the first push (R412). -/
def pushaBody (z : Size) : M Unit := do
  let s ← get
  require (s.isProtected || !pushaOdd (stackOff s.stackSize s.regs.esp)) (.gp 0)
  let g := s.regs
  pushAll z [g.eax, g.ecx, g.edx, g.ebx, g.esp, g.ebp, g.esi, g.edi]

/-- PUSHA or PUSHAD, or the shutdown before it (R412). EIP stays at the instruction. -/
def pushaOrShut (z : Size) (s : State) : StepOut :=
  if !s.cur.lock && s.cur.rep.isNone && pushaShuts s then
    .next (enterShutdown { s with eip := s.cur.start, cur := { s.cur with stage := .excepted } })
  else instr (pushaBody z) s

/-- PUSHA (R412). -/
def execPusha (s : State) : StepOut := pushaOrShut .w s

/-- PUSHAD (R412). -/
def execPushad (s : State) : StepOut := pushaOrShut .d s

/-- POPA and POPAD: the item for the stack pointer is thrown away (R410). -/
def popaBody (z : Size) : M Unit := do
  let di ← pop z
  let si ← pop z
  let bp ← pop z
  let _ ← pop z
  let bx ← pop z
  let dx ← pop z
  let cx ← pop z
  let ax ← pop z
  writeReg z .edi (ofWord z di)
  writeReg z .esi (ofWord z si)
  writeReg z .ebp (ofWord z bp)
  writeReg z .ebx (ofWord z bx)
  writeReg z .edx (ofWord z dx)
  writeReg z .ecx (ofWord z cx)
  writeReg z .eax (ofWord z ax)

/-- POPA (R410). -/
def execPopa (s : State) : StepOut := instr (popaBody .w) s

/-- POPAD (R410). -/
def execPopad (s : State) : StepOut := instr (popaBody .d) s

/-- XLAT: the byte at DS:(E)BX + AL, with the sum of the address size (R413). -/
def execXlat (a : ASize) (s : State) : StepOut :=
  instr (do
    let bx ← addrReg a .ebx
    let al ← readReg .b .eax
    let s ← get
    let v ← readMem (s.dataSeg .ds) (stackOff a (bx + al.setWidth 32)) 1
    writeReg .b .eax (v.setWidth 8)) s

end Sys2Proof.Machine
end

