-- ==== Sys2Proof/Machine/Control.lean ====
section
/-! DEFINITION. Control transfer: JMP, CALL, RET, Jcc, JCXZ, LOOP, INT, INTO, IRET, BOUND
(spec/44_control_transfer.md). -/

namespace Sys2Proof.Machine

/-- BOUND: the bounds are signed, and equal to a bound passes (R600). The offset of the upper bound wraps modulo 2^32
(log entry 56, DESIGN CHOICE). -/
def execBound (o : OSize) (r : Reg) (ea : Ea) (s : State) : StepOut :=
  instr (do
    let z := o.size
    let v ← readReg z r
    let off ← effAddr ea
    let s ← get
    let sr := s.dataSeg (eaSeg ea)
    let lo ← readMem sr off z.bytes
    let hi ← readMem sr (off + BitVec.ofNat 32 z.bytes) z.bytes
    require ((ofWord z lo).sle v && v.sle (ofWord z hi)) .br) s

/-- A code offset under an operand size: 16 bits clear the upper half (R601, R620, R622). -/
def codeOffset (o : OSize) (v : Word) : Word :=
  match o with
  | .o16 => v &&& 0xFFFF
  | .o32 => v

/-- In protected mode the target of a near transfer must lie in the code segment, else #GP(0) (R601, D30). In the other
modes a target beyond the limit faults when it is fetched (R203). -/
def checkNear (v : Word) : M Unit := do
  let s ← get
  require (!s.isProtected || s.segs.cs.inLimit v 1) (.gp 0)

/-- A near jump to an offset. -/
def jumpNear (v : Word) : M Unit := do
  checkNear v
  setEip v

/-- A relative jump: the displacement is added to the address of the next instruction (R620). -/
def jumpRel (o : OSize) (d : Word) : M Unit := do
  let s ← get
  jumpNear (codeOffset o (s.eip + d))

/-- A near call: the target is checked, then the return address is pushed (R601, D30). -/
def callNear (o : OSize) (v : Word) : M Unit := do
  checkNear v
  let s ← get
  push o.size s.eip
  setEip v

/-- CALL rel16 (R601). -/
def execCallRel16 (d : BitVec 16) (s : State) : StepOut :=
  instr (do
    let s ← get
    callNear .o16 (codeOffset .o16 (s.eip + d.signExtend 32))) s

/-- CALL rel32 (R601). -/
def execCallRel32 (d : BitVec 32) (s : State) : StepOut :=
  instr (do
    let s ← get
    callNear .o32 (s.eip + d)) s

/-- CALL r/m: the operand is read before the push (R602, D31). -/
def execCallRmv (o : OSize) (rm : Rm) (s : State) : StepOut :=
  useRm o.size rm (fun v => callNear o (toWord o.size v)) s

/-- JMP rel8 (R622). -/
def execJmpRel8 (o : OSize) (d : BitVec 8) (s : State) : StepOut := instr (jumpRel o (d.signExtend 32)) s

/-- JMP rel16 (R622). -/
def execJmpRel16 (d : BitVec 16) (s : State) : StepOut := instr (jumpRel .o16 (d.signExtend 32)) s

/-- JMP rel32 (R622). -/
def execJmpRel32 (d : BitVec 32) (s : State) : StepOut := instr (jumpRel .o32 d) s

/-- JMP r/m (R622). -/
def execJmpRmv (o : OSize) (rm : Rm) (s : State) : StepOut :=
  useRm o.size rm (fun v => jumpNear (toWord o.size v)) s

/-- Jcc: the encodings of a conditional jump (R620). -/
def jccBody (c : Cond) (f : JccForm) : M Unit := do
  let s ← get
  if condHolds c s.flags then
    match f with
    | .rel8 o d => jumpRel o (d.signExtend 32)
    | .rel16 d => jumpRel .o16 (d.signExtend 32)
    | .rel32 d => jumpRel .o32 d

/-- JO (R620). -/
def execJo (f : JccForm) (s : State) : StepOut := instr (jccBody .o f) s

/-- JNO (R620). -/
def execJno (f : JccForm) (s : State) : StepOut := instr (jccBody .no f) s

/-- JB (R620). -/
def execJb (f : JccForm) (s : State) : StepOut := instr (jccBody .b f) s

/-- JAE (R620). -/
def execJae (f : JccForm) (s : State) : StepOut := instr (jccBody .ae f) s

/-- JE (R620). -/
def execJe (f : JccForm) (s : State) : StepOut := instr (jccBody .e f) s

/-- JNE (R620). -/
def execJne (f : JccForm) (s : State) : StepOut := instr (jccBody .ne f) s

/-- JBE (R620). -/
def execJbe (f : JccForm) (s : State) : StepOut := instr (jccBody .be f) s

/-- JA (R620). -/
def execJa (f : JccForm) (s : State) : StepOut := instr (jccBody .a f) s

/-- JS (R620). -/
def execJs (f : JccForm) (s : State) : StepOut := instr (jccBody .s f) s

/-- JNS (R620). -/
def execJns (f : JccForm) (s : State) : StepOut := instr (jccBody .ns f) s

/-- JP (R620). -/
def execJp (f : JccForm) (s : State) : StepOut := instr (jccBody .p f) s

/-- JNP (R620). -/
def execJnp (f : JccForm) (s : State) : StepOut := instr (jccBody .np f) s

/-- JL (R620). -/
def execJl (f : JccForm) (s : State) : StepOut := instr (jccBody .l f) s

/-- JGE (R620). -/
def execJge (f : JccForm) (s : State) : StepOut := instr (jccBody .ge f) s

/-- JLE (R620). -/
def execJle (f : JccForm) (s : State) : StepOut := instr (jccBody .le f) s

/-- JG (R620). -/
def execJg (f : JccForm) (s : State) : StepOut := instr (jccBody .g f) s

/-- JCXZ: CX, by the 16-bit address size (R621). -/
def execJcxz (o : OSize) (d : BitVec 8) (s : State) : StepOut :=
  instr (do
    let c ← readReg .w .ecx
    if c = 0 then jumpRel o (d.signExtend 32)) s

/-- JECXZ: ECX, by the 32-bit address size (R621). -/
def execJecxz (o : OSize) (d : BitVec 8) (s : State) : StepOut :=
  instr (do
    let c ← readReg .d .ecx
    if c = 0 then jumpRel o (d.signExtend 32)) s

/-- LOOP and its conditional forms: the count register is decremented, and the jump is taken while it is not 0 and the
condition on ZF holds (R624). -/
def loopBody (o : OSize) (a : ASize) (d : BitVec 8) (ok : Bool → Bool) : M Unit := do
  let z := asizeOf a
  let c ← readReg z .ecx
  writeReg z .ecx (c - 1)
  let s ← get
  if c - 1 != 0 && ok s.flags.zf then jumpRel o (d.signExtend 32)

/-- LOOP (R624). -/
def execLoop (o : OSize) (a : ASize) (d : BitVec 8) (s : State) : StepOut :=
  instr (loopBody o a d fun _ => true) s

/-- LOOPE, LOOPZ (R624). -/
def execLoope (o : OSize) (a : ASize) (d : BitVec 8) (s : State) : StepOut :=
  instr (loopBody o a d fun zf => zf) s

/-- LOOPNE, LOOPNZ (R624). -/
def execLoopne (o : OSize) (a : ASize) (d : BitVec 8) (s : State) : StepOut :=
  instr (loopBody o a d fun zf => !zf) s

/-- Add the immediate of a RET to the stack pointer (R625). -/
def dropStack (n : BitVec 16) : M Unit := do
  let s ← get
  setSp (s.regs.esp + n.setWidth 32)

/-- RET near (R625). -/
def retNearBody (o : OSize) (n : BitVec 16) : M Unit := do
  let v ← pop o.size
  checkNear v
  dropStack n
  setEip v

/-- RET near (R625). -/
def execRetNear (o : OSize) (s : State) : StepOut := instr (retNearBody o 0) s

/-- RET near imm16 (R625). -/
def execRetNearImm16 (o : OSize) (i : BitVec 16) (s : State) : StepOut := instr (retNearBody o i) s

/-- CS after a far transfer in real-address or virtual-8086 mode (R150, R151). -/
def loadCsReal (sel : Half) : M Unit := modify fun s =>
  { s with segs := { s.segs with cs := if s.isReal then s.segs.cs.real sel else SegReg.v86 sel } }

/-- The checks of a far JMP or CALL directly to a code segment (R605, R623). -/
def checkFarCode (sel : Half) (d : Desc) (cpl : BitVec 2) : M Unit := do
  let e := Exc.gp (selCode sel false)
  if d.conforming then require (decide (d.dpl.toNat ≤ cpl.toNat)) e
  else do
    require (decide ((rpl sel).toNat ≤ cpl.toNat)) e
    require (d.dpl == cpl) e
  require d.present (.np (selCode sel false))

/-- A gate or TSS descriptor must be accessible: DPL at least CPL and the selector's RPL (R606, R608, R623). -/
def checkGateDpl (sel : Half) (d : Desc) (cpl : BitVec 2) : M Unit := do
  let e := Exc.gp (selCode sel false)
  require (decide (cpl.toNat ≤ d.dpl.toNat)) e
  require (decide ((rpl sel).toNat ≤ d.dpl.toNat)) e

/-- The code segment that a call gate names (R606, R623). -/
def gateTarget (gate : Desc) : M (Half × Word × Desc) := do
  let sel := gate.gateSel
  require (!selNull sel) (.gp 0)
  let e := Exc.gp (selCode sel false)
  let (lin, d) ← fetchDesc sel e
  require d.isCode e
  return (sel, lin, d)

/-- A task switch by a far JMP or CALL to a TSS whose privilege has been checked (R608, R623). -/
def toTss (kind : TaskKind) (sel : Half) (lin : Word) (d : Desc) : M Unit := do
  require d.availTss (.gp (selCode sel false))
  require d.present (.np (selCode sel false))
  switchTask kind sel lin d false false
  checkNewEip

/-- A task switch through a task gate (R608, R623). GDT entry 0 is never used, so that a null selector in the gate names
no TSS (R90). -/
def viaTaskGate (kind : TaskKind) (sel : Half) (gate : Desc) (cpl : BitVec 2) : M Unit := do
  checkGateDpl sel gate cpl
  require gate.present (.np (selCode sel false))
  let tsel := gate.gateSel
  let e := Exc.gp (selCode tsel false)
  require (!selNull tsel && !selTi tsel) e
  let (lin, d) ← fetchDesc tsel e
  toTss kind tsel lin d

/-- A task switch to a TSS named by the selector itself, which must be in the GDT (R231, R608, R623). -/
def viaTss (kind : TaskKind) (sel : Half) (lin : Word) (d : Desc) (cpl : BitVec 2) : M Unit := do
  checkGateDpl sel d cpl
  require (!selTi sel) (.gp (selCode sel false))
  toTss kind sel lin d

/-- JMP through a call gate (R623). -/
def jmpGate (sel : Half) (gate : Desc) (cpl : BitVec 2) : M Unit := do
  checkGateDpl sel gate cpl
  require gate.present (.np (selCode sel false))
  let (csel, lin, d) ← gateTarget gate
  let e := Exc.gp (selCode csel false)
  require (if d.conforming then decide (d.dpl.toNat ≤ cpl.toNat) else d.dpl == cpl) e
  require d.present (.np (selCode csel false))
  checkTarget d gate.gateOff
  loadGateTarget csel cpl lin d gate.gateOff

/-- What a far JMP or CALL in protected mode finds behind its selector (R604, R623). -/
inductive FarTarget where
  | code
  | callGate
  | taskGate
  | tss
  | other
  deriving DecidableEq, Repr

/-- The kind of descriptor a far JMP or CALL meets (R604, R623). A busy TSS is no target. -/
def Desc.farTarget (d : Desc) : FarTarget :=
  if d.isCode then .code
  else if d.dt then .other
  else if d.typ == 4 || d.typ == 12 then .callGate
  else if d.typ == 5 then .taskGate
  else if d.typ == 1 || d.typ == 9 then .tss
  else .other

/-- JMP far in protected mode (R623). -/
def jmpFarProtected (sel : Half) (off : Word) : M Unit := do
  require (!selNull sel) (.gp 0)
  let e := Exc.gp (selCode sel false)
  let s ← get
  let (lin, d) ← fetchDesc sel e
  match d.farTarget with
  | .code => do
    checkFarCode sel d s.cpl
    checkTarget d off
    loadGateTarget sel s.cpl lin d off
  | .callGate => jmpGate sel d s.cpl
  | .taskGate => viaTaskGate .jmp sel d s.cpl
  | .tss => viaTss .jmp sel lin d s.cpl
  | .other => raise e

/-- JMP far (R623). -/
def jmpFar (sel : Half) (off : Word) : M Unit := do
  let s ← get
  if s.isProtected then jmpFarProtected sel off
  else do
    loadCsReal sel
    setEip off

/-- Push the return address of a far call (R603, R605). -/
def pushFarReturn (z : Size) : M Unit := do
  let s ← get
  pushSel z s.segs.cs.sel
  push z s.eip

/-- CALL far at the same privilege level, directly or through a gate (R605, R606). -/
def callSame (z : Size) (sel : Half) (lin : Word) (d : Desc) (off : Word) (cpl : BitVec 2) : M Unit := do
  needRoom (2 * z.bytes)
  checkTarget d off
  pushFarReturn z
  loadGateTarget sel cpl lin d off

/-- The item of width `z` that lies `k` bytes above the top of the stack of an earlier state, read through the SS of that
state and at its privilege level: R607 copies the parameters when the new stack and level are loaded (log entry 71,
DEDUCED). -/
def peekOld (old : State) (z : Size) (k : Nat) : M Word := do
  let off := stackOff old.stackSize (old.regs.esp + BitVec.ofNat 32 k)
  require (segCheck old .ss off z.bytes false) (segFault .ss)
  recordHits (old.linear .ss off) z.bytes false
  linRead (old.linear .ss off) z.bytes (old.access false)

/-- Copy `n` parameters of a call gate from the old stack to the new one, the farthest from the top first, so that they keep
their order (R607). -/
def copyParams (old : State) (z : Size) (n : Nat) : M Unit :=
  match n with
  | 0 => pure ()
  | n + 1 => do
    let v ← peekOld old z (n * z.bytes)
    push z v
    copyParams old z n

/-- CALL through a gate to a more privileged nonconforming segment, with the stack of the inner level (R607). `eSP` is SP
when the new stack segment has B = 0 (R15). -/
def callInner (z : Size) (gate : Desc) (csel : Half) (lin : Word) (d : Desc) : M Unit := do
  let s ← get
  let (ss, esp) ← innerStack d.dpl false
  let (slin, sd) ← checkInnerSs ss d.dpl false
  require (roomFor (sd.toSeg ss) esp ((gate.gateCount + 4) * z.bytes)) (.ss (selCode ss false))
  checkTarget d gate.gateOff
  loadGateTarget csel d.dpl lin d gate.gateOff
  loadFromDesc .ss ss slin sd
  loadSp sd.db esp
  pushSel z s.segs.ss.sel
  push z s.regs.esp
  copyParams s z gate.gateCount
  pushSel z s.segs.cs.sel
  push z s.eip

/-- CALL through a call gate (R606, R964). -/
def callGate (sel : Half) (gate : Desc) (cpl : BitVec 2) : M Unit := do
  checkGateDpl sel gate cpl
  require gate.present (.np (selCode sel false))
  let (csel, lin, d) ← gateTarget gate
  require (decide (d.dpl.toNat ≤ cpl.toNat)) (.gp (selCode csel false))
  require d.present (.np (selCode csel false))
  let z := gateSize gate
  if !d.conforming && decide (d.dpl.toNat < cpl.toNat) then callInner z gate csel lin d
  else callSame z csel lin d gate.gateOff cpl

/-- CALL far in protected mode (R604). -/
def callFarProtected (o : OSize) (sel : Half) (off : Word) : M Unit := do
  require (!selNull sel) (.gp 0)
  let e := Exc.gp (selCode sel false)
  let s ← get
  let (lin, d) ← fetchDesc sel e
  match d.farTarget with
  | .code => do
    checkFarCode sel d s.cpl
    callSame o.size sel lin d off s.cpl
  | .callGate => callGate sel d s.cpl
  | .taskGate => viaTaskGate .call sel d s.cpl
  | .tss => viaTss .call sel lin d s.cpl
  | .other => raise e

/-- CALL far (R603, R604). -/
def callFar (o : OSize) (sel : Half) (off : Word) : M Unit := do
  let s ← get
  if s.isProtected then callFarProtected o sel off
  else do
    pushFarReturn o.size
    loadCsReal sel
    setEip off

/-- CALL ptr16:16 (R603, R604). -/
def execCallPtr16 (sel : BitVec 16) (off : BitVec 16) (s : State) : StepOut :=
  instr (callFar .o16 sel (off.setWidth 32)) s

/-- CALL ptr16:32 (R603, R604). -/
def execCallPtr32 (sel : BitVec 16) (off : BitVec 32) (s : State) : StepOut := instr (callFar .o32 sel off) s

/-- CALL m16:16 and m16:32 (R603, R604). -/
def execCallFarM (o : OSize) (ea : Ea) (s : State) : StepOut :=
  instr (do
    let (off, sel) ← readFarPtr o.size ea
    callFar o sel off) s

/-- JMP ptr16:16 (R623). -/
def execJmpPtr16 (sel : BitVec 16) (off : BitVec 16) (s : State) : StepOut := instr (jmpFar sel (off.setWidth 32)) s

/-- JMP ptr16:32 (R623). -/
def execJmpPtr32 (sel : BitVec 16) (off : BitVec 32) (s : State) : StepOut := instr (jmpFar sel off) s

/-- JMP m16:16 and m16:32 (R623). -/
def execJmpFarM (o : OSize) (ea : Ea) (s : State) : StepOut :=
  instr (do
    let (off, sel) ← readFarPtr o.size ea
    jmpFar sel off) s

/-- RET far to the same level (R627). -/
def retFarSame (z : Size) (n : BitVec 16) (sel : Half) : M Unit := do
  let s ← get
  let (lin, d) ← checkReturnCs sel
  needTop 0 (2 * z.bytes)
  let eip ← peekStack z 0
  checkTarget d eip
  loadFromDesc .cs sel lin d
  setSp (s.regs.esp + BitVec.ofNat 32 (2 * z.bytes) + n.setWidth 32)
  setEip eip

/-- RET far to an outer level: the outer stack pointer is adjusted by the immediate too (R627). -/
def retFarOuter (z : Size) (n : BitVec 16) (sel : Half) : M Unit := do
  needTop 0 (4 * z.bytes + n.toNat)
  let (lin, d) ← checkReturnCs sel
  let ss ← peekStack .w (3 * z.bytes + n.toNat)
  let ssel : Half := ss.setWidth 16
  let (slin, sd) ← checkReturnSs ssel (rpl sel)
  let eip ← peekStack z 0
  checkTarget d eip
  let esp ← peekStack z (2 * z.bytes + n.toNat)
  loadFromDesc .cs sel lin d
  loadFromDesc .ss ssel slin sd
  retEsp z sd esp
  dropStack n
  setCpl (rpl sel)
  nullOuter (rpl sel)
  setEip eip

/-- RET far (R626, R627). -/
def retFarBody (o : OSize) (n : BitVec 16) : M Unit := do
  let z := o.size
  let s ← get
  if s.isProtected then do
    let sel ← returnSel z.bytes
    require (decide (s.cpl.toNat ≤ (rpl sel).toNat)) (.gp (selCode sel false))
    if rpl sel == s.cpl then retFarSame z n sel else retFarOuter z n sel
  else do
    let eip ← pop z
    let cs ← pop z
    loadCsReal (cs.setWidth 16)
    dropStack n
    setEip eip

/-- RET far (R626, R627). -/
def execRetFar (o : OSize) (s : State) : StepOut := instr (retFarBody o 0) s

/-- RET far imm16 (R626, R627). -/
def execRetFarImm16 (o : OSize) (i : BitVec 16) (s : State) : StepOut := instr (retFarBody o i) s

/-- Take a software interrupt: the return address is the next instruction, and no single-step trap follows (R610 to
R612, R1012). -/
def softInt (n : Byte) : M Unit := do
  enter (.soft n)
  modify fun s => { s with cur := { s.cur with soft := true } }

/-- INT n: IOPL-sensitive in virtual-8086 mode (R610). -/
def execIntImm8 (i : BitVec 8) (s : State) : StepOut :=
  instr (do
    let s ← get
    require (!(s.isV86 && s.flags.iopl != 3)) (.gp 0)
    softInt i) s

/-- INT 3 (R611). -/
def execInt3 (s : State) : StepOut := instr (softInt 3) s

/-- INTO (R612). -/
def execInto (s : State) : StepOut :=
  instr (do
    let s ← get
    if s.flags.ov then softInt 4) s

/-- IRET (R613 to R616). -/
def execIret (s : State) : StepOut := instr (iretOp .w) s

/-- IRETD (R613 to R616). -/
def execIretd (s : State) : StepOut := instr (iretOp .d) s

end Sys2Proof.Machine
end

