-- ==== Sys2Proof/Machine/Decimal.lean ====
section
/-! DEFINITION. Decimal adjustment: AAA, AAD, AAM, AAS, DAA, DAS (spec/42_decimal.md). -/

namespace Sys2Proof.Machine

/-- The test of AAA, AAS, DAA and DAS: a low digit above 9, or AF (R500). -/
def needsAdjust (al : Byte) (af : Bool) : Bool := decide (9 < (al &&& 0x0F).toNat) || af

/-- Write AX from AH and AL. -/
def writeAx (ah al : Byte) : M Unit := writeReg .w .eax (ah ++ al)

/-- The flags of AAA and AAS: AF and CF are defined, the others are not (R500, R503). -/
def asciiFlags (f : Flags) (u : Status) (c : Bool) : Flags := { f.undefined u with af := c, cf := c }

/-- AAA and AAS: AL and AH after adjustment by an amount and by a digit (R500, R503). -/
def asciiAdjust (al6 : Byte → Byte) (ah1 : Byte → Byte) : M Unit := do
  let ax ← readReg .w .eax
  let al : Byte := ax.setWidth 8
  let ah : Byte := ax.extractLsb' 8 8
  let u ← freeStatus
  let s ← get
  let c := needsAdjust al s.flags.af
  if c then writeAx (ah1 ah) (al6 al &&& 0x0F) else writeAx ah (al &&& 0x0F)
  setFlags (asciiFlags s.flags u c)

/-- AAA (R500). -/
def execAaa (s : State) : StepOut := instr (asciiAdjust (· + 6) (· + 1)) s

/-- AAS (R503). -/
def execAas (s : State) : StepOut := instr (asciiAdjust (· - 6) (· - 1)) s

/-- SF, ZF and PF from AL; OF, AF and CF undefined (R501, R502). -/
def baseTenFlags (f : Flags) (u : Status) (al : Byte) : Flags := (f.undefined u).result al

/-- AAD (R501). -/
def aadBody : M Unit := do
  let ax ← readReg .w .eax
  let al : Byte := ax.extractLsb' 8 8 * 10 + ax.setWidth 8
  writeAx 0 al
  let u ← freeStatus
  let s ← get
  setFlags (baseTenFlags s.flags u al)

/-- AAD (R501). -/
def execAad (s : State) : StepOut := instr aadBody s

/-- AAM (R502). -/
def aamBody : M Unit := do
  let al ← readReg .b .eax
  let r : Byte := al % 10
  writeAx (al / 10) r
  let u ← freeStatus
  let s ← get
  setFlags (baseTenFlags s.flags u r)

/-- AAM (R502). -/
def execAam (s : State) : StepOut := instr aamBody s

/-- DAA and DAS: two adjustments of AL, each by its own test on the AL that the one before left (R504, R505, D24). -/
def decimalAdjust (adj : Byte → Byte → Byte) : M Unit := do
  let al ← readReg .b .eax
  let ov ← freeBit
  let s ← get
  let af := needsAdjust al s.flags.af
  let al1 := if af then adj al 0x06 else al
  let cf := decide (0x9F < al1.toNat) || s.flags.cf
  let al2 := if cf then adj al1 0x60 else al1
  writeReg .b .eax al2
  setFlags { s.flags.result al2 with af := af, cf := cf, ov := ov }

/-- DAA (R504). -/
def execDaa (s : State) : StepOut := instr (decimalAdjust (· + ·)) s

/-- DAS (R505). -/
def execDas (s : State) : StepOut := instr (decimalAdjust (· - ·)) s

end Sys2Proof.Machine
end

