-- ==== Sys2Proof/Machine/FlagMisc.lean ====
section
/-! DEFINITION. Flag control and transfer, ENTER and LEAVE, NOP, WAIT, the coprocessor escape, the prefixes, and the
opcodes that Intel reserves (spec/46_flag_block_misc.md, spec/30_encoding.md R280 to R287, R351). -/

namespace Sys2Proof.Machine

/-- Change the flags. -/
def changeFlags (f : Flags → Flags) (s : State) : StepOut :=
  instr (modify fun s => { s with flags := f s.flags }) s

/-- CLC (R760). -/
def execClc (s : State) : StepOut := changeFlags (fun f => { f with cf := false }) s

/-- CLD (R761). -/
def execCld (s : State) : StepOut := changeFlags (fun f => { f with df := false }) s

/-- CMC (R763). -/
def execCmc (s : State) : StepOut := changeFlags (fun f => { f with cf := !f.cf }) s

/-- STC (R766). -/
def execStc (s : State) : StepOut := changeFlags (fun f => { f with cf := true }) s

/-- STD (R767). -/
def execStd (s : State) : StepOut := changeFlags (fun f => { f with df := true }) s

/-- CLI and STI need CPL at most IOPL outside real-address mode (R762, R768). -/
def State.mayChangeIf (s : State) : Bool := s.isReal || decide (s.curCpl.toNat ≤ s.flags.iopl.toNat)

/-- CLI (R762). -/
def execCli (s : State) : StepOut :=
  instr (do
    let s ← get
    require s.mayChangeIf (.gp 0)
    setFlags { s.flags with ie := false }) s

/-- STI: after a change of IF from 0 to 1, INTR waits for one more instruction (R768, D63). -/
def execSti (s : State) : StepOut :=
  instr (do
    let s ← get
    require s.mayChangeIf (.gp 0)
    setFlags { s.flags with ie := true }
    modify fun t => { t with latches := { t.latches with stiShadow := !s.flags.ie } }) s

/-- LAHF: bits 5, 3 and 1 of AH are unspecified (R764, U3). -/
def execLahf (s : State) : StepOut :=
  instr (do
    let s ← get
    let x ← freeBits 3
    let f := s.flags
    let ah : Byte :=
      BitVec.ofBool f.sf ++ BitVec.ofBool f.zf ++ x.extractLsb' 2 1 ++ BitVec.ofBool f.af ++ x.extractLsb' 1 1
        ++ BitVec.ofBool f.pf ++ x.extractLsb' 0 1 ++ BitVec.ofBool f.cf
    writeReg .b .esp ah) s

/-- SAHF (R765). -/
def execSahf (s : State) : StepOut :=
  instr (do
    let ah ← readReg .b .esp
    modify fun s => { s with flags := s.flags.withLowByte ah }) s

/-- PUSHF, POPF, INT n and IRET fault in virtual-8086 mode unless IOPL is 3 (R772, R773). -/
def needIopl3 : M Unit := do
  let s ← get
  require (!(s.isV86 && s.flags.iopl != 3)) (.gp 0)

/-- POPF and POPFD leave RF as it is, also at their end (R772, R943 c, C58). -/
def popfBody (z : Size) : M Unit := do
  needIopl3
  let v ← pop z
  modify fun s => { s with flags := loadedFlags s v }
  keepRf

/-- POPF (R772). -/
def execPopf (s : State) : StepOut := instr (popfBody .w) s

/-- POPFD (R772). -/
def execPopfd (s : State) : StepOut := instr (popfBody .d) s

/-- PUSHF (R773). -/
def execPushf (s : State) : StepOut :=
  instr (do
    needIopl3
    let s ← get
    push .w (s.flags.low.setWidth 32)) s

/-- PUSHFD: RF is pushed as 0; VM is unspecified in virtual-8086 mode (R773, U8). -/
def execPushfd (s : State) : StepOut :=
  instr (do
    needIopl3
    let s ← get
    let b ← freeBit
    let v ← eflagsImage { s.flags with rf := false, vm := s.flags.vm && b }
    push .d v) s

/-- The enclosing frame pointers that ENTER copies: `n` doublewords or words below the old frame pointer (R770). -/
def copyFrames (z : Size) (n : Nat) (bp : Word) : M Unit :=
  match n with
  | 0 => pure ()
  | n + 1 => do
    let bp := bp - BitVec.ofNat 32 z.bytes
    let v ← readMem .ss (stackOff (if z = .d then .a32 else .a16) bp) z.bytes
    push z v
    copyFrames z n bp

/-- The frame pointer of ENTER in a slot of width `z`: a 16-bit stack pointer leaves the upper half of a doubleword
unspecified (R405, R770, log entry 58). -/
def padFrame (z : Size) (a : ASize) (frame : Word) : M Word :=
  if z = .d && a = .a16 then do
    let hi ← freeBits 16
    return hi ++ frame.setWidth 16
  else pure (stackOff a frame)

/-- ENTER (R770). In protected mode the final stack pointer must lie within the stack segment too. -/
def execEnter (o : OSize) (n : BitVec 16) (lvl : BitVec 8) (s : State) : StepOut :=
  instr (do
    let z := o.size
    let level := lvl.toNat % 32
    let s ← get
    push z (toWord z (s.regs.read z .ebp))
    let t ← get
    let frame := t.regs.esp
    if level ≠ 0 then do
      copyFrames z (level - 1) s.regs.ebp
      let v ← padFrame z s.stackSize frame
      push z v
    let bp ← padFrame z s.stackSize frame
    writeReg z .ebp (ofWord z bp)
    let u ← get
    let sp := u.regs.esp - n.setWidth 32
    require (!u.isProtected || u.segs.ss.inLimit (stackOff u.stackSize sp) 1) (.ss 0)
    setSp sp) s

/-- LEAVE (R771). -/
def execLeave (o : OSize) (s : State) : StepOut :=
  instr (do
    let z := o.size
    let s ← get
    setSp s.regs.ebp
    let v ← pop z
    writeReg z .ebp (ofWord z v)) s

/-- NOP (R780). -/
def execNop (s : State) : StepOut := instr (pure ()) s

/-- WAIT: while BUSY# is active it waits, one step at a time, and interrupts are taken between; then ERROR# is looked at
(R796, log entry 22). -/
def execWait (s : State) : StepOut :=
  instr (do
    let s ← get
    require (!(s.sys.cr0.ts && s.sys.cr0.mp)) .nm
    if s.now.busy then modify fun s => { s with eip := s.cur.start, cur := { s.cur with again := true, soft := true } }
    else require (!s.now.error) .mf) s

/-- ESC: #NM when EM or TS is set; then the memory operand's first byte is checked, and the coprocessor, which is another
manual's, is reached (R795, D64). -/
def escBody (rm : Rm) : M Unit := do
  let s ← get
  require (!s.sys.cr0.em) .nm
  require (!s.sys.cr0.ts) .nm
  let p ← place rm
  match p with
  | .reg _ => pure ()
  | .mem sr off => do
    let _ ← readMem sr off 1
  refuse .coprocessor

/-- ESC D8 (R795). -/
def execEscD8 (_ : BitVec 3) (rm : Rm) (s : State) : StepOut := instr (escBody rm) s

/-- ESC D9 (R795). -/
def execEscD9 (_ : BitVec 3) (rm : Rm) (s : State) : StepOut := instr (escBody rm) s

/-- ESC DA (R795). -/
def execEscDA (_ : BitVec 3) (rm : Rm) (s : State) : StepOut := instr (escBody rm) s

/-- ESC DB (R795). -/
def execEscDB (_ : BitVec 3) (rm : Rm) (s : State) : StepOut := instr (escBody rm) s

/-- ESC DC (R795). -/
def execEscDC (_ : BitVec 3) (rm : Rm) (s : State) : StepOut := instr (escBody rm) s

/-- ESC DD (R795). -/
def execEscDD (_ : BitVec 3) (rm : Rm) (s : State) : StepOut := instr (escBody rm) s

/-- ESC DE (R795). -/
def execEscDE (_ : BitVec 3) (rm : Rm) (s : State) : StepOut := instr (escBody rm) s

/-- ESC DF (R795). -/
def execEscDF (_ : BitVec 3) (rm : Rm) (s : State) : StepOut := instr (escBody rm) s

/-- A prefix: it changes how the instruction that follows is read and executed, and the instruction goes on (R285). -/
def prefixStep (f : Cur → Cur) (s : State) : StepOut := .next { s with cur := { f s.cur with stage := .prefixes } }

/-- LOCK (R790). -/
def execLock (s : State) : StepOut := prefixStep (fun c => { c with lock := true }) s

/-- REPNE, REPNZ (R710). When F2 and F3 both precede one string instruction the last of them holds (log entry 72, DESIGN
CHOICE: R285, R710 and D92 do not speak of it). -/
def execRepne (s : State) : StepOut := prefixStep (fun c => { c with rep := some .repne }) s

/-- REP, REPE, REPZ (R710). As for REPNE, the last of F2 and F3 holds (log entry 72, DESIGN CHOICE). -/
def execRep (s : State) : StepOut := prefixStep (fun c => { c with rep := some .repe }) s

/-- ES: (R286). The last override holds (D92). -/
def execSegEs (s : State) : StepOut := prefixStep (fun c => { c with seg := some .es }) s

/-- CS: (R286). -/
def execSegCs (s : State) : StepOut := prefixStep (fun c => { c with seg := some .cs }) s

/-- SS: (R286). -/
def execSegSs (s : State) : StepOut := prefixStep (fun c => { c with seg := some .ss }) s

/-- DS: (R286). -/
def execSegDs (s : State) : StepOut := prefixStep (fun c => { c with seg := some .ds }) s

/-- FS: (R286). -/
def execSegFs (s : State) : StepOut := prefixStep (fun c => { c with seg := some .fs }) s

/-- GS: (R286). -/
def execSegGs (s : State) : StepOut := prefixStep (fun c => { c with seg := some .gs }) s

/-- OPSIZE, 66H: a second one counts once (R305, D92). -/
def execOpsize (s : State) : StepOut := prefixStep (fun c => { c with osz := true }) s

/-- ADSIZE, 67H: a second one counts once (R305, D92). -/
def execAdsize (s : State) : StepOut := prefixStep (fun c => { c with asz := true }) s

/-- `F6 /1`: Intel reserves it and its effect is not described, with or without LOCK (R351, D91, log
entries 29 and 66). -/
def execReservedF6 (_ : Rm) (_ : State) : StepOut := .refused .reservedOpcode

/-- `F7 /1`: Intel reserves it and its effect is not described, with or without LOCK (R351, D91, log
entries 29 and 66). -/
def execReservedF7 (_ : Rm) (_ : State) : StepOut := .refused .reservedOpcode

/-- `C0 /6`: Intel reserves it and its effect is not described, with or without LOCK (R351, D91, log
entries 29 and 66). -/
def execReservedC0 (_ : Rm) (_ : State) : StepOut := .refused .reservedOpcode

/-- `C1 /6`: Intel reserves it and its effect is not described, with or without LOCK (R351, D91, log
entries 29 and 66). -/
def execReservedC1 (_ : Rm) (_ : State) : StepOut := .refused .reservedOpcode

/-- `D0 /6`: Intel reserves it and its effect is not described, with or without LOCK (R351, D91, log
entries 29 and 66). -/
def execReservedD0 (_ : Rm) (_ : State) : StepOut := .refused .reservedOpcode

/-- `D1 /6`: Intel reserves it and its effect is not described, with or without LOCK (R351, D91, log
entries 29 and 66). -/
def execReservedD1 (_ : Rm) (_ : State) : StepOut := .refused .reservedOpcode

/-- `D2 /6`: Intel reserves it and its effect is not described, with or without LOCK (R351, D91, log
entries 29 and 66). -/
def execReservedD2 (_ : Rm) (_ : State) : StepOut := .refused .reservedOpcode

/-- `D3 /6`: Intel reserves it and its effect is not described, with or without LOCK (R351, D91, log
entries 29 and 66). -/
def execReservedD3 (_ : Rm) (_ : State) : StepOut := .refused .reservedOpcode

/-- `82`: Intel reserves it and its effect is not described, with or without LOCK (R351, D91, log
entries 29 and 66). -/
def execReserved82 (_ : State) : StepOut := .refused .reservedOpcode

/-- `D6`: Intel reserves it and its effect is not described, with or without LOCK (R351, D91, log
entries 29 and 66). -/
def execReservedD6 (_ : State) : StepOut := .refused .reservedOpcode

/-- `F1`: Intel reserves it and its effect is not described, with or without LOCK (R351, D91, log
entries 29 and 66). -/
def execReservedF1 (_ : State) : StepOut := .refused .reservedOpcode

/-- `0F 07`: Intel reserves it and its effect is not described, with or without LOCK (R351, D91, log
entries 29 and 66). -/
def execReserved0F07 (_ : State) : StepOut := .refused .reservedOpcode

/-- `0F 10`: Intel reserves it and its effect is not described, with or without LOCK (R351, D91, log
entries 29 and 66). -/
def execReserved0F10 (_ : State) : StepOut := .refused .reservedOpcode

/-- `0F 11`: Intel reserves it and its effect is not described, with or without LOCK (R351, D91, log
entries 29 and 66). -/
def execReserved0F11 (_ : State) : StepOut := .refused .reservedOpcode

/-- `0F 12`: Intel reserves it and its effect is not described, with or without LOCK (R351, D91, log
entries 29 and 66). -/
def execReserved0F12 (_ : State) : StepOut := .refused .reservedOpcode

/-- `0F 13`: Intel reserves it and its effect is not described, with or without LOCK (R351, D91, log
entries 29 and 66). -/
def execReserved0F13 (_ : State) : StepOut := .refused .reservedOpcode

end Sys2Proof.Machine
end

