-- ==== Sys2Proof/Machine/Logic.lean ====
section
/-! DEFINITION. Logical instructions, bit test, bit scan and byte set on condition (spec/43_logical_shift_bit.md R520 to
R530, R540, R543, R544). -/

namespace Sys2Proof.Machine

/-- AND (R522). -/
def execAnd (f : AluForm) (s : State) : StepOut := aluInstr .and f s

/-- OR (R530). -/
def execOr (f : AluForm) (s : State) : StepOut := aluInstr .or f s

/-- XOR (R544). -/
def execXor (f : AluForm) (s : State) : StepOut := aluInstr .xor f s

/-- NOT: no flag changes (R529). -/
def notTo (z : Size) (p : Place) : M Unit := do
  let a ← p.readRmw z
  p.write z (~~~a)

/-- NOT r/m8 (R529). -/
def execNotRm8 (rm : Rm) (s : State) : StepOut := unary (notTo .b) rm s

/-- NOT r/m16 and r/m32 (R529). -/
def execNotRmv (o : OSize) (rm : Rm) (s : State) : StepOut := unary (notTo o.size) rm s

/-- TEST: the flags of AND, nothing stored (R543). -/
def testTo (z : Size) (p : Place) (b : z.Val) : M Unit := do
  let a ← p.read z
  let af ← freeBit
  let s ← get
  setFlags (s.flags.logic (a &&& b) af)

/-- TEST with an r/m operand and a source value. -/
def testRm (z : Size) (rm : Rm) (b : M z.Val) (s : State) : StepOut :=
  instr (do
    let p ← place rm
    let v ← b
    testTo z p v) s

/-- TEST r/m8,imm8 (R543). -/
def execTestRm8Imm8 (rm : Rm) (i : BitVec 8) (s : State) : StepOut := testRm .b rm (pure i) s

/-- TEST r/m16,imm16 (R543). -/
def execTestRm16Imm16 (rm : Rm) (i : BitVec 16) (s : State) : StepOut := testRm .w rm (pure i) s

/-- TEST r/m32,imm32 (R543). -/
def execTestRm32Imm32 (rm : Rm) (i : BitVec 32) (s : State) : StepOut := testRm .d rm (pure i) s

/-- TEST AL,imm8 (R543). -/
def execTestAlImm8 (i : BitVec 8) (s : State) : StepOut := instr (testTo .b (.reg .eax) i) s

/-- TEST AX,imm16 (R543). -/
def execTestAxImm16 (i : BitVec 16) (s : State) : StepOut := instr (testTo .w (.reg .eax) i) s

/-- TEST EAX,imm32 (R543). -/
def execTestEaxImm32 (i : BitVec 32) (s : State) : StepOut := instr (testTo .d (.reg .eax) i) s

/-- TEST r/m8,r8 (R543). -/
def execTestRm8R8 (rm : Rm) (r : Reg) (s : State) : StepOut := testRm .b rm (readReg .b r) s

/-- TEST r/m16,r16 and r/m32,r32 (R543). -/
def execTestRmvRv (o : OSize) (rm : Rm) (r : Reg) (s : State) : StepOut := testRm o.size rm (readReg o.size r) s

/-- What a bit instruction does to the bit: BT, BTS, BTR, BTC (R525 to R528). -/
inductive BitOp where
  | test
  | set
  | reset
  | complement
  deriving DecidableEq, Repr

/-- The operand after a bit instruction on bit `k`. -/
def BitOp.apply {n : Nat} (op : BitOp) (v : BitVec n) (k : Nat) : BitVec n :=
  let bit : BitVec n := 1#n <<< k
  match op with
  | .test => v
  | .set => v ||| bit
  | .reset => v &&& ~~~bit
  | .complement => v ^^^ bit

/-- A bit instruction on a place and a bit number below the operand's width. -/
def bitTo (op : BitOp) (z : Size) (p : Place) (k : Nat) : M Unit := do
  let v ← if op = .test then p.read z else p.readRmw z
  let u ← freeStatus
  if op ≠ .test then p.write z (op.apply v k)
  let s ← get
  setFlags (s.flags.bitTest u (v.getLsbD k))

/-- An effective address displaced: 16-bit forms wrap at 64K (R312, R316). -/
def displaceEa (e : Ea) (off d : Word) : Word :=
  match e with
  | .m16 _ _ => ((off + d).setWidth 16).setWidth 32
  | .abs16 _ => ((off + d).setWidth 16).setWidth 32
  | .m32 _ _ => off + d
  | .abs32 _ => off + d
  | .sib _ _ _ _ => off + d
  | .sibAbs _ _ _ => off + d

/-- How far the operand of a bit instruction lies from the effective address: a whole number of operands, by division
of the signed bit offset that rounds toward minus infinity (R520, R521). -/
def bitDisp (z : Size) (off : z.Val) : Word := BitVec.ofInt 32 (z.bytes * (off.toInt / z.bits))

/-- The place of a bit instruction's operand when a register holds the bit offset (R520, R521). -/
def bitPlace (z : Size) (rm : Rm) (off : z.Val) : M Place :=
  match rm with
  | .reg r => pure (.reg r)
  | .mem e => do
    let ea ← effAddr e
    let s ← get
    return .mem (s.dataSeg (eaSeg e)) (displaceEa e ea (bitDisp z off))

/-- A bit instruction with the bit offset in a register; the bit is the offset modulo the width (R520). -/
def bitRmR (op : BitOp) (o : OSize) (rm : Rm) (r : Reg) (s : State) : StepOut :=
  lockable (op != .test && rmIsMem rm) (do
    let off ← readReg o.size r
    let p ← bitPlace o.size rm off
    bitTo op o.size p (off.toNat % o.size.bits)) s

/-- A bit instruction with the bit offset in the instruction, modulo the width (R520, D23). -/
def bitRmImm (op : BitOp) (o : OSize) (rm : Rm) (i : BitVec 8) (s : State) : StepOut :=
  lockable (op != .test && rmIsMem rm) (do
    let p ← place rm
    bitTo op o.size p (i.toNat % o.size.bits)) s

/-- BT r/m,r (R525). -/
def execBtRmvRv (o : OSize) (rm : Rm) (r : Reg) (s : State) : StepOut := bitRmR .test o rm r s

/-- BT r/m,imm8 (R525). -/
def execBtRmvImm8 (o : OSize) (rm : Rm) (i : BitVec 8) (s : State) : StepOut := bitRmImm .test o rm i s

/-- BTS r/m,r (R528). -/
def execBtsRmvRv (o : OSize) (rm : Rm) (r : Reg) (s : State) : StepOut := bitRmR .set o rm r s

/-- BTS r/m,imm8 (R528). -/
def execBtsRmvImm8 (o : OSize) (rm : Rm) (i : BitVec 8) (s : State) : StepOut := bitRmImm .set o rm i s

/-- BTR r/m,r (R527). -/
def execBtrRmvRv (o : OSize) (rm : Rm) (r : Reg) (s : State) : StepOut := bitRmR .reset o rm r s

/-- BTR r/m,imm8 (R527). -/
def execBtrRmvImm8 (o : OSize) (rm : Rm) (i : BitVec 8) (s : State) : StepOut := bitRmImm .reset o rm i s

/-- BTC r/m,r (R526). -/
def execBtcRmvRv (o : OSize) (rm : Rm) (r : Reg) (s : State) : StepOut := bitRmR .complement o rm r s

/-- BTC r/m,imm8 (R526). -/
def execBtcRmvImm8 (o : OSize) (rm : Rm) (i : BitVec 8) (s : State) : StepOut := bitRmImm .complement o rm i s

/-- The lowest set bit at or above `k`, looking at `n` bits; `k + n` if there is none. -/
def scanUp {w : Nat} (v : BitVec w) (n k : Nat) : Nat :=
  match n with
  | 0 => k
  | n + 1 => if v.getLsbD k then k else scanUp v n (k + 1)

/-- The highest set bit below `n`; 0 if there is none. -/
def scanDown {w : Nat} (v : BitVec w) (n : Nat) : Nat :=
  match n with
  | 0 => 0
  | n + 1 => if v.getLsbD n then n else scanDown v n

/-- BSF and BSR: the index of a set bit; with a source of 0 ZF is set and the destination is undefined (R523, R524, U2). -/
def scanBody (z : Size) (r : Reg) (scan : z.Val → Nat) (v : z.Val) : M Unit := do
  let undef ← freeBits 32
  let u ← freeStatus
  writeReg z r (if v == 0 then ofWord z undef else BitVec.ofNat z.bits (scan v))
  let s ← get
  setFlags (s.flags.bitScan u (v == 0))

/-- BSF (R523). -/
def execBsf (o : OSize) (r : Reg) (rm : Rm) (s : State) : StepOut :=
  useRm o.size rm (scanBody o.size r fun v => scanUp v o.size.bits 0) s

/-- BSR (R524). -/
def execBsr (o : OSize) (r : Reg) (rm : Rm) (s : State) : StepOut :=
  useRm o.size rm (scanBody o.size r fun v => scanDown v o.size.bits) s

/-- SETcc: 1 or 0 in a byte operand (R540). -/
def setCond (c : Cond) (rm : Rm) (s : State) : StepOut :=
  instr (do
    let s ← get
    writeRm .b rm ((BitVec.ofBool (condHolds c s.flags)).setWidth 8)) s

/-- SETO (R540). -/
def execSeto (rm : Rm) (s : State) : StepOut := setCond .o rm s

/-- SETNO (R540). -/
def execSetno (rm : Rm) (s : State) : StepOut := setCond .no rm s

/-- SETB (R540). -/
def execSetb (rm : Rm) (s : State) : StepOut := setCond .b rm s

/-- SETAE (R540). -/
def execSetae (rm : Rm) (s : State) : StepOut := setCond .ae rm s

/-- SETE (R540). -/
def execSete (rm : Rm) (s : State) : StepOut := setCond .e rm s

/-- SETNE (R540). -/
def execSetne (rm : Rm) (s : State) : StepOut := setCond .ne rm s

/-- SETBE (R540). -/
def execSetbe (rm : Rm) (s : State) : StepOut := setCond .be rm s

/-- SETA (R540). -/
def execSeta (rm : Rm) (s : State) : StepOut := setCond .a rm s

/-- SETS (R540). -/
def execSets (rm : Rm) (s : State) : StepOut := setCond .s rm s

/-- SETNS (R540). -/
def execSetns (rm : Rm) (s : State) : StepOut := setCond .ns rm s

/-- SETP (R540). -/
def execSetp (rm : Rm) (s : State) : StepOut := setCond .p rm s

/-- SETNP (R540). -/
def execSetnp (rm : Rm) (s : State) : StepOut := setCond .np rm s

/-- SETL (R540). -/
def execSetl (rm : Rm) (s : State) : StepOut := setCond .l rm s

/-- SETGE (R540). -/
def execSetge (rm : Rm) (s : State) : StepOut := setCond .ge rm s

/-- SETLE (R540). -/
def execSetle (rm : Rm) (s : State) : StepOut := setCond .le rm s

/-- SETG (R540). -/
def execSetg (rm : Rm) (s : State) : StepOut := setCond .g rm s

end Sys2Proof.Machine
end

