-- ==== Sys2Proof/Machine/Shift.lean ====
section
/-! DEFINITION. Shifts, rotates and double shifts (spec/43_logical_shift_bit.md R531 to R539, R541, R542). -/

namespace Sys2Proof.Machine

/-- A shift or rotate of a place: the count is masked to five bits, and a masked count of 0 writes nothing and changes no
flag of a memory operand (R531, R536, D59); a rotate of a register by 0 leaves OF undefined (R531, log entry 46). -/
def shiftTo (op : ShiftOp) (z : Size) (p : Place) (count : Byte) : M Unit := do
  let c := count.toNat % 32
  let v ← p.readRmw z
  let u ← freeStatus
  let s ← get
  let (res, f) := op.apply s.flags u v c
  if c ≠ 0 then p.write z res
  setFlags (if c = 0 && p.isMem then s.flags else f)

/-- The six encodings of a shift or rotate: by 1, by CL, by imm8 (R531, R536). -/
def shiftBody (op : ShiftOp) (f : ShiftForm) : M Unit :=
  match f with
  | .rm8One rm => do
    let p ← place rm
    shiftTo op .b p 1
  | .rm8Cl rm => do
    let p ← place rm
    let c ← readReg .b .ecx
    shiftTo op .b p c
  | .rm8Imm8 rm i => do
    let p ← place rm
    shiftTo op .b p i
  | .rmvOne o rm => do
    let p ← place rm
    shiftTo op o.size p 1
  | .rmvCl o rm => do
    let p ← place rm
    let c ← readReg .b .ecx
    shiftTo op o.size p c
  | .rmvImm8 o rm i => do
    let p ← place rm
    shiftTo op o.size p i

/-- ROL (R532). -/
def execRol (f : ShiftForm) (s : State) : StepOut := instr (shiftBody .rol f) s

/-- ROR (R533). -/
def execRor (f : ShiftForm) (s : State) : StepOut := instr (shiftBody .ror f) s

/-- RCL (R534). -/
def execRcl (f : ShiftForm) (s : State) : StepOut := instr (shiftBody .rcl f) s

/-- RCR (R535). -/
def execRcr (f : ShiftForm) (s : State) : StepOut := instr (shiftBody .rcr f) s

/-- SHL, also called SAL (R537). -/
def execShl (f : ShiftForm) (s : State) : StepOut := instr (shiftBody .shl f) s

/-- SHR (R539). -/
def execShr (f : ShiftForm) (s : State) : StepOut := instr (shiftBody .shr f) s

/-- SAR (R538). -/
def execSar (f : ShiftForm) (s : State) : StepOut := instr (shiftBody .sar f) s

/-- SHLD or SHRD of a place by a count modulo 32; a count of 0 writes nothing (R541, R542, D59). -/
def doubleTo (left : Bool) (z : Size) (rm : Rm) (r : Reg) (count : M Byte) : M Unit := do
  let p ← place rm
  let src ← readReg z r
  let cnt ← count
  let c := cnt.toNat % 32
  let v ← p.readRmw z
  let undef ← freeBits 32
  let u ← freeStatus
  let s ← get
  let (res, f) :=
    if left then shldApply s.flags u (ofWord z undef) v src c else shrdApply s.flags u (ofWord z undef) v src c
  if c ≠ 0 then p.write z res
  setFlags f

/-- SHLD r/m,r,imm8 (R541). -/
def execShldRmvRvImm8 (o : OSize) (rm : Rm) (r : Reg) (i : BitVec 8) (s : State) : StepOut :=
  instr (doubleTo true o.size rm r (pure i)) s

/-- SHLD r/m,r,CL (R541). -/
def execShldRmvRvCl (o : OSize) (rm : Rm) (r : Reg) (s : State) : StepOut :=
  instr (doubleTo true o.size rm r (readReg .b .ecx)) s

/-- SHRD r/m,r,imm8 (R542). -/
def execShrdRmvRvImm8 (o : OSize) (rm : Rm) (r : Reg) (i : BitVec 8) (s : State) : StepOut :=
  instr (doubleTo false o.size rm r (pure i)) s

/-- SHRD r/m,r,CL (R542). -/
def execShrdRmvRvCl (o : OSize) (rm : Rm) (r : Reg) (s : State) : StepOut :=
  instr (doubleTo false o.size rm r (readReg .b .ecx)) s

end Sys2Proof.Machine
end

