-- ==== Sys2Proof/Machine/StringIo.lean ====
section
/-! DEFINITION. String instructions, their repetition, and input and output (spec/45_string_io.md). -/

namespace Sys2Proof.Machine

/-- An index register after an element: by the size of the element up or down, as DF says (R700). -/
def advance (a : ASize) (z : Size) (r : Reg) : M Unit := do
  let v ← addrReg a r
  let s ← get
  let n := BitVec.ofNat 32 z.bytes
  setAddrReg a r (if s.flags.df then v - n else v + n)

/-- The source element, at DS or the override (R700). -/
def readSource (a : ASize) (z : Size) : M Word := do
  let off ← addrReg a .esi
  let s ← get
  readMem (s.dataSeg .ds) off z.bytes

/-- The element at the destination index, always in ES (R700). -/
def readDest (a : ASize) (z : Size) : M Word := do
  let off ← addrReg a .edi
  readMem .es off z.bytes

/-- Store an element at the destination index, always in ES (R700). -/
def writeDest (a : ASize) (z : Size) (v : Word) : M Unit := do
  let off ← addrReg a .edi
  writeMem .es off z.bytes v

/-- Whether a repeated instruction goes on after an iteration: the count is not exhausted and, for CMPS and SCAS, ZF is
what the prefix asks for (R710). -/
def repeats (k : RepKind) (compares : Bool) (zf : Bool) (count : Word) : Bool :=
  count != 0 && (!compares || (match k with
    | .repe => zf
    | .repne => !zf))

/-- One step of a string instruction: the primitive once, or under a repeat prefix one iteration, after which EIP points
at the prefixed instruction again while iterations are left (R710, D60). -/
def repeated (a : ASize) (compares : Bool) (prim : M Unit) : M Unit := do
  let s ← get
  match s.cur.rep with
  | none => prim
  | some k => do
    let c ← addrReg a .ecx
    if c = 0 then pure ()
    else do
      prim
      setAddrReg a .ecx (c - 1)
      let s ← get
      if repeats k compares s.flags.zf (c - 1) then
        modify fun s => { s with eip := s.cur.start, cur := { s.cur with again := true } }

/-- MOVS (R703). -/
def movsBody (a : ASize) (z : Size) : M Unit := do
  let v ← readSource a z
  writeDest a z v
  advance a z .esi
  advance a z .edi

/-- CMPS: the flags of source minus destination; the source is read first (R701, D40). -/
def cmpsBody (a : ASize) (z : Size) : M Unit := do
  let x ← readSource a z
  let y ← readDest a z
  let s ← get
  setFlags (s.flags.sub (ofWord z x) (ofWord z y) false)
  advance a z .esi
  advance a z .edi

/-- STOS (R705). -/
def stosBody (a : ASize) (z : Size) : M Unit := do
  let v ← readReg z .eax
  writeDest a z (toWord z v)
  advance a z .edi

/-- LODS (R702). -/
def lodsBody (a : ASize) (z : Size) : M Unit := do
  let v ← readSource a z
  writeReg z .eax (ofWord z v)
  advance a z .esi

/-- SCAS: the flags of the accumulator minus the destination element (R704). -/
def scasBody (a : ASize) (z : Size) : M Unit := do
  let y ← readDest a z
  let x ← readReg z .eax
  let s ← get
  setFlags (s.flags.sub x (ofWord z y) false)
  advance a z .edi

/-- MOVSB (R703). -/
def execMovsb (a : ASize) (s : State) : StepOut := stringInstr (repeated a false (movsBody a .b)) s

/-- MOVSW (R703). -/
def execMovsw (a : ASize) (s : State) : StepOut := stringInstr (repeated a false (movsBody a .w)) s

/-- MOVSD (R703). -/
def execMovsd (a : ASize) (s : State) : StepOut := stringInstr (repeated a false (movsBody a .d)) s

/-- CMPSB (R701). -/
def execCmpsb (a : ASize) (s : State) : StepOut := stringInstr (repeated a true (cmpsBody a .b)) s

/-- CMPSW (R701). -/
def execCmpsw (a : ASize) (s : State) : StepOut := stringInstr (repeated a true (cmpsBody a .w)) s

/-- CMPSD (R701). -/
def execCmpsd (a : ASize) (s : State) : StepOut := stringInstr (repeated a true (cmpsBody a .d)) s

/-- STOSB (R705). -/
def execStosb (a : ASize) (s : State) : StepOut := stringInstr (repeated a false (stosBody a .b)) s

/-- STOSW (R705). -/
def execStosw (a : ASize) (s : State) : StepOut := stringInstr (repeated a false (stosBody a .w)) s

/-- STOSD (R705). -/
def execStosd (a : ASize) (s : State) : StepOut := stringInstr (repeated a false (stosBody a .d)) s

/-- LODSB (R702). -/
def execLodsb (a : ASize) (s : State) : StepOut := stringInstr (repeated a false (lodsBody a .b)) s

/-- LODSW (R702). -/
def execLodsw (a : ASize) (s : State) : StepOut := stringInstr (repeated a false (lodsBody a .w)) s

/-- LODSD (R702). -/
def execLodsd (a : ASize) (s : State) : StepOut := stringInstr (repeated a false (lodsBody a .d)) s

/-- SCASB (R704). -/
def execScasb (a : ASize) (s : State) : StepOut := stringInstr (repeated a true (scasBody a .b)) s

/-- SCASW (R704). -/
def execScasw (a : ASize) (s : State) : StepOut := stringInstr (repeated a true (scasBody a .w)) s

/-- SCASD (R704). -/
def execScasd (a : ASize) (s : State) : StepOut := stringInstr (repeated a true (scasBody a .d)) s

/-- The I/O permission bit map of the current TSS: whether every port of an access is permitted (R719). Both bytes of
the map that are read must lie within the TSS limit; an 80286 TSS has no map. Where the word at 66H that says where the map
begins lies beyond that limit (R166) there is no map either (log entry 57, DESIGN CHOICE). -/
def ioPermitted (port : Half) (n : Nat) : M Bool := do
  let s ← get
  let tr := s.sys.tr
  if !tss32 tr.typ || decide (tr.limit.toNat < 0x67) then return false
  else do
    let ptr ← sysRead (tr.base + 0x66) 2
    let addr := port.toNat / 8 + ptr.toNat
    if tr.limit.toNat < addr + 1 then return false
    else do
      let bits ← sysRead (tr.base + BitVec.ofNat 32 addr) 2
      let mask := BitVec.ofNat 32 (2 ^ n - 1) <<< (port.toNat % 8)
      return bits &&& mask == 0

/-- The I/O permission check (R719): none in real-address mode, and none at a level that IOPL admits in protected
mode. -/
def checkPort (port : Half) (n : Nat) : M Unit := do
  let s ← get
  if s.pe && (s.flags.vm || decide (s.flags.iopl.toNat < s.cpl.toNat)) then do
    let ok ← ioPermitted port n
    require ok (.gp 0)

/-- An access of `n` bytes must not run past port FFFFH: its effect is not described (R270, D103). -/
def portInRange (port : Half) (n : Nat) : M Unit :=
  if port.toNat + n ≤ 0x10000 then pure () else refuse .portRange

/-- Read `n` bytes from a port: the platform supplies the value (R270, log entry 16). -/
def ioRead (port : Half) (n : Nat) : M Word := do
  portInRange port n
  let s ← get
  let v := leValue (leBytes n (Config.portValue s.draws))
  modify fun s => { s with io := .portRead port.toNat n v :: s.io, draws := s.draws + 1 }
  return v

/-- Write the low `n` bytes of a value to a port (R270). -/
def ioWrite (port : Half) (n : Nat) (v : Word) : M Unit := do
  portInRange port n
  modify fun s => { s with io := .portWrite port.toNat n (leValue (leBytes n v)) :: s.io }

/-- INS: the destination's checks come before the port is read, and the store that follows raises nothing, so that a
faulting INS has read no port (R721, D41). -/
def insBody (a : ASize) (z : Size) : M Unit := do
  let port ← readReg .w .edx
  checkPort port z.bytes
  let off ← addrReg a .edi
  let ts ← probeMem .es off z.bytes
  let v ← ioRead port z.bytes
  writeProbed .es off z.bytes ts v
  advance a z .edi

/-- OUTS: the element is read before the port is written (R723). -/
def outsBody (a : ASize) (z : Size) : M Unit := do
  let port ← readReg .w .edx
  checkPort port z.bytes
  let v ← readSource a z
  ioWrite port z.bytes v
  advance a z .esi

/-- INSB (R721). -/
def execInsb (a : ASize) (s : State) : StepOut := stringInstr (repeated a false (insBody a .b)) s

/-- INSW (R721). -/
def execInsw (a : ASize) (s : State) : StepOut := stringInstr (repeated a false (insBody a .w)) s

/-- INSD (R721). -/
def execInsd (a : ASize) (s : State) : StepOut := stringInstr (repeated a false (insBody a .d)) s

/-- OUTSB (R723). -/
def execOutsb (a : ASize) (s : State) : StepOut := stringInstr (repeated a false (outsBody a .b)) s

/-- OUTSW (R723). -/
def execOutsw (a : ASize) (s : State) : StepOut := stringInstr (repeated a false (outsBody a .w)) s

/-- OUTSD (R723). -/
def execOutsd (a : ASize) (s : State) : StepOut := stringInstr (repeated a false (outsBody a .d)) s

/-- IN from a port into the accumulator (R720). -/
def inBody (z : Size) (port : Half) : M Unit := do
  checkPort port z.bytes
  let v ← ioRead port z.bytes
  writeReg z .eax (ofWord z v)

/-- OUT of the accumulator to a port (R722). -/
def outBody (z : Size) (port : Half) : M Unit := do
  checkPort port z.bytes
  let v ← readReg z .eax
  ioWrite port z.bytes (toWord z v)

/-- IN AL,imm8: the port number is zero-extended (R720). -/
def execInAlImm8 (i : BitVec 8) (s : State) : StepOut := instr (inBody .b (i.setWidth 16)) s

/-- IN AX,imm8 and IN EAX,imm8 (R720). -/
def execInAccImm8 (o : OSize) (i : BitVec 8) (s : State) : StepOut := instr (inBody o.size (i.setWidth 16)) s

/-- IN AL,DX (R720). -/
def execInAlDx (s : State) : StepOut :=
  instr (do
    let port ← readReg .w .edx
    inBody .b port) s

/-- IN AX,DX and IN EAX,DX (R720). -/
def execInAccDx (o : OSize) (s : State) : StepOut :=
  instr (do
    let port ← readReg .w .edx
    inBody o.size port) s

/-- OUT imm8,AL: the port number is zero-extended (R722). -/
def execOutImm8Al (i : BitVec 8) (s : State) : StepOut := instr (outBody .b (i.setWidth 16)) s

/-- OUT imm8,AX and OUT imm8,EAX (R722). -/
def execOutImm8Acc (o : OSize) (i : BitVec 8) (s : State) : StepOut := instr (outBody o.size (i.setWidth 16)) s

/-- OUT DX,AL (R722). -/
def execOutDxAl (s : State) : StepOut :=
  instr (do
    let port ← readReg .w .edx
    outBody .b port) s

/-- OUT DX,AX and OUT DX,EAX (R722). -/
def execOutDxAcc (o : OSize) (s : State) : StepOut :=
  instr (do
    let port ← readReg .w .edx
    outBody o.size port) s

end Sys2Proof.Machine
end

