-- ==== Sys2Proof/Machine/System.lean ====
section
/-! DEFINITION. System and protection instructions (spec/47_system.md). -/

namespace Sys2Proof.Machine

/-- A privileged instruction: #GP(0) unless CPL is 0; real-address mode acts as CPL 0, virtual-8086 mode as CPL 3. -/
def privileged : M Unit := do
  let s ← get
  require (s.curCpl == 0) (.gp 0)

/-- An instruction that real-address and virtual-8086 mode do not recognize (R820, R823, R826). -/
def needProtected : M Unit := do
  let s ← get
  require s.isProtected .ud

/-- Set ZF alone. -/
def setZf (b : Bool) : M Unit := modify fun s => { s with flags := { s.flags with zf := b } }

/-- ARPL: the RPL of the destination is raised to that of the source (R820). -/
def execArpl (rm : Rm) (r : Reg) (s : State) : StepOut :=
  instr (do
    needProtected
    let p ← place rm
    let d ← p.readRmw .w
    let v ← readReg .w r
    if (rpl d).toNat < (rpl v).toNat then do
      p.write .w (withRpl d (rpl v))
      setZf true
    else setZf false) s

/-- CLTS (R821). -/
def execClts (s : State) : StepOut :=
  instr (do
    privileged
    modify fun s => { s with sys := { s.sys with cr0 := { s.sys.cr0 with ts := false } } }) s

/-- HLT (R822). Executed with TF = 1 it is refused: when the trap comes is not described (R1012, D102, log entry 10). -/
def execHlt (s : State) : StepOut :=
  instr (do
    privileged
    let s ← get
    if s.flags.tf then refuse .haltTraced
    modify fun s => { s with latches := { s.latches with halted := true }, io := .halt :: s.io }) s

/-- The descriptor that a selector makes visible to LAR, LSL, VERR and VERW: none for a null selector or one outside its
table (R823, R828, R835, D50). -/
def peekDesc (sel : Half) : M (Option Desc) := do
  let s ← get
  if selNull sel then return none
  else
    match descAddr s sel with
    | none => return none
    | some lin => do
      let d ← readDesc lin
      return some d

/-- The privilege condition of LAR, LSL, VERR and VERW; `exempt` says that the segment is conforming code (R823). -/
def visibleAt (cpl : BitVec 2) (sel : Half) (d : Desc) (exempt : Bool) : Bool :=
  exempt || decide ((maxPl cpl (rpl sel)).toNat ≤ d.dpl.toNat)

/-- The descriptor types that LAR accepts (R823). -/
def larType (d : Desc) : Bool := d.dt || !(d.typ == 0 || d.typ == 8 || d.typ == 10 || d.typ == 13)

/-- The descriptor types that LSL accepts (R828). -/
def lslType (d : Desc) : Bool :=
  d.dt || d.typ == 1 || d.typ == 2 || d.typ == 3 || d.typ == 9 || d.typ == 11

/-- The selector operand of LAR and LSL. -/
def selectorOf (o : OSize) (rm : Rm) : M Half := do
  let v ← readRm o.size rm
  return (toWord o.size v).setWidth 16

/-- LAR: bits 19:16 of the result are undefined (R823, D51). R823 asks nothing of the P bit, so that a descriptor that is not
present gives its fields too, though R83 never interprets them (log entry 67, DEDUCED). -/
def execLar (o : OSize) (r : Reg) (rm : Rm) (s : State) : StepOut :=
  instr (do
    needProtected
    let sel ← selectorOf o rm
    let d ← peekDesc sel
    let s ← get
    match d with
    | none => setZf false
    | some d =>
      if larType d && visibleAt s.cpl sel d d.conforming then do
        let x ← freeBits 4
        let v : Word := (d.hi &&& 0x00F0FF00) ||| (x.setWidth 32 <<< 16)
        writeReg o.size r (ofWord o.size v)
        setZf true
      else setZf false) s

/-- LSL (R828). R828 asks nothing of the P bit, so that a descriptor that is not present gives its limit too, though R83 never
interprets it (log entry 67, DEDUCED). -/
def execLsl (o : OSize) (r : Reg) (rm : Rm) (s : State) : StepOut :=
  instr (do
    needProtected
    let sel ← selectorOf o rm
    let d ← peekDesc sel
    let s ← get
    match d with
    | none => setZf false
    | some d =>
      if lslType d && visibleAt s.cpl sel d d.conforming then do
        writeReg o.size r (ofWord o.size d.limit)
        setZf true
      else setZf false) s

/-- VERR and VERW: whether the segment that a selector names passes a test on its type and privilege (R835). -/
def verifyBody (rm : Rm) (ok : Desc → Bool) (exempt : Desc → Bool) : M Unit := do
  needProtected
  let sel ← readRm .w rm
  let d ← peekDesc sel
  let s ← get
  match d with
  | none => setZf false
  | some d => setZf (d.dt && ok d && visibleAt s.cpl sel d (exempt d))

/-- VERR (R835). -/
def execVerr (rm : Rm) (s : State) : StepOut := instr (verifyBody rm Desc.readable Desc.conforming) s

/-- VERW (R835). -/
def execVerw (rm : Rm) (s : State) : StepOut := instr (verifyBody rm Desc.writable (fun _ => false)) s

/-- The six bytes of LGDT and LIDT: a limit and a base, of which the 16-bit forms take 24 bits (R824). The offset of the
base wraps modulo 2^32 (log entry 56, DESIGN CHOICE). -/
def readTable (o : OSize) (ea : Ea) : M TableReg := do
  let off ← effAddr ea
  let s ← get
  let sr := s.dataSeg (eaSeg ea)
  let limit ← readMem sr off 2
  let base ← readMem sr (off + 2) 4
  return { base := if o = .o16 then base &&& 0x00FFFFFF else base, limit := limit.setWidth 16 }

/-- LGDT (R824). -/
def execLgdt (o : OSize) (ea : Ea) (s : State) : StepOut :=
  instr (do
    privileged
    let t ← readTable o ea
    modify fun s => { s with sys := { s.sys with gdtr := t } }) s

/-- LIDT (R824). -/
def execLidt (o : OSize) (ea : Ea) (s : State) : StepOut :=
  instr (do
    privileged
    let t ← readTable o ea
    modify fun s => { s with sys := { s.sys with idtr := t } }) s

/-- The six bytes of SGDT and SIDT: the 16-bit forms store 24 bits of base and a zero byte (R831). The offset of the base
wraps modulo 2^32 (log entry 56, DESIGN CHOICE). -/
def writeTable (o : OSize) (ea : Ea) (t : TableReg) : M Unit := do
  let off ← effAddr ea
  let s ← get
  let sr := s.dataSeg (eaSeg ea)
  writeMem sr off 2 (t.limit.setWidth 32)
  writeMem sr (off + 2) 4 (if o = .o16 then t.base &&& 0x00FFFFFF else t.base)

/-- SGDT (R831). -/
def execSgdt (o : OSize) (ea : Ea) (s : State) : StepOut :=
  instr (do
    let s ← get
    writeTable o ea s.sys.gdtr) s

/-- SIDT (R831). -/
def execSidt (o : OSize) (ea : Ea) (s : State) : StepOut :=
  instr (do
    let s ← get
    writeTable o ea s.sys.idtr) s

/-- CR0 as a word: ET reads 1 and bits 30:5 read 0 (R100, D65). -/
def Cr0.image (c : Cr0) : Word :=
  BitVec.ofBool c.pg ++ 0#26 ++ 1#1 ++ BitVec.ofBool c.ts ++ BitVec.ofBool c.em ++ BitVec.ofBool c.mp
    ++ BitVec.ofBool c.pe

/-- Store a 16-bit system register in an r/m16 operand, whatever the operand size (R832 to R834). -/
def storeSys (rm : Rm) (v : M Half) : M Unit := do
  let p ← place rm
  let x ← v
  p.write .w x

/-- SMSW: the low word of CR0 (R833). -/
def execSmsw (_ : OSize) (rm : Rm) (s : State) : StepOut :=
  instr (storeSys rm (gets fun s => s.sys.cr0.image.setWidth 16)) s

/-- SLDT (R832). -/
def execSldt (_ : OSize) (rm : Rm) (s : State) : StepOut :=
  instr (do
    needProtected
    storeSys rm (gets fun s => s.sys.ldtr.sel)) s

/-- STR (R834). -/
def execStr (_ : OSize) (rm : Rm) (s : State) : StepOut :=
  instr (do
    needProtected
    storeSys rm (gets fun s => s.sys.tr.sel)) s

/-- The CPL latch after a write of CR0: protected mode begins with CPL 0 (R81). -/
def setCr0 (c : Cr0) : M Unit := modify fun s =>
  { s with
    sys := { s.sys with cr0 := c }
    cpl := if s.sys.cr0.pe && c.pe then s.cpl else 0 }

/-- LMSW: TS, EM and MP are loaded, and PE can be set but not cleared (R827, D52). -/
def execLmsw (rm : Rm) (s : State) : StepOut :=
  instr (do
    privileged
    let v ← readRm .w rm
    let s ← get
    let c := s.sys.cr0
    setCr0
      { c with
        pe := c.pe || v.getLsbD 0
        mp := v.getLsbD 1
        em := v.getLsbD 2
        ts := v.getLsbD 3 }) s

/-- LLDT: a null selector makes LDTR invalid (R826). -/
def execLldt (rm : Rm) (s : State) : StepOut :=
  instr (do
    needProtected
    privileged
    let sel ← readRm .w rm
    if selNull sel then
      modify fun s => { s with sys := { s.sys with ldtr := { s.sys.ldtr with sel := sel, valid := false } } }
    else do
      let e := Exc.gp (selCode sel false)
      require (!selTi sel) e
      let (_, d) ← fetchDesc sel e
      require (!d.dt && d.typ == 2) e
      require d.present (.np (selCode sel false))
      modify fun s =>
        { s with sys := { s.sys with ldtr := { sel := sel, base := d.base, limit := d.limit, valid := true } } }) s

/-- LTR: the TSS is marked busy and no task switch occurs (R829). -/
def execLtr (rm : Rm) (s : State) : StepOut :=
  instr (do
    needProtected
    privileged
    let sel ← readRm .w rm
    let e := Exc.gp (selCode sel false)
    require (!selNull sel && !selTi sel) e
    let (lin, d) ← fetchDesc sel e
    require d.availTss e
    require d.present (.np (selCode sel false))
    setBusy lin true
    modify fun s =>
      { s with sys := { s.sys with tr := { sel := sel, base := d.base, limit := d.limit, typ := d.typ } } }) s

/-- A special register with its reserved bits unspecified (U31, log entry 26). -/
def exposed (v reserved : Word) : M Word := do
  let x ← freeBits 32
  return (v &&& ~~~reserved) ||| (x &&& reserved)

/-- All six status flags are undefined after MOV to or from a special register (R830, U1). -/
def undefineStatus : M Unit := do
  let u ← freeStatus
  modify fun s => { s with flags := s.flags.undefined u }

/-- MOV r32,CR0/CR2/CR3 (R830). -/
def execMovR32Cr (r : Reg) (cr : CrReg) (s : State) : StepOut :=
  instr (do
    privileged
    let s ← get
    let v : Word :=
      match cr with
      | .cr0 => s.sys.cr0.image
      | .cr2 => s.sys.cr2
      | .cr3 => s.sys.cr3
    writeReg .d r v
    undefineStatus) s

/-- MOV CR0/CR2/CR3,r32: CR0 refuses PG without PE (D56); a load of CR3 flushes the TLB (R245). -/
def execMovCrR32 (cr : CrReg) (r : Reg) (s : State) : StepOut :=
  instr (do
    privileged
    let v ← readReg .d r
    match cr with
    | .cr0 => do
      require (!(v.getLsbD 31 && !v.getLsbD 0)) (.gp 0)
      setCr0
        { pe := v.getLsbD 0
          mp := v.getLsbD 1
          em := v.getLsbD 2
          ts := v.getLsbD 3
          pg := v.getLsbD 31 }
    | .cr2 => modify fun s => { s with sys := { s.sys with cr2 := v } }
    | .cr3 => modify fun s => flushTlb { s with sys := { s.sys with cr3 := v &&& 0xFFFFF000 } }
    undefineStatus) s

/-- A debug register. -/
def DebugRegs.get (d : DebugRegs) (r : DrReg) : Word :=
  match r with
  | .dr0 => d.dr0
  | .dr1 => d.dr1
  | .dr2 => d.dr2
  | .dr3 => d.dr3
  | .dr6 => d.dr6
  | .dr7 => d.dr7

/-- The debug registers with one replaced. -/
def DebugRegs.put (d : DebugRegs) (r : DrReg) (v : Word) : DebugRegs :=
  match r with
  | .dr0 => { d with dr0 := v }
  | .dr1 => { d with dr1 := v }
  | .dr2 => { d with dr2 := v }
  | .dr3 => { d with dr3 := v }
  | .dr6 => { d with dr6 := v }
  | .dr7 => { d with dr7 := v }

/-- The reserved bits of a debug register (R116, R117). -/
def drReserved (r : DrReg) : Word :=
  match r with
  | .dr0 => 0
  | .dr1 => 0
  | .dr2 => 0
  | .dr3 => 0
  | .dr6 => 0xFFFF1FF0
  | .dr7 => 0x0000FC00

/-- The DR6 bits of a general-detect fault: BD, and the breakpoint conditions that the instruction itself meets (R1010,
R1014). -/
def detectBits (s : State) : Word := 0x2000 ||| s.cur.fetchHits.setWidth 32

/-- MOV to or from a debug register: the general-detect fault comes before the move when in-circuit emulation uses the
registers (R1010, R830). -/
def movDebug (body : M Unit) (s : State) : StepOut :=
  if s.now.ice && s.curCpl == 0 && !s.cur.lock && s.cur.rep.isNone then
    let t := markPoint (setDr6 (detectBits s) s)
    deliverExc .db t t
  else instr body s

/-- MOV r32,DR0-3/DR6/DR7 (R830). -/
def execMovR32Dr (r : Reg) (dr : DrReg) (s : State) : StepOut :=
  movDebug (do
    privileged
    let s ← get
    let v ← exposed (s.dbg.get dr) (drReserved dr)
    writeReg .d r v
    undefineStatus) s

/-- MOV DR0-3/DR6/DR7,r32 (R830). -/
def execMovDrR32 (dr : DrReg) (r : Reg) (s : State) : StepOut :=
  movDebug (do
    privileged
    let v ← readReg .d r
    modify fun s => { s with dbg := s.dbg.put dr v }
    undefineStatus) s

/-- MOV r32,TR6/TR7 (R830). -/
def execMovR32Tr (r : Reg) (tr : TrReg) (s : State) : StepOut :=
  instr (do
    privileged
    let s ← get
    let v ←
      match tr with
      | .tr6 => exposed s.tlb.tr6 0x0000001E
      | .tr7 => exposed s.tlb.tr7 0xFF000FE3
    writeReg .d r v
    undefineStatus) s

/-- What an attribute pair (X, X#) of TR6 writes into a TLB entry: the pairs 00 and 11 are undefined (R248, U26). -/
def attrWrite (x xn : Bool) : M Bool := if x = xn then freeBit else pure x

/-- Whether an attribute of a TLB entry matches a pair (X, X#) of TR6 (R248). -/
def attrMatch (x xn bit : Bool) : Bool := if bit then x else xn

/-- The linear page of TR6 (R248). -/
def tr6Page (v : Word) : BitVec 20 := v.extractLsb' 12 20

/-- The TLB write command: TR6 holds a clear C bit (R248). With TR7.PL clear the block is unspecified. -/
def tlbWrite (v : Word) : M Unit := do
  let s ← get
  let block := if s.tlb.tr7.getLsbD 4 then s.tlb.tr7.extractLsb' 2 2 else Config.tlbPointer s.draws
  let dirty ← attrWrite (v.getLsbD 10) (v.getLsbD 9)
  let user ← attrWrite (v.getLsbD 8) (v.getLsbD 7)
  let writable ← attrWrite (v.getLsbD 6) (v.getLsbD 5)
  let e : TlbEntry :=
    { block := block
      set := Config.tlbSet (tr6Page v)
      page := tr6Page v
      valid := v.getLsbD 11
      dirty := dirty
      user := user
      writable := writable
      frame := s.tlb.tr7.extractLsb' 12 12 }
  modify fun s =>
    { s with
      tlb := { s.tlb with entries := tlbPut s.tlb.entries e }
      draws := s.draws + 1 }

/-- Whether a TLB entry matches the lookup command of TR6; V counts as another bit of the address (R248). -/
def tlbMatches (v : Word) (e : TlbEntry) : Bool :=
  e.page == tr6Page v && e.valid == v.getLsbD 11 && attrMatch (v.getLsbD 10) (v.getLsbD 9) e.dirty
    && attrMatch (v.getLsbD 8) (v.getLsbD 7) e.user && attrMatch (v.getLsbD 6) (v.getLsbD 5) e.writable

/-- Whether a lookup may meet an entry that was never written: one of the four blocks of the set is not listed, and its V
bit is not known to differ (R248, U26). -/
def tlbUnknown (t : Tlb) (v : Word) : Bool :=
  decide ((t.entries.filter fun e => e.set == Config.tlbSet (tr6Page v)).length < 4)
    && !(t.flushed && v.getLsbD 11)

/-- A pair (X, X#) as TR6 shows an attribute. -/
def attrPair (b : Bool) : BitVec 2 := BitVec.ofBool b ++ BitVec.ofBool (!b)

/-- The result of the TLB lookup command, TR6 holding a set C bit: the fields of the one entry that matches; a clear PL
and otherwise indeterminate fields on a miss; and anything where several entries match or an entry that was never
written may (R248, R249, U26). -/
def tlbRead (v : Word) : M Unit := do
  let _ ← nextChoice
  let s ← get
  let x ← freeBits 32
  match tlbUnknown s.tlb v, s.tlb.entries.filter (tlbMatches v) with
  | false, [] => modify fun s => { s with tlb := { s.tlb with tr7 := x &&& ~~~0x10#32 } }
  | false, [e] =>
    modify fun s =>
      { s with
        tlb :=
          { s.tlb with
            tr6 := v.extractLsb' 11 21 ++ attrPair e.dirty ++ attrPair e.user ++ attrPair e.writable ++ v.extractLsb' 0 5
            tr7 := x.extractLsb' 24 8 ++ e.frame ++ x.extractLsb' 5 7 ++ 1#1 ++ e.block ++ x.extractLsb' 0 2 } }
  | _, _ => do
    let y ← freeBits 6
    modify fun s =>
      { s with tlb := { s.tlb with tr6 := v.extractLsb' 11 21 ++ y ++ v.extractLsb' 0 5, tr7 := x } }

/-- MOV TR6/TR7,r32: a write of TR6 is a command to the TLB (R830, R248, R249). -/
def execMovTrR32 (tr : TrReg) (r : Reg) (s : State) : StepOut :=
  instr (do
    privileged
    let v ← readReg .d r
    match tr with
    | .tr6 => do
      modify fun s => { s with tlb := { s.tlb with tr6 := v } }
      if v.getLsbD 0 then tlbRead v else tlbWrite v
    | .tr7 => modify fun s => { s with tlb := { s.tlb with tr7 := v } }
    undefineStatus) s

end Sys2Proof.Machine
end

