-- ==== Sys2Proof/Machine/Dispatch.lean ====
section
/-! DEFINITION. The meaning of every instruction: one arm per constructor of Instr. -/

namespace Sys2Proof.Machine

/-- What an instruction does in a state in which its bytes have been read: EIP is past them and `cur` says what its
prefixes said. -/
def exec (i : Instr) (s : State) : Host.Outcome State Fault Refusal :=
  match i with
  | .add f => Sys2Proof.Machine.execAdd f s
  | .or f => Sys2Proof.Machine.execOr f s
  | .adc f => Sys2Proof.Machine.execAdc f s
  | .sbb f => Sys2Proof.Machine.execSbb f s
  | .and f => Sys2Proof.Machine.execAnd f s
  | .sub f => Sys2Proof.Machine.execSub f s
  | .xor f => Sys2Proof.Machine.execXor f s
  | .cmp f => Sys2Proof.Machine.execCmp f s
  | .rol f => Sys2Proof.Machine.execRol f s
  | .ror f => Sys2Proof.Machine.execRor f s
  | .rcl f => Sys2Proof.Machine.execRcl f s
  | .rcr f => Sys2Proof.Machine.execRcr f s
  | .shl f => Sys2Proof.Machine.execShl f s
  | .shr f => Sys2Proof.Machine.execShr f s
  | .sar f => Sys2Proof.Machine.execSar f s
  | .jo f => Sys2Proof.Machine.execJo f s
  | .jno f => Sys2Proof.Machine.execJno f s
  | .jb f => Sys2Proof.Machine.execJb f s
  | .jae f => Sys2Proof.Machine.execJae f s
  | .je f => Sys2Proof.Machine.execJe f s
  | .jne f => Sys2Proof.Machine.execJne f s
  | .jbe f => Sys2Proof.Machine.execJbe f s
  | .ja f => Sys2Proof.Machine.execJa f s
  | .js f => Sys2Proof.Machine.execJs f s
  | .jns f => Sys2Proof.Machine.execJns f s
  | .jp f => Sys2Proof.Machine.execJp f s
  | .jnp f => Sys2Proof.Machine.execJnp f s
  | .jl f => Sys2Proof.Machine.execJl f s
  | .jge f => Sys2Proof.Machine.execJge f s
  | .jle f => Sys2Proof.Machine.execJle f s
  | .jg f => Sys2Proof.Machine.execJg f s
  | .movRm8R8 rm r => Sys2Proof.Machine.execMovRm8R8 rm r s
  | .movRmvRv o rm r => Sys2Proof.Machine.execMovRmvRv o rm r s
  | .movR8Rm8 r rm => Sys2Proof.Machine.execMovR8Rm8 r rm s
  | .movRvRmv o r rm => Sys2Proof.Machine.execMovRvRmv o r rm s
  | .movRmvSreg o rm sr => Sys2Proof.Machine.execMovRmvSreg o rm sr s
  | .movSregRm16 sr rm => Sys2Proof.Machine.execMovSregRm16 sr rm s
  | .movAlMoffs8 p => Sys2Proof.Machine.execMovAlMoffs8 p s
  | .movAccMoffs o p => Sys2Proof.Machine.execMovAccMoffs o p s
  | .movMoffs8Al p => Sys2Proof.Machine.execMovMoffs8Al p s
  | .movMoffsAcc o p => Sys2Proof.Machine.execMovMoffsAcc o p s
  | .movR8Imm8 r n => Sys2Proof.Machine.execMovR8Imm8 r n s
  | .movR16Imm16 r n => Sys2Proof.Machine.execMovR16Imm16 r n s
  | .movR32Imm32 r n => Sys2Proof.Machine.execMovR32Imm32 r n s
  | .movRm8Imm8 rm n => Sys2Proof.Machine.execMovRm8Imm8 rm n s
  | .movRm16Imm16 rm n => Sys2Proof.Machine.execMovRm16Imm16 rm n s
  | .movRm32Imm32 rm n => Sys2Proof.Machine.execMovRm32Imm32 rm n s
  | .movR32Cr r cr => Sys2Proof.Machine.execMovR32Cr r cr s
  | .movR32Dr r dr => Sys2Proof.Machine.execMovR32Dr r dr s
  | .movCrR32 cr r => Sys2Proof.Machine.execMovCrR32 cr r s
  | .movDrR32 dr r => Sys2Proof.Machine.execMovDrR32 dr r s
  | .movR32Tr r tr => Sys2Proof.Machine.execMovR32Tr r tr s
  | .movTrR32 tr r => Sys2Proof.Machine.execMovTrR32 tr r s
  | .lea o r ea => Sys2Proof.Machine.execLea o r ea s
  | .lds o r ea => Sys2Proof.Machine.execLds o r ea s
  | .les o r ea => Sys2Proof.Machine.execLes o r ea s
  | .lss o r ea => Sys2Proof.Machine.execLss o r ea s
  | .lfs o r ea => Sys2Proof.Machine.execLfs o r ea s
  | .lgs o r ea => Sys2Proof.Machine.execLgs o r ea s
  | .movsxRvRm8 o r rm => Sys2Proof.Machine.execMovsxRvRm8 o r rm s
  | .movsxRvRm16 o r rm => Sys2Proof.Machine.execMovsxRvRm16 o r rm s
  | .movzxRvRm8 o r rm => Sys2Proof.Machine.execMovzxRvRm8 o r rm s
  | .movzxRvRm16 o r rm => Sys2Proof.Machine.execMovzxRvRm16 o r rm s
  | .xchgAxR16 r => Sys2Proof.Machine.execXchgAxR16 r s
  | .xchgEaxR32 r => Sys2Proof.Machine.execXchgEaxR32 r s
  | .xchgRm8R8 rm r => Sys2Proof.Machine.execXchgRm8R8 rm r s
  | .xchgRmvRv o rm r => Sys2Proof.Machine.execXchgRmvRv o rm r s
  | .popRmv o rm => Sys2Proof.Machine.execPopRmv o rm s
  | .popR16 r => Sys2Proof.Machine.execPopR16 r s
  | .popR32 r => Sys2Proof.Machine.execPopR32 r s
  | .popDs o => Sys2Proof.Machine.execPopDs o s
  | .popEs o => Sys2Proof.Machine.execPopEs o s
  | .popSs o => Sys2Proof.Machine.execPopSs o s
  | .popFs o => Sys2Proof.Machine.execPopFs o s
  | .popGs o => Sys2Proof.Machine.execPopGs o s
  | .pushRmv o rm => Sys2Proof.Machine.execPushRmv o rm s
  | .pushR16 r => Sys2Proof.Machine.execPushR16 r s
  | .pushR32 r => Sys2Proof.Machine.execPushR32 r s
  | .pushImm8 o n => Sys2Proof.Machine.execPushImm8 o n s
  | .pushImm16 n => Sys2Proof.Machine.execPushImm16 n s
  | .pushImm32 n => Sys2Proof.Machine.execPushImm32 n s
  | .pushCs o => Sys2Proof.Machine.execPushCs o s
  | .pushSs o => Sys2Proof.Machine.execPushSs o s
  | .pushDs o => Sys2Proof.Machine.execPushDs o s
  | .pushEs o => Sys2Proof.Machine.execPushEs o s
  | .pushFs o => Sys2Proof.Machine.execPushFs o s
  | .pushGs o => Sys2Proof.Machine.execPushGs o s
  | .xlat a => Sys2Proof.Machine.execXlat a s
  | .incRm8 rm => Sys2Proof.Machine.execIncRm8 rm s
  | .incRmv o rm => Sys2Proof.Machine.execIncRmv o rm s
  | .incR16 r => Sys2Proof.Machine.execIncR16 r s
  | .incR32 r => Sys2Proof.Machine.execIncR32 r s
  | .decRm8 rm => Sys2Proof.Machine.execDecRm8 rm s
  | .decRmv o rm => Sys2Proof.Machine.execDecRmv o rm s
  | .decR16 r => Sys2Proof.Machine.execDecR16 r s
  | .decR32 r => Sys2Proof.Machine.execDecR32 r s
  | .testRm8Imm8 rm n => Sys2Proof.Machine.execTestRm8Imm8 rm n s
  | .testRm16Imm16 rm n => Sys2Proof.Machine.execTestRm16Imm16 rm n s
  | .testRm32Imm32 rm n => Sys2Proof.Machine.execTestRm32Imm32 rm n s
  | .testAlImm8 n => Sys2Proof.Machine.execTestAlImm8 n s
  | .testAxImm16 n => Sys2Proof.Machine.execTestAxImm16 n s
  | .testEaxImm32 n => Sys2Proof.Machine.execTestEaxImm32 n s
  | .testRm8R8 rm r => Sys2Proof.Machine.execTestRm8R8 rm r s
  | .testRmvRv o rm r => Sys2Proof.Machine.execTestRmvRv o rm r s
  | .notRm8 rm => Sys2Proof.Machine.execNotRm8 rm s
  | .notRmv o rm => Sys2Proof.Machine.execNotRmv o rm s
  | .negRm8 rm => Sys2Proof.Machine.execNegRm8 rm s
  | .negRmv o rm => Sys2Proof.Machine.execNegRmv o rm s
  | .mulRm8 rm => Sys2Proof.Machine.execMulRm8 rm s
  | .mulRmv o rm => Sys2Proof.Machine.execMulRmv o rm s
  | .imulRm8 rm => Sys2Proof.Machine.execImulRm8 rm s
  | .imulRmv o rm => Sys2Proof.Machine.execImulRmv o rm s
  | .divRm8 rm => Sys2Proof.Machine.execDivRm8 rm s
  | .divRmv o rm => Sys2Proof.Machine.execDivRmv o rm s
  | .idivRm8 rm => Sys2Proof.Machine.execIdivRm8 rm s
  | .idivRmv o rm => Sys2Proof.Machine.execIdivRmv o rm s
  | .imulRvRmv o r rm => Sys2Proof.Machine.execImulRvRmv o r rm s
  | .imulRvRmvImm8 o r rm n => Sys2Proof.Machine.execImulRvRmvImm8 o r rm n s
  | .imulR16Rm16Imm16 r rm n => Sys2Proof.Machine.execImulR16Rm16Imm16 r rm n s
  | .imulR32Rm32Imm32 r rm n => Sys2Proof.Machine.execImulR32Rm32Imm32 r rm n s
  | .bsf o r rm => Sys2Proof.Machine.execBsf o r rm s
  | .bsr o r rm => Sys2Proof.Machine.execBsr o r rm s
  | .btRmvRv o rm r => Sys2Proof.Machine.execBtRmvRv o rm r s
  | .btRmvImm8 o rm n => Sys2Proof.Machine.execBtRmvImm8 o rm n s
  | .btsRmvRv o rm r => Sys2Proof.Machine.execBtsRmvRv o rm r s
  | .btsRmvImm8 o rm n => Sys2Proof.Machine.execBtsRmvImm8 o rm n s
  | .btrRmvRv o rm r => Sys2Proof.Machine.execBtrRmvRv o rm r s
  | .btrRmvImm8 o rm n => Sys2Proof.Machine.execBtrRmvImm8 o rm n s
  | .btcRmvRv o rm r => Sys2Proof.Machine.execBtcRmvRv o rm r s
  | .btcRmvImm8 o rm n => Sys2Proof.Machine.execBtcRmvImm8 o rm n s
  | .seto rm => Sys2Proof.Machine.execSeto rm s
  | .setno rm => Sys2Proof.Machine.execSetno rm s
  | .setb rm => Sys2Proof.Machine.execSetb rm s
  | .setae rm => Sys2Proof.Machine.execSetae rm s
  | .sete rm => Sys2Proof.Machine.execSete rm s
  | .setne rm => Sys2Proof.Machine.execSetne rm s
  | .setbe rm => Sys2Proof.Machine.execSetbe rm s
  | .seta rm => Sys2Proof.Machine.execSeta rm s
  | .sets rm => Sys2Proof.Machine.execSets rm s
  | .setns rm => Sys2Proof.Machine.execSetns rm s
  | .setp rm => Sys2Proof.Machine.execSetp rm s
  | .setnp rm => Sys2Proof.Machine.execSetnp rm s
  | .setl rm => Sys2Proof.Machine.execSetl rm s
  | .setge rm => Sys2Proof.Machine.execSetge rm s
  | .setle rm => Sys2Proof.Machine.execSetle rm s
  | .setg rm => Sys2Proof.Machine.execSetg rm s
  | .shldRmvRvImm8 o rm r n => Sys2Proof.Machine.execShldRmvRvImm8 o rm r n s
  | .shldRmvRvCl o rm r => Sys2Proof.Machine.execShldRmvRvCl o rm r s
  | .shrdRmvRvImm8 o rm r n => Sys2Proof.Machine.execShrdRmvRvImm8 o rm r n s
  | .shrdRmvRvCl o rm r => Sys2Proof.Machine.execShrdRmvRvCl o rm r s
  | .bound o r ea => Sys2Proof.Machine.execBound o r ea s
  | .callRel16 d => Sys2Proof.Machine.execCallRel16 d s
  | .callRel32 d => Sys2Proof.Machine.execCallRel32 d s
  | .callRmv o rm => Sys2Proof.Machine.execCallRmv o rm s
  | .callPtr16 sel off => Sys2Proof.Machine.execCallPtr16 sel off s
  | .callPtr32 sel off => Sys2Proof.Machine.execCallPtr32 sel off s
  | .callFarM o ea => Sys2Proof.Machine.execCallFarM o ea s
  | .intImm8 n => Sys2Proof.Machine.execIntImm8 n s
  | .jcxz o d => Sys2Proof.Machine.execJcxz o d s
  | .jecxz o d => Sys2Proof.Machine.execJecxz o d s
  | .jmpRel8 o d => Sys2Proof.Machine.execJmpRel8 o d s
  | .jmpRel16 d => Sys2Proof.Machine.execJmpRel16 d s
  | .jmpRel32 d => Sys2Proof.Machine.execJmpRel32 d s
  | .jmpRmv o rm => Sys2Proof.Machine.execJmpRmv o rm s
  | .jmpPtr16 sel off => Sys2Proof.Machine.execJmpPtr16 sel off s
  | .jmpPtr32 sel off => Sys2Proof.Machine.execJmpPtr32 sel off s
  | .jmpFarM o ea => Sys2Proof.Machine.execJmpFarM o ea s
  | .loop o a d => Sys2Proof.Machine.execLoop o a d s
  | .loope o a d => Sys2Proof.Machine.execLoope o a d s
  | .loopne o a d => Sys2Proof.Machine.execLoopne o a d s
  | .retNear o => Sys2Proof.Machine.execRetNear o s
  | .retNearImm16 o n => Sys2Proof.Machine.execRetNearImm16 o n s
  | .retFar o => Sys2Proof.Machine.execRetFar o s
  | .retFarImm16 o n => Sys2Proof.Machine.execRetFarImm16 o n s
  | .movsb a => Sys2Proof.Machine.execMovsb a s
  | .movsw a => Sys2Proof.Machine.execMovsw a s
  | .movsd a => Sys2Proof.Machine.execMovsd a s
  | .cmpsb a => Sys2Proof.Machine.execCmpsb a s
  | .cmpsw a => Sys2Proof.Machine.execCmpsw a s
  | .cmpsd a => Sys2Proof.Machine.execCmpsd a s
  | .stosb a => Sys2Proof.Machine.execStosb a s
  | .stosw a => Sys2Proof.Machine.execStosw a s
  | .stosd a => Sys2Proof.Machine.execStosd a s
  | .lodsb a => Sys2Proof.Machine.execLodsb a s
  | .lodsw a => Sys2Proof.Machine.execLodsw a s
  | .lodsd a => Sys2Proof.Machine.execLodsd a s
  | .scasb a => Sys2Proof.Machine.execScasb a s
  | .scasw a => Sys2Proof.Machine.execScasw a s
  | .scasd a => Sys2Proof.Machine.execScasd a s
  | .insb a => Sys2Proof.Machine.execInsb a s
  | .insw a => Sys2Proof.Machine.execInsw a s
  | .insd a => Sys2Proof.Machine.execInsd a s
  | .outsb a => Sys2Proof.Machine.execOutsb a s
  | .outsw a => Sys2Proof.Machine.execOutsw a s
  | .outsd a => Sys2Proof.Machine.execOutsd a s
  | .inAlImm8 n => Sys2Proof.Machine.execInAlImm8 n s
  | .inAccImm8 o n => Sys2Proof.Machine.execInAccImm8 o n s
  | .inAccDx o => Sys2Proof.Machine.execInAccDx o s
  | .outImm8Al n => Sys2Proof.Machine.execOutImm8Al n s
  | .outImm8Acc o n => Sys2Proof.Machine.execOutImm8Acc o n s
  | .outDxAcc o => Sys2Proof.Machine.execOutDxAcc o s
  | .leave o => Sys2Proof.Machine.execLeave o s
  | .enter o n lvl => Sys2Proof.Machine.execEnter o n lvl s
  | .escD8 op rm => Sys2Proof.Machine.execEscD8 op rm s
  | .escD9 op rm => Sys2Proof.Machine.execEscD9 op rm s
  | .escDA op rm => Sys2Proof.Machine.execEscDA op rm s
  | .escDB op rm => Sys2Proof.Machine.execEscDB op rm s
  | .escDC op rm => Sys2Proof.Machine.execEscDC op rm s
  | .escDD op rm => Sys2Proof.Machine.execEscDD op rm s
  | .escDE op rm => Sys2Proof.Machine.execEscDE op rm s
  | .escDF op rm => Sys2Proof.Machine.execEscDF op rm s
  | .arpl rm r => Sys2Proof.Machine.execArpl rm r s
  | .lar o r rm => Sys2Proof.Machine.execLar o r rm s
  | .lsl o r rm => Sys2Proof.Machine.execLsl o r rm s
  | .sgdt o ea => Sys2Proof.Machine.execSgdt o ea s
  | .sidt o ea => Sys2Proof.Machine.execSidt o ea s
  | .lgdt o ea => Sys2Proof.Machine.execLgdt o ea s
  | .lidt o ea => Sys2Proof.Machine.execLidt o ea s
  | .smsw o rm => Sys2Proof.Machine.execSmsw o rm s
  | .lmsw rm => Sys2Proof.Machine.execLmsw rm s
  | .sldt o rm => Sys2Proof.Machine.execSldt o rm s
  | .str o rm => Sys2Proof.Machine.execStr o rm s
  | .lldt rm => Sys2Proof.Machine.execLldt rm s
  | .ltr rm => Sys2Proof.Machine.execLtr rm s
  | .verr rm => Sys2Proof.Machine.execVerr rm s
  | .verw rm => Sys2Proof.Machine.execVerw rm s
  | .reservedF6 rm => Sys2Proof.Machine.execReservedF6 rm s
  | .reservedF7 rm => Sys2Proof.Machine.execReservedF7 rm s
  | .reservedC0 rm => Sys2Proof.Machine.execReservedC0 rm s
  | .reservedC1 rm => Sys2Proof.Machine.execReservedC1 rm s
  | .reservedD0 rm => Sys2Proof.Machine.execReservedD0 rm s
  | .reservedD1 rm => Sys2Proof.Machine.execReservedD1 rm s
  | .reservedD2 rm => Sys2Proof.Machine.execReservedD2 rm s
  | .reservedD3 rm => Sys2Proof.Machine.execReservedD3 rm s
  | .reserved82 => Sys2Proof.Machine.execReserved82 s
  | .reservedD6 => Sys2Proof.Machine.execReservedD6 s
  | .reservedF1 => Sys2Proof.Machine.execReservedF1 s
  | .reserved0F07 => Sys2Proof.Machine.execReserved0F07 s
  | .reserved0F10 => Sys2Proof.Machine.execReserved0F10 s
  | .reserved0F11 => Sys2Proof.Machine.execReserved0F11 s
  | .reserved0F12 => Sys2Proof.Machine.execReserved0F12 s
  | .reserved0F13 => Sys2Proof.Machine.execReserved0F13 s
  | .cbw => Sys2Proof.Machine.execCbw s
  | .cwde => Sys2Proof.Machine.execCwde s
  | .cwd => Sys2Proof.Machine.execCwd s
  | .cdq => Sys2Proof.Machine.execCdq s
  | .popa => Sys2Proof.Machine.execPopa s
  | .popad => Sys2Proof.Machine.execPopad s
  | .pusha => Sys2Proof.Machine.execPusha s
  | .pushad => Sys2Proof.Machine.execPushad s
  | .aaa => Sys2Proof.Machine.execAaa s
  | .aad => Sys2Proof.Machine.execAad s
  | .aam => Sys2Proof.Machine.execAam s
  | .aas => Sys2Proof.Machine.execAas s
  | .daa => Sys2Proof.Machine.execDaa s
  | .das => Sys2Proof.Machine.execDas s
  | .inAlDx => Sys2Proof.Machine.execInAlDx s
  | .outDxAl => Sys2Proof.Machine.execOutDxAl s
  | .int3 => Sys2Proof.Machine.execInt3 s
  | .into => Sys2Proof.Machine.execInto s
  | .iret => Sys2Proof.Machine.execIret s
  | .iretd => Sys2Proof.Machine.execIretd s
  | .clc => Sys2Proof.Machine.execClc s
  | .cld => Sys2Proof.Machine.execCld s
  | .cli => Sys2Proof.Machine.execCli s
  | .cmc => Sys2Proof.Machine.execCmc s
  | .lahf => Sys2Proof.Machine.execLahf s
  | .sahf => Sys2Proof.Machine.execSahf s
  | .stc => Sys2Proof.Machine.execStc s
  | .std => Sys2Proof.Machine.execStd s
  | .sti => Sys2Proof.Machine.execSti s
  | .nop => Sys2Proof.Machine.execNop s
  | .wait => Sys2Proof.Machine.execWait s
  | .hlt => Sys2Proof.Machine.execHlt s
  | .popf => Sys2Proof.Machine.execPopf s
  | .popfd => Sys2Proof.Machine.execPopfd s
  | .pushf => Sys2Proof.Machine.execPushf s
  | .pushfd => Sys2Proof.Machine.execPushfd s
  | .clts => Sys2Proof.Machine.execClts s
  | .lock => Sys2Proof.Machine.execLock s
  | .repne => Sys2Proof.Machine.execRepne s
  | .rep => Sys2Proof.Machine.execRep s
  | .segEs => Sys2Proof.Machine.execSegEs s
  | .segCs => Sys2Proof.Machine.execSegCs s
  | .segSs => Sys2Proof.Machine.execSegSs s
  | .segDs => Sys2Proof.Machine.execSegDs s
  | .segFs => Sys2Proof.Machine.execSegFs s
  | .segGs => Sys2Proof.Machine.execSegGs s
  | .opsize => Sys2Proof.Machine.execOpsize s
  | .adsize => Sys2Proof.Machine.execAdsize s

end Sys2Proof.Machine
end

