-- ==== Sys2Proof/Decode.lean ====
section
/-! DEFINITION. Decoding, and after it encoding (spec/30_encoding.md): the bytes of one instruction, prefixes taken
off, under an operand size and an address size. A prefix byte decodes to its own constructor. -/

namespace Sys2Proof

/-- Why a byte string is no instruction. All but `truncated`, `aamAadBase` and `specialMod` are causes of #UD (R350). -/
inductive DecErr where
  /-- The bytes end before the instruction does. -/
  | truncated
  /-- An opcode or opcode extension that the maps leave out (R350 a, b). -/
  | undefinedOpcode
  /-- mod = 11 on an operand that may refer only to memory (R350 c). -/
  | registerOperand
  /-- Segment register 6 or 7, or CS as the destination of MOV (R350 d). -/
  | badSegment
  /-- A control, debug or test register number that the eee table leaves out (R350 d). -/
  | badSpecial
  /-- A move to or from a control, debug or test register whose mod field is not 11 (R310, R352, D54). -/
  | specialMod
  /-- AAM or AAD with a second byte other than 0AH (R352). -/
  | aamAadBase
  deriving DecidableEq, Repr

/-- A reader of instruction bytes: it takes bytes off the front of the list or rejects by name. -/
abbrev Dec := StateT (List Byte) (Except DecErr)

/-- The next byte. -/
def byte : Dec Byte := fun bs =>
  match bs with
  | [] => .error .truncated
  | b :: rest => .ok (b, rest)

/-- The next two bytes, low byte first (R320). -/
def half : Dec Half := fun bs =>
  match bs with
  | b0 :: b1 :: rest => .ok (b1 ++ b0, rest)
  | _ => .error .truncated

/-- The next four bytes, low byte first (R320). -/
def word : Dec Word := fun bs =>
  match bs with
  | b0 :: b1 :: b2 :: b3 :: rest => .ok (b3 ++ b2 ++ b1 ++ b0, rest)
  | _ => .error .truncated

/-- The general register with a number (R311). -/
def regOf (n : BitVec 3) : Reg :=
  match n with
  | 0#3 => .eax
  | 1#3 => .ecx
  | 2#3 => .edx
  | 3#3 => .ebx
  | 4#3 => .esp
  | 5#3 => .ebp
  | 6#3 => .esi
  | 7#3 => .edi

/-- The base of a 16-bit effective address by its r/m field (R312). -/
def base16Of (n : BitVec 3) : Base16 :=
  match n with
  | 0#3 => .bxSi
  | 1#3 => .bxDi
  | 2#3 => .bpSi
  | 3#3 => .bpDi
  | 4#3 => .si
  | 5#3 => .di
  | 6#3 => .bp
  | 7#3 => .bx

/-- The memory operand of a 16-bit ModR/M byte (R312). -/
def ea16 (md rm : BitVec 3) : Dec Ea :=
  match md with
  | 0#3 => if rm = 6#3 then .abs16 <$> half else pure (.m16 (base16Of rm) .none)
  | 1#3 => (fun d => .m16 (base16Of rm) (.d8 d)) <$> byte
  | _ => (fun d => .m16 (base16Of rm) (.d16 d)) <$> half

/-- The memory operand behind a SIB byte (R315). -/
def eaSib (md : BitVec 3) : Dec Ea := do
  let s ← byte
  let ss := s.extractLsb' 6 2
  let x := regOf (s.extractLsb' 3 3)
  let b := s.extractLsb' 0 3
  match md with
  | 0#3 => if b = 5#3 then .sibAbs ss x <$> word else pure (.sib ss x (regOf b) .none)
  | 1#3 => (fun d => .sib ss x (regOf b) (.d8 d)) <$> byte
  | _ => (fun d => .sib ss x (regOf b) (.d32 d)) <$> word

/-- The memory operand of a 32-bit ModR/M byte (R314). -/
def ea32 (md rm : BitVec 3) : Dec Ea :=
  if rm = 4#3 then eaSib md
  else
    match md with
    | 0#3 => if rm = 5#3 then .abs32 <$> word else pure (.m32 (regOf rm) .none)
    | 1#3 => (fun d => .m32 (regOf rm) (.d8 d)) <$> byte
    | _ => (fun d => .m32 (regOf rm) (.d32 d)) <$> word

/-- A ModR/M byte read: its reg field and the operand that mod and r/m name (R310). -/
structure ModRm where
  digit : BitVec 3
  rm : Rm

/-- The reg field as a general register (R311). -/
def ModRm.reg (m : ModRm) : Reg := regOf m.digit

/-- The ModR/M byte with the SIB byte and displacement it asks for (R310). -/
def modRm (a : ASize) : Dec ModRm := do
  let b ← byte
  let md := b.extractLsb' 6 2
  let low := b.extractLsb' 0 3
  let rm ←
    if md = 3#2 then pure (.reg (regOf low))
    else
      .mem <$>
        match a with
        | .a16 => ea16 (md.setWidth 3) low
        | .a32 => ea32 (md.setWidth 3) low
  return ⟨b.extractLsb' 3 3, rm⟩

/-- An operand that may refer only to memory (R310): a register there is an invalid operand. -/
def memOnly (rm : Rm) : Dec Ea :=
  match rm with
  | .mem ea => pure ea
  | .reg _ => throw .registerOperand

/-- `/r` with the r/m operand first. -/
def rmReg (a : ASize) (k : Rm → Reg → Instr) : Dec Instr := do
  let m ← modRm a
  return k m.rm m.reg

/-- `/r` with the register operand first. -/
def regRm (a : ASize) (k : Reg → Rm → Instr) : Dec Instr := do
  let m ← modRm a
  return k m.reg m.rm

/-- `/r` with a memory-only r/m operand. -/
def memReg (a : ASize) (k : Reg → Ea → Instr) : Dec Instr := do
  let m ← modRm a
  return k m.reg (← memOnly m.rm)

/-- An r/m operand whose reg field has no meaning (SETcc, D62). -/
def rmOnly (a : ASize) (k : Rm → Instr) : Dec Instr := do
  let m ← modRm a
  return k m.rm

/-- The reg and r/m fields of a move to or from a special register; the mod field must be 11 (R310, D54). -/
def special : Dec (BitVec 3 × Reg) := do
  let b ← byte
  if b.extractLsb' 6 2 = 3#2 then return (b.extractLsb' 3 3, regOf (b.extractLsb' 0 3)) else throw .specialMod

/-- A segment register in the sreg3 field (R311, D57). -/
def sregField (n : BitVec 3) : Dec SReg :=
  match n with
  | 0#3 => pure .es
  | 1#3 => pure .cs
  | 2#3 => pure .ss
  | 3#3 => pure .ds
  | 4#3 => pure .fs
  | 5#3 => pure .gs
  | _ => throw .badSegment

/-- A segment register that MOV can load: CS is not one (D57). -/
def loadableSreg (n : BitVec 3) : Dec SReg :=
  if n = 1#3 then throw .badSegment else sregField n

/-- A control register number (R311, D55). -/
def crField (n : BitVec 3) : Dec CrReg :=
  match n with
  | 0#3 => pure .cr0
  | 2#3 => pure .cr2
  | 3#3 => pure .cr3
  | _ => throw .badSpecial

/-- A debug register number (R311, D55). -/
def drField (n : BitVec 3) : Dec DrReg :=
  match n with
  | 0#3 => pure .dr0
  | 1#3 => pure .dr1
  | 2#3 => pure .dr2
  | 3#3 => pure .dr3
  | 6#3 => pure .dr6
  | 7#3 => pure .dr7
  | _ => throw .badSpecial

/-- A test register number (R311, D55). -/
def trField (n : BitVec 3) : Dec TrReg :=
  match n with
  | 6#3 => pure .tr6
  | 7#3 => pure .tr7
  | _ => throw .badSpecial

/-- The row of two that the operand size selects. -/
def byOSize {α : Type} (o : OSize) (x y : α) : α :=
  match o with
  | .o16 => x
  | .o32 => y

/-- The row of two that the address size selects. -/
def byASize {α : Type} (a : ASize) (x y : α) : α :=
  match a with
  | .a16 => x
  | .a32 => y

/-- An `iw` or an `id` by the operand size (R320). -/
def byImm (o : OSize) (k : BitVec 16 → Instr) (k' : BitVec 32 → Instr) : Dec Instr :=
  match o with
  | .o16 => k <$> half
  | .o32 => k' <$> word

/-- A moffs: an offset of the address size (R320). -/
def moffs (a : ASize) : Dec Moffs :=
  match a with
  | .a16 => .p16 <$> half
  | .a32 => .p32 <$> word

/-- A direct far pointer: the offset, then the selector (R320). -/
def farPtr (o : OSize) (k : BitVec 16 → BitVec 16 → Instr) (k' : BitVec 16 → BitVec 32 → Instr) : Dec Instr :=
  match o with
  | .o16 => do
    let off ← half
    return k (← half) off
  | .o32 => do
    let off ← word
    return k' (← half) off

/-- `69 /r iv`. -/
def imulImm (o : OSize) (a : ASize) : Dec Instr := do
  let m ← modRm a
  byImm o (.imulR16Rm16Imm16 m.reg m.rm) (.imulR32Rm32Imm32 m.reg m.rm)

/-- AAM and AAD: the second byte is 0AH (R352, D21). -/
def base10 (i : Instr) : Dec Instr := do
  let b ← byte
  if b = 0x0A#8 then return i else throw .aamAadBase

/-- One row of six opcodes of an arithmetic or logical instruction, by its low three bits (R340). -/
def aluRow (k : AluForm → Instr) (low : BitVec 3) (o : OSize) (a : ASize) : Dec Instr :=
  match low with
  | 0#3 => rmReg a fun rm r => k (.rm8R8 rm r)
  | 1#3 => rmReg a fun rm r => k (.rmvRv o rm r)
  | 2#3 => regRm a fun r rm => k (.r8Rm8 r rm)
  | 3#3 => regRm a fun r rm => k (.rvRmv o r rm)
  | 4#3 => (fun i => k (.alImm8 i)) <$> byte
  | _ => byImm o (fun i => k (.axImm16 i)) (fun i => k (.eaxImm32 i))

/-- The digits of Group 1 (R340). -/
def aluDigit (n : BitVec 3) (f : AluForm) : Instr :=
  match n with
  | 0#3 => .add f
  | 1#3 => .or f
  | 2#3 => .adc f
  | 3#3 => .sbb f
  | 4#3 => .and f
  | 5#3 => .sub f
  | 6#3 => .xor f
  | 7#3 => .cmp f

/-- The digits of Group 2 other than the reserved /6 (R340). -/
def shiftDigit (n : BitVec 3) (f : ShiftForm) : Instr :=
  match n with
  | 0#3 => .rol f
  | 1#3 => .ror f
  | 2#3 => .rcl f
  | 3#3 => .rcr f
  | 4#3 => .shl f
  | 5#3 => .shr f
  | _ => .sar f

/-- The two-byte opcodes, after the byte 0FH (R341). -/
def twoByte (o : OSize) (a : ASize) : Dec Instr := do
  match (← byte) with
  | 0x00#8 => do
    let m ← modRm a
    match m.digit with
    | 0#3 => return .sldt o m.rm
    | 1#3 => return .str o m.rm
    | 2#3 => return .lldt m.rm
    | 3#3 => return .ltr m.rm
    | 4#3 => return .verr m.rm
    | 5#3 => return .verw m.rm
    | _ => throw .undefinedOpcode
  | 0x01#8 => do
    let m ← modRm a
    match m.digit with
    | 0#3 => return .sgdt o (← memOnly m.rm)
    | 1#3 => return .sidt o (← memOnly m.rm)
    | 2#3 => return .lgdt o (← memOnly m.rm)
    | 3#3 => return .lidt o (← memOnly m.rm)
    | 4#3 => return .smsw o m.rm
    | 6#3 => return .lmsw m.rm
    | _ => throw .undefinedOpcode
  | 0x02#8 => regRm a (.lar o)
  | 0x03#8 => regRm a (.lsl o)
  | 0x06#8 => pure .clts
  | 0x07#8 => pure .reserved0F07
  | 0x10#8 => pure .reserved0F10
  | 0x11#8 => pure .reserved0F11
  | 0x12#8 => pure .reserved0F12
  | 0x13#8 => pure .reserved0F13
  | 0x20#8 => do
    let m ← special
    return .movR32Cr m.2 (← crField m.1)
  | 0x21#8 => do
    let m ← special
    return .movR32Dr m.2 (← drField m.1)
  | 0x22#8 => do
    let m ← special
    return .movCrR32 (← crField m.1) m.2
  | 0x23#8 => do
    let m ← special
    return .movDrR32 (← drField m.1) m.2
  | 0x24#8 => do
    let m ← special
    return .movR32Tr m.2 (← trField m.1)
  | 0x26#8 => do
    let m ← special
    return .movTrR32 (← trField m.1) m.2
  | 0x80#8 => byImm o (fun d => .jo (.rel16 d)) (fun d => .jo (.rel32 d))
  | 0x81#8 => byImm o (fun d => .jno (.rel16 d)) (fun d => .jno (.rel32 d))
  | 0x82#8 => byImm o (fun d => .jb (.rel16 d)) (fun d => .jb (.rel32 d))
  | 0x83#8 => byImm o (fun d => .jae (.rel16 d)) (fun d => .jae (.rel32 d))
  | 0x84#8 => byImm o (fun d => .je (.rel16 d)) (fun d => .je (.rel32 d))
  | 0x85#8 => byImm o (fun d => .jne (.rel16 d)) (fun d => .jne (.rel32 d))
  | 0x86#8 => byImm o (fun d => .jbe (.rel16 d)) (fun d => .jbe (.rel32 d))
  | 0x87#8 => byImm o (fun d => .ja (.rel16 d)) (fun d => .ja (.rel32 d))
  | 0x88#8 => byImm o (fun d => .js (.rel16 d)) (fun d => .js (.rel32 d))
  | 0x89#8 => byImm o (fun d => .jns (.rel16 d)) (fun d => .jns (.rel32 d))
  | 0x8A#8 => byImm o (fun d => .jp (.rel16 d)) (fun d => .jp (.rel32 d))
  | 0x8B#8 => byImm o (fun d => .jnp (.rel16 d)) (fun d => .jnp (.rel32 d))
  | 0x8C#8 => byImm o (fun d => .jl (.rel16 d)) (fun d => .jl (.rel32 d))
  | 0x8D#8 => byImm o (fun d => .jge (.rel16 d)) (fun d => .jge (.rel32 d))
  | 0x8E#8 => byImm o (fun d => .jle (.rel16 d)) (fun d => .jle (.rel32 d))
  | 0x8F#8 => byImm o (fun d => .jg (.rel16 d)) (fun d => .jg (.rel32 d))
  | 0x90#8 => rmOnly a .seto
  | 0x91#8 => rmOnly a .setno
  | 0x92#8 => rmOnly a .setb
  | 0x93#8 => rmOnly a .setae
  | 0x94#8 => rmOnly a .sete
  | 0x95#8 => rmOnly a .setne
  | 0x96#8 => rmOnly a .setbe
  | 0x97#8 => rmOnly a .seta
  | 0x98#8 => rmOnly a .sets
  | 0x99#8 => rmOnly a .setns
  | 0x9A#8 => rmOnly a .setp
  | 0x9B#8 => rmOnly a .setnp
  | 0x9C#8 => rmOnly a .setl
  | 0x9D#8 => rmOnly a .setge
  | 0x9E#8 => rmOnly a .setle
  | 0x9F#8 => rmOnly a .setg
  | 0xA0#8 => pure (.pushFs o)
  | 0xA1#8 => pure (.popFs o)
  | 0xA3#8 => rmReg a (.btRmvRv o)
  | 0xA4#8 => do
    let m ← modRm a
    return .shldRmvRvImm8 o m.rm m.reg (← byte)
  | 0xA5#8 => rmReg a (.shldRmvRvCl o)
  | 0xA8#8 => pure (.pushGs o)
  | 0xA9#8 => pure (.popGs o)
  | 0xAB#8 => rmReg a (.btsRmvRv o)
  | 0xAC#8 => do
    let m ← modRm a
    return .shrdRmvRvImm8 o m.rm m.reg (← byte)
  | 0xAD#8 => rmReg a (.shrdRmvRvCl o)
  | 0xAF#8 => regRm a (.imulRvRmv o)
  | 0xB2#8 => memReg a (.lss o)
  | 0xB3#8 => rmReg a (.btrRmvRv o)
  | 0xB4#8 => memReg a (.lfs o)
  | 0xB5#8 => memReg a (.lgs o)
  | 0xB6#8 => regRm a (.movzxRvRm8 o)
  | 0xB7#8 => regRm a (.movzxRvRm16 o)
  | 0xBA#8 => do
    let m ← modRm a
    match m.digit with
    | 4#3 => return .btRmvImm8 o m.rm (← byte)
    | 5#3 => return .btsRmvImm8 o m.rm (← byte)
    | 6#3 => return .btrRmvImm8 o m.rm (← byte)
    | 7#3 => return .btcRmvImm8 o m.rm (← byte)
    | _ => throw .undefinedOpcode
  | 0xBB#8 => rmReg a (.btcRmvRv o)
  | 0xBC#8 => regRm a (.bsf o)
  | 0xBD#8 => regRm a (.bsr o)
  | 0xBE#8 => regRm a (.movsxRvRm8 o)
  | 0xBF#8 => regRm a (.movsxRvRm16 o)
  | _ => throw .undefinedOpcode

/-- The one-byte opcode map (R340). An encoding that its digit or its Sreg number makes invalid is rejected when the whole
operand of its ModR/M byte has been read, SIB byte and displacement too, but no immediate operand (R350, log entry 70,
DESIGN CHOICE). -/
def oneByte (o : OSize) (a : ASize) : Dec Instr := do
  match (← byte) with
  | 0x00#8 => aluRow .add 0 o a
  | 0x01#8 => aluRow .add 1 o a
  | 0x02#8 => aluRow .add 2 o a
  | 0x03#8 => aluRow .add 3 o a
  | 0x04#8 => aluRow .add 4 o a
  | 0x05#8 => aluRow .add 5 o a
  | 0x06#8 => pure (.pushEs o)
  | 0x07#8 => pure (.popEs o)
  | 0x08#8 => aluRow .or 0 o a
  | 0x09#8 => aluRow .or 1 o a
  | 0x0A#8 => aluRow .or 2 o a
  | 0x0B#8 => aluRow .or 3 o a
  | 0x0C#8 => aluRow .or 4 o a
  | 0x0D#8 => aluRow .or 5 o a
  | 0x0E#8 => pure (.pushCs o)
  | 0x0F#8 => twoByte o a
  | 0x10#8 => aluRow .adc 0 o a
  | 0x11#8 => aluRow .adc 1 o a
  | 0x12#8 => aluRow .adc 2 o a
  | 0x13#8 => aluRow .adc 3 o a
  | 0x14#8 => aluRow .adc 4 o a
  | 0x15#8 => aluRow .adc 5 o a
  | 0x16#8 => pure (.pushSs o)
  | 0x17#8 => pure (.popSs o)
  | 0x18#8 => aluRow .sbb 0 o a
  | 0x19#8 => aluRow .sbb 1 o a
  | 0x1A#8 => aluRow .sbb 2 o a
  | 0x1B#8 => aluRow .sbb 3 o a
  | 0x1C#8 => aluRow .sbb 4 o a
  | 0x1D#8 => aluRow .sbb 5 o a
  | 0x1E#8 => pure (.pushDs o)
  | 0x1F#8 => pure (.popDs o)
  | 0x20#8 => aluRow .and 0 o a
  | 0x21#8 => aluRow .and 1 o a
  | 0x22#8 => aluRow .and 2 o a
  | 0x23#8 => aluRow .and 3 o a
  | 0x24#8 => aluRow .and 4 o a
  | 0x25#8 => aluRow .and 5 o a
  | 0x26#8 => pure .segEs
  | 0x27#8 => pure .daa
  | 0x28#8 => aluRow .sub 0 o a
  | 0x29#8 => aluRow .sub 1 o a
  | 0x2A#8 => aluRow .sub 2 o a
  | 0x2B#8 => aluRow .sub 3 o a
  | 0x2C#8 => aluRow .sub 4 o a
  | 0x2D#8 => aluRow .sub 5 o a
  | 0x2E#8 => pure .segCs
  | 0x2F#8 => pure .das
  | 0x30#8 => aluRow .xor 0 o a
  | 0x31#8 => aluRow .xor 1 o a
  | 0x32#8 => aluRow .xor 2 o a
  | 0x33#8 => aluRow .xor 3 o a
  | 0x34#8 => aluRow .xor 4 o a
  | 0x35#8 => aluRow .xor 5 o a
  | 0x36#8 => pure .segSs
  | 0x37#8 => pure .aaa
  | 0x38#8 => aluRow .cmp 0 o a
  | 0x39#8 => aluRow .cmp 1 o a
  | 0x3A#8 => aluRow .cmp 2 o a
  | 0x3B#8 => aluRow .cmp 3 o a
  | 0x3C#8 => aluRow .cmp 4 o a
  | 0x3D#8 => aluRow .cmp 5 o a
  | 0x3E#8 => pure .segDs
  | 0x3F#8 => pure .aas
  | 0x40#8 => pure (byOSize o (.incR16 .eax) (.incR32 .eax))
  | 0x41#8 => pure (byOSize o (.incR16 .ecx) (.incR32 .ecx))
  | 0x42#8 => pure (byOSize o (.incR16 .edx) (.incR32 .edx))
  | 0x43#8 => pure (byOSize o (.incR16 .ebx) (.incR32 .ebx))
  | 0x44#8 => pure (byOSize o (.incR16 .esp) (.incR32 .esp))
  | 0x45#8 => pure (byOSize o (.incR16 .ebp) (.incR32 .ebp))
  | 0x46#8 => pure (byOSize o (.incR16 .esi) (.incR32 .esi))
  | 0x47#8 => pure (byOSize o (.incR16 .edi) (.incR32 .edi))
  | 0x48#8 => pure (byOSize o (.decR16 .eax) (.decR32 .eax))
  | 0x49#8 => pure (byOSize o (.decR16 .ecx) (.decR32 .ecx))
  | 0x4A#8 => pure (byOSize o (.decR16 .edx) (.decR32 .edx))
  | 0x4B#8 => pure (byOSize o (.decR16 .ebx) (.decR32 .ebx))
  | 0x4C#8 => pure (byOSize o (.decR16 .esp) (.decR32 .esp))
  | 0x4D#8 => pure (byOSize o (.decR16 .ebp) (.decR32 .ebp))
  | 0x4E#8 => pure (byOSize o (.decR16 .esi) (.decR32 .esi))
  | 0x4F#8 => pure (byOSize o (.decR16 .edi) (.decR32 .edi))
  | 0x50#8 => pure (byOSize o (.pushR16 .eax) (.pushR32 .eax))
  | 0x51#8 => pure (byOSize o (.pushR16 .ecx) (.pushR32 .ecx))
  | 0x52#8 => pure (byOSize o (.pushR16 .edx) (.pushR32 .edx))
  | 0x53#8 => pure (byOSize o (.pushR16 .ebx) (.pushR32 .ebx))
  | 0x54#8 => pure (byOSize o (.pushR16 .esp) (.pushR32 .esp))
  | 0x55#8 => pure (byOSize o (.pushR16 .ebp) (.pushR32 .ebp))
  | 0x56#8 => pure (byOSize o (.pushR16 .esi) (.pushR32 .esi))
  | 0x57#8 => pure (byOSize o (.pushR16 .edi) (.pushR32 .edi))
  | 0x58#8 => pure (byOSize o (.popR16 .eax) (.popR32 .eax))
  | 0x59#8 => pure (byOSize o (.popR16 .ecx) (.popR32 .ecx))
  | 0x5A#8 => pure (byOSize o (.popR16 .edx) (.popR32 .edx))
  | 0x5B#8 => pure (byOSize o (.popR16 .ebx) (.popR32 .ebx))
  | 0x5C#8 => pure (byOSize o (.popR16 .esp) (.popR32 .esp))
  | 0x5D#8 => pure (byOSize o (.popR16 .ebp) (.popR32 .ebp))
  | 0x5E#8 => pure (byOSize o (.popR16 .esi) (.popR32 .esi))
  | 0x5F#8 => pure (byOSize o (.popR16 .edi) (.popR32 .edi))
  | 0x60#8 => pure (byOSize o .pusha .pushad)
  | 0x61#8 => pure (byOSize o .popa .popad)
  | 0x62#8 => memReg a (.bound o)
  | 0x63#8 => rmReg a .arpl
  | 0x64#8 => pure .segFs
  | 0x65#8 => pure .segGs
  | 0x66#8 => pure .opsize
  | 0x67#8 => pure .adsize
  | 0x68#8 => byImm o .pushImm16 .pushImm32
  | 0x69#8 => imulImm o a
  | 0x6A#8 => (.pushImm8 o ·) <$> byte
  | 0x6B#8 => do
    let m ← modRm a
    return .imulRvRmvImm8 o m.reg m.rm (← byte)
  | 0x6C#8 => pure (.insb a)
  | 0x6D#8 => pure (byOSize o (.insw a) (.insd a))
  | 0x6E#8 => pure (.outsb a)
  | 0x6F#8 => pure (byOSize o (.outsw a) (.outsd a))
  | 0x70#8 => (fun d => .jo (.rel8 o d)) <$> byte
  | 0x71#8 => (fun d => .jno (.rel8 o d)) <$> byte
  | 0x72#8 => (fun d => .jb (.rel8 o d)) <$> byte
  | 0x73#8 => (fun d => .jae (.rel8 o d)) <$> byte
  | 0x74#8 => (fun d => .je (.rel8 o d)) <$> byte
  | 0x75#8 => (fun d => .jne (.rel8 o d)) <$> byte
  | 0x76#8 => (fun d => .jbe (.rel8 o d)) <$> byte
  | 0x77#8 => (fun d => .ja (.rel8 o d)) <$> byte
  | 0x78#8 => (fun d => .js (.rel8 o d)) <$> byte
  | 0x79#8 => (fun d => .jns (.rel8 o d)) <$> byte
  | 0x7A#8 => (fun d => .jp (.rel8 o d)) <$> byte
  | 0x7B#8 => (fun d => .jnp (.rel8 o d)) <$> byte
  | 0x7C#8 => (fun d => .jl (.rel8 o d)) <$> byte
  | 0x7D#8 => (fun d => .jge (.rel8 o d)) <$> byte
  | 0x7E#8 => (fun d => .jle (.rel8 o d)) <$> byte
  | 0x7F#8 => (fun d => .jg (.rel8 o d)) <$> byte
  | 0x80#8 => do
    let m ← modRm a
    return aluDigit m.digit (.rm8Imm8 m.rm (← byte))
  | 0x81#8 => do
    let m ← modRm a
    byImm o (fun i => aluDigit m.digit (.rm16Imm16 m.rm i)) (fun i => aluDigit m.digit (.rm32Imm32 m.rm i))
  | 0x82#8 => pure .reserved82
  | 0x83#8 => do
    let m ← modRm a
    return aluDigit m.digit (.rmvImm8 o m.rm (← byte))
  | 0x84#8 => rmReg a .testRm8R8
  | 0x85#8 => rmReg a (.testRmvRv o)
  | 0x86#8 => rmReg a .xchgRm8R8
  | 0x87#8 => rmReg a (.xchgRmvRv o)
  | 0x88#8 => rmReg a .movRm8R8
  | 0x89#8 => rmReg a (.movRmvRv o)
  | 0x8A#8 => regRm a .movR8Rm8
  | 0x8B#8 => regRm a (.movRvRmv o)
  | 0x8C#8 => do
    let m ← modRm a
    return .movRmvSreg o m.rm (← sregField m.digit)
  | 0x8D#8 => memReg a (.lea o)
  | 0x8E#8 => do
    let m ← modRm a
    return .movSregRm16 (← loadableSreg m.digit) m.rm
  | 0x8F#8 => do
    let m ← modRm a
    match m.digit with
    | 0#3 => return .popRmv o m.rm
    | _ => throw .undefinedOpcode
  | 0x90#8 => pure .nop
  | 0x91#8 => pure (byOSize o (.xchgAxR16 .ecx) (.xchgEaxR32 .ecx))
  | 0x92#8 => pure (byOSize o (.xchgAxR16 .edx) (.xchgEaxR32 .edx))
  | 0x93#8 => pure (byOSize o (.xchgAxR16 .ebx) (.xchgEaxR32 .ebx))
  | 0x94#8 => pure (byOSize o (.xchgAxR16 .esp) (.xchgEaxR32 .esp))
  | 0x95#8 => pure (byOSize o (.xchgAxR16 .ebp) (.xchgEaxR32 .ebp))
  | 0x96#8 => pure (byOSize o (.xchgAxR16 .esi) (.xchgEaxR32 .esi))
  | 0x97#8 => pure (byOSize o (.xchgAxR16 .edi) (.xchgEaxR32 .edi))
  | 0x98#8 => pure (byOSize o .cbw .cwde)
  | 0x99#8 => pure (byOSize o .cwd .cdq)
  | 0x9A#8 => farPtr o .callPtr16 .callPtr32
  | 0x9B#8 => pure .wait
  | 0x9C#8 => pure (byOSize o .pushf .pushfd)
  | 0x9D#8 => pure (byOSize o .popf .popfd)
  | 0x9E#8 => pure .sahf
  | 0x9F#8 => pure .lahf
  | 0xA0#8 => .movAlMoffs8 <$> moffs a
  | 0xA1#8 => .movAccMoffs o <$> moffs a
  | 0xA2#8 => .movMoffs8Al <$> moffs a
  | 0xA3#8 => .movMoffsAcc o <$> moffs a
  | 0xA4#8 => pure (.movsb a)
  | 0xA5#8 => pure (byOSize o (.movsw a) (.movsd a))
  | 0xA6#8 => pure (.cmpsb a)
  | 0xA7#8 => pure (byOSize o (.cmpsw a) (.cmpsd a))
  | 0xA8#8 => .testAlImm8 <$> byte
  | 0xA9#8 => byImm o .testAxImm16 .testEaxImm32
  | 0xAA#8 => pure (.stosb a)
  | 0xAB#8 => pure (byOSize o (.stosw a) (.stosd a))
  | 0xAC#8 => pure (.lodsb a)
  | 0xAD#8 => pure (byOSize o (.lodsw a) (.lodsd a))
  | 0xAE#8 => pure (.scasb a)
  | 0xAF#8 => pure (byOSize o (.scasw a) (.scasd a))
  | 0xB0#8 => (.movR8Imm8 .eax ·) <$> byte
  | 0xB1#8 => (.movR8Imm8 .ecx ·) <$> byte
  | 0xB2#8 => (.movR8Imm8 .edx ·) <$> byte
  | 0xB3#8 => (.movR8Imm8 .ebx ·) <$> byte
  | 0xB4#8 => (.movR8Imm8 .esp ·) <$> byte
  | 0xB5#8 => (.movR8Imm8 .ebp ·) <$> byte
  | 0xB6#8 => (.movR8Imm8 .esi ·) <$> byte
  | 0xB7#8 => (.movR8Imm8 .edi ·) <$> byte
  | 0xB8#8 => byImm o (.movR16Imm16 .eax) (.movR32Imm32 .eax)
  | 0xB9#8 => byImm o (.movR16Imm16 .ecx) (.movR32Imm32 .ecx)
  | 0xBA#8 => byImm o (.movR16Imm16 .edx) (.movR32Imm32 .edx)
  | 0xBB#8 => byImm o (.movR16Imm16 .ebx) (.movR32Imm32 .ebx)
  | 0xBC#8 => byImm o (.movR16Imm16 .esp) (.movR32Imm32 .esp)
  | 0xBD#8 => byImm o (.movR16Imm16 .ebp) (.movR32Imm32 .ebp)
  | 0xBE#8 => byImm o (.movR16Imm16 .esi) (.movR32Imm32 .esi)
  | 0xBF#8 => byImm o (.movR16Imm16 .edi) (.movR32Imm32 .edi)
  | 0xC0#8 => do
    let m ← modRm a
    match m.digit with
    | 6#3 => return .reservedC0 m.rm
    | _ => return shiftDigit m.digit (.rm8Imm8 m.rm (← byte))
  | 0xC1#8 => do
    let m ← modRm a
    match m.digit with
    | 6#3 => return .reservedC1 m.rm
    | _ => return shiftDigit m.digit (.rmvImm8 o m.rm (← byte))
  | 0xC2#8 => .retNearImm16 o <$> half
  | 0xC3#8 => pure (.retNear o)
  | 0xC4#8 => memReg a (.les o)
  | 0xC5#8 => memReg a (.lds o)
  | 0xC6#8 => do
    let m ← modRm a
    match m.digit with
    | 0#3 => return .movRm8Imm8 m.rm (← byte)
    | _ => throw .undefinedOpcode
  | 0xC7#8 => do
    let m ← modRm a
    match m.digit with
    | 0#3 => byImm o (.movRm16Imm16 m.rm) (.movRm32Imm32 m.rm)
    | _ => throw .undefinedOpcode
  | 0xC8#8 => do
    let n ← half
    return .enter o n (← byte)
  | 0xC9#8 => pure (.leave o)
  | 0xCA#8 => .retFarImm16 o <$> half
  | 0xCB#8 => pure (.retFar o)
  | 0xCC#8 => pure .int3
  | 0xCD#8 => .intImm8 <$> byte
  | 0xCE#8 => pure .into
  | 0xCF#8 => pure (byOSize o .iret .iretd)
  | 0xD0#8 => do
    let m ← modRm a
    match m.digit with
    | 6#3 => return .reservedD0 m.rm
    | _ => return shiftDigit m.digit (.rm8One m.rm)
  | 0xD1#8 => do
    let m ← modRm a
    match m.digit with
    | 6#3 => return .reservedD1 m.rm
    | _ => return shiftDigit m.digit (.rmvOne o m.rm)
  | 0xD2#8 => do
    let m ← modRm a
    match m.digit with
    | 6#3 => return .reservedD2 m.rm
    | _ => return shiftDigit m.digit (.rm8Cl m.rm)
  | 0xD3#8 => do
    let m ← modRm a
    match m.digit with
    | 6#3 => return .reservedD3 m.rm
    | _ => return shiftDigit m.digit (.rmvCl o m.rm)
  | 0xD4#8 => base10 .aam
  | 0xD5#8 => base10 .aad
  | 0xD6#8 => pure .reservedD6
  | 0xD7#8 => pure (.xlat a)
  | 0xD8#8 => do
    let m ← modRm a
    return .escD8 m.digit m.rm
  | 0xD9#8 => do
    let m ← modRm a
    return .escD9 m.digit m.rm
  | 0xDA#8 => do
    let m ← modRm a
    return .escDA m.digit m.rm
  | 0xDB#8 => do
    let m ← modRm a
    return .escDB m.digit m.rm
  | 0xDC#8 => do
    let m ← modRm a
    return .escDC m.digit m.rm
  | 0xDD#8 => do
    let m ← modRm a
    return .escDD m.digit m.rm
  | 0xDE#8 => do
    let m ← modRm a
    return .escDE m.digit m.rm
  | 0xDF#8 => do
    let m ← modRm a
    return .escDF m.digit m.rm
  | 0xE0#8 => .loopne o a <$> byte
  | 0xE1#8 => .loope o a <$> byte
  | 0xE2#8 => .loop o a <$> byte
  | 0xE3#8 => byASize a (.jcxz o) (.jecxz o) <$> byte
  | 0xE4#8 => .inAlImm8 <$> byte
  | 0xE5#8 => .inAccImm8 o <$> byte
  | 0xE6#8 => .outImm8Al <$> byte
  | 0xE7#8 => .outImm8Acc o <$> byte
  | 0xE8#8 => byImm o .callRel16 .callRel32
  | 0xE9#8 => byImm o .jmpRel16 .jmpRel32
  | 0xEA#8 => farPtr o .jmpPtr16 .jmpPtr32
  | 0xEB#8 => .jmpRel8 o <$> byte
  | 0xEC#8 => pure .inAlDx
  | 0xED#8 => pure (.inAccDx o)
  | 0xEE#8 => pure .outDxAl
  | 0xEF#8 => pure (.outDxAcc o)
  | 0xF0#8 => pure .lock
  | 0xF1#8 => pure .reservedF1
  | 0xF2#8 => pure .repne
  | 0xF3#8 => pure .rep
  | 0xF4#8 => pure .hlt
  | 0xF5#8 => pure .cmc
  | 0xF6#8 => do
    let m ← modRm a
    match m.digit with
    | 0#3 => return .testRm8Imm8 m.rm (← byte)
    | 1#3 => return .reservedF6 m.rm
    | 2#3 => return .notRm8 m.rm
    | 3#3 => return .negRm8 m.rm
    | 4#3 => return .mulRm8 m.rm
    | 5#3 => return .imulRm8 m.rm
    | 6#3 => return .divRm8 m.rm
    | 7#3 => return .idivRm8 m.rm
  | 0xF7#8 => do
    let m ← modRm a
    match m.digit with
    | 0#3 => byImm o (.testRm16Imm16 m.rm) (.testRm32Imm32 m.rm)
    | 1#3 => return .reservedF7 m.rm
    | 2#3 => return .notRmv o m.rm
    | 3#3 => return .negRmv o m.rm
    | 4#3 => return .mulRmv o m.rm
    | 5#3 => return .imulRmv o m.rm
    | 6#3 => return .divRmv o m.rm
    | 7#3 => return .idivRmv o m.rm
  | 0xF8#8 => pure .clc
  | 0xF9#8 => pure .stc
  | 0xFA#8 => pure .cli
  | 0xFB#8 => pure .sti
  | 0xFC#8 => pure .cld
  | 0xFD#8 => pure .std
  | 0xFE#8 => do
    let m ← modRm a
    match m.digit with
    | 0#3 => return .incRm8 m.rm
    | 1#3 => return .decRm8 m.rm
    | _ => throw .undefinedOpcode
  | 0xFF#8 => do
    let m ← modRm a
    match m.digit with
    | 0#3 => return .incRmv o m.rm
    | 1#3 => return .decRmv o m.rm
    | 2#3 => return .callRmv o m.rm
    | 3#3 => return .callFarM o (← memOnly m.rm)
    | 4#3 => return .jmpRmv o m.rm
    | 5#3 => return .jmpFarM o (← memOnly m.rm)
    | 6#3 => return .pushRmv o m.rm
    | _ => throw .undefinedOpcode
  | _ => throw .undefinedOpcode

/-- The instruction at the front of a byte string, prefixes not taken together, and the bytes after it. -/
def decode (o : OSize) (a : ASize) (bs : List Byte) : Except DecErr (Instr × List Byte) :=
  (oneByte o a).run bs

/-- The number of a general register (R311). -/
def Reg.num (r : Reg) : BitVec 3 :=
  match r with
  | .eax => 0
  | .ecx => 1
  | .edx => 2
  | .ebx => 3
  | .esp => 4
  | .ebp => 5
  | .esi => 6
  | .edi => 7

/-- The number of a segment register (R311). -/
def SReg.num (r : SReg) : BitVec 3 :=
  match r with
  | .es => 0
  | .cs => 1
  | .ss => 2
  | .ds => 3
  | .fs => 4
  | .gs => 5

/-- The number of a control register (R311). -/
def CrReg.num (r : CrReg) : BitVec 3 :=
  match r with
  | .cr0 => 0
  | .cr2 => 2
  | .cr3 => 3

/-- The number of a debug register (R311). -/
def DrReg.num (r : DrReg) : BitVec 3 :=
  match r with
  | .dr0 => 0
  | .dr1 => 1
  | .dr2 => 2
  | .dr3 => 3
  | .dr6 => 6
  | .dr7 => 7

/-- The number of a test register (R311). -/
def TrReg.num (r : TrReg) : BitVec 3 :=
  match r with
  | .tr6 => 6
  | .tr7 => 7

/-- The r/m field of a 16-bit base (R312). -/
def Base16.num (b : Base16) : BitVec 3 :=
  match b with
  | .bxSi => 0
  | .bxDi => 1
  | .bpSi => 2
  | .bpDi => 3
  | .si => 4
  | .di => 5
  | .bp => 6
  | .bx => 7

/-- A word's bytes, low byte first (R320). -/
def halfBytes (v : BitVec 16) : List Byte := [v.extractLsb' 0 8, v.extractLsb' 8 8]

/-- A doubleword's bytes, low byte first (R320). -/
def wordBytes (v : BitVec 32) : List Byte :=
  [v.extractLsb' 0 8, v.extractLsb' 8 8, v.extractLsb' 16 8, v.extractLsb' 24 8]

/-- A ModR/M byte from its fields (R310); a SIB byte has the same layout. -/
def modRmByte (md : BitVec 2) (reg rm : BitVec 3) : Byte := md ++ reg ++ rm

/-- The bytes of a ModR/M operand: the ModR/M byte with a reg field, the SIB byte and the displacement (R310, R312,
R314, R315). -/
def encRm (reg : BitVec 3) (rm : Rm) : List Byte :=
  match rm with
  | .reg r => [modRmByte 3 reg r.num]
  | .mem (.m16 b .none) => [modRmByte 0 reg b.num]
  | .mem (.m16 b (.d8 d)) => [modRmByte 1 reg b.num, d]
  | .mem (.m16 b (.d16 d)) => modRmByte 2 reg b.num :: halfBytes d
  | .mem (.abs16 d) => modRmByte 0 reg 6 :: halfBytes d
  | .mem (.m32 b .none) => [modRmByte 0 reg b.num]
  | .mem (.m32 b (.d8 d)) => [modRmByte 1 reg b.num, d]
  | .mem (.m32 b (.d32 d)) => modRmByte 2 reg b.num :: wordBytes d
  | .mem (.abs32 d) => modRmByte 0 reg 5 :: wordBytes d
  | .mem (.sib ss x b .none) => [modRmByte 0 reg 4, modRmByte ss x.num b.num]
  | .mem (.sib ss x b (.d8 d)) => [modRmByte 1 reg 4, modRmByte ss x.num b.num, d]
  | .mem (.sib ss x b (.d32 d)) => modRmByte 2 reg 4 :: modRmByte ss x.num b.num :: wordBytes d
  | .mem (.sibAbs ss x d) => modRmByte 0 reg 4 :: modRmByte ss x.num 5 :: wordBytes d

/-- The bytes of a moffs (R320). -/
def encMoffs (p : Moffs) : List Byte :=
  match p with
  | .p16 off => halfBytes off
  | .p32 off => wordBytes off

/-- An opcode byte with a register number added (R300). -/
def plusReg (op : Byte) (r : Reg) : Byte := op + r.num.setWidth 8

/-- The eleven encodings of the arithmetic or logical instruction with digit `k` (R340). -/
def encAlu (k : BitVec 3) (f : AluForm) : List Byte :=
  let row (low : BitVec 3) : Byte := (0#2 ++ k ++ low)
  match f with
  | .rm8R8 rm r => row 0 :: encRm r.num rm
  | .rmvRv _ rm r => row 1 :: encRm r.num rm
  | .r8Rm8 r rm => row 2 :: encRm r.num rm
  | .rvRmv _ r rm => row 3 :: encRm r.num rm
  | .alImm8 i => [row 4, i]
  | .axImm16 i => row 5 :: halfBytes i
  | .eaxImm32 i => row 5 :: wordBytes i
  | .rm8Imm8 rm i => 0x80 :: encRm k rm ++ [i]
  | .rm16Imm16 rm i => 0x81 :: encRm k rm ++ halfBytes i
  | .rm32Imm32 rm i => 0x81 :: encRm k rm ++ wordBytes i
  | .rmvImm8 _ rm i => 0x83 :: encRm k rm ++ [i]

/-- The six encodings of the shift or rotate with digit `k` (R340). -/
def encShift (k : BitVec 3) (f : ShiftForm) : List Byte :=
  match f with
  | .rm8One rm => 0xD0 :: encRm k rm
  | .rm8Cl rm => 0xD2 :: encRm k rm
  | .rm8Imm8 rm i => 0xC0 :: encRm k rm ++ [i]
  | .rmvOne _ rm => 0xD1 :: encRm k rm
  | .rmvCl _ rm => 0xD3 :: encRm k rm
  | .rmvImm8 _ rm i => 0xC1 :: encRm k rm ++ [i]

/-- The three encodings of the conditional jump with condition number `k` (R330, R340, R341). -/
def encJcc (k : BitVec 4) (f : JccForm) : List Byte :=
  match f with
  | .rel8 _ d => [7#4 ++ k, d]
  | .rel16 d => 0x0F :: (8#4 ++ k) :: halfBytes d
  | .rel32 d => 0x0F :: (8#4 ++ k) :: wordBytes d

/-- The bytes of an instruction, without prefixes: the operand and address sizes it carries are those of the context
it is decoded in (R305). -/
def encode (i : Instr) : List Byte :=
  match i with
  | .add f => encAlu 0 f
  | .or f => encAlu 1 f
  | .adc f => encAlu 2 f
  | .sbb f => encAlu 3 f
  | .and f => encAlu 4 f
  | .sub f => encAlu 5 f
  | .xor f => encAlu 6 f
  | .cmp f => encAlu 7 f
  | .rol f => encShift 0 f
  | .ror f => encShift 1 f
  | .rcl f => encShift 2 f
  | .rcr f => encShift 3 f
  | .shl f => encShift 4 f
  | .shr f => encShift 5 f
  | .sar f => encShift 7 f
  | .jo f => encJcc 0 f
  | .jno f => encJcc 1 f
  | .jb f => encJcc 2 f
  | .jae f => encJcc 3 f
  | .je f => encJcc 4 f
  | .jne f => encJcc 5 f
  | .jbe f => encJcc 6 f
  | .ja f => encJcc 7 f
  | .js f => encJcc 8 f
  | .jns f => encJcc 9 f
  | .jp f => encJcc 10 f
  | .jnp f => encJcc 11 f
  | .jl f => encJcc 12 f
  | .jge f => encJcc 13 f
  | .jle f => encJcc 14 f
  | .jg f => encJcc 15 f
  | .movRm8R8 rm r => 0x88 :: encRm r.num rm
  | .movRmvRv _ rm r => 0x89 :: encRm r.num rm
  | .movR8Rm8 r rm => 0x8A :: encRm r.num rm
  | .movRvRmv _ r rm => 0x8B :: encRm r.num rm
  | .movRmvSreg _ rm sr => 0x8C :: encRm sr.num rm
  | .movSregRm16 sr rm => 0x8E :: encRm sr.num rm
  | .movAlMoffs8 p => 0xA0 :: encMoffs p
  | .movAccMoffs _ p => 0xA1 :: encMoffs p
  | .movMoffs8Al p => 0xA2 :: encMoffs p
  | .movMoffsAcc _ p => 0xA3 :: encMoffs p
  | .movR8Imm8 r i => [plusReg 0xB0 r, i]
  | .movR16Imm16 r i => plusReg 0xB8 r :: halfBytes i
  | .movR32Imm32 r i => plusReg 0xB8 r :: wordBytes i
  | .movRm8Imm8 rm i => 0xC6 :: encRm 0 rm ++ [i]
  | .movRm16Imm16 rm i => 0xC7 :: encRm 0 rm ++ halfBytes i
  | .movRm32Imm32 rm i => 0xC7 :: encRm 0 rm ++ wordBytes i
  | .movR32Cr r cr => [0x0F, 0x20, modRmByte 3 cr.num r.num]
  | .movR32Dr r dr => [0x0F, 0x21, modRmByte 3 dr.num r.num]
  | .movCrR32 cr r => [0x0F, 0x22, modRmByte 3 cr.num r.num]
  | .movDrR32 dr r => [0x0F, 0x23, modRmByte 3 dr.num r.num]
  | .movR32Tr r tr => [0x0F, 0x24, modRmByte 3 tr.num r.num]
  | .movTrR32 tr r => [0x0F, 0x26, modRmByte 3 tr.num r.num]
  | .lea _ r ea => 0x8D :: encRm r.num (.mem ea)
  | .lds _ r ea => 0xC5 :: encRm r.num (.mem ea)
  | .les _ r ea => 0xC4 :: encRm r.num (.mem ea)
  | .lss _ r ea => 0x0F :: 0xB2 :: encRm r.num (.mem ea)
  | .lfs _ r ea => 0x0F :: 0xB4 :: encRm r.num (.mem ea)
  | .lgs _ r ea => 0x0F :: 0xB5 :: encRm r.num (.mem ea)
  | .movsxRvRm8 _ r rm => 0x0F :: 0xBE :: encRm r.num rm
  | .movsxRvRm16 _ r rm => 0x0F :: 0xBF :: encRm r.num rm
  | .movzxRvRm8 _ r rm => 0x0F :: 0xB6 :: encRm r.num rm
  | .movzxRvRm16 _ r rm => 0x0F :: 0xB7 :: encRm r.num rm
  | .xchgAxR16 r => [plusReg 0x90 r]
  | .xchgEaxR32 r => [plusReg 0x90 r]
  | .xchgRm8R8 rm r => 0x86 :: encRm r.num rm
  | .xchgRmvRv _ rm r => 0x87 :: encRm r.num rm
  | .popRmv _ rm => 0x8F :: encRm 0 rm
  | .popR16 r => [plusReg 0x58 r]
  | .popR32 r => [plusReg 0x58 r]
  | .popDs _ => [0x1F]
  | .popEs _ => [0x07]
  | .popSs _ => [0x17]
  | .popFs _ => [0x0F, 0xA1]
  | .popGs _ => [0x0F, 0xA9]
  | .pushRmv _ rm => 0xFF :: encRm 6 rm
  | .pushR16 r => [plusReg 0x50 r]
  | .pushR32 r => [plusReg 0x50 r]
  | .pushImm8 _ i => [0x6A, i]
  | .pushImm16 i => 0x68 :: halfBytes i
  | .pushImm32 i => 0x68 :: wordBytes i
  | .pushCs _ => [0x0E]
  | .pushSs _ => [0x16]
  | .pushDs _ => [0x1E]
  | .pushEs _ => [0x06]
  | .pushFs _ => [0x0F, 0xA0]
  | .pushGs _ => [0x0F, 0xA8]
  | .xlat _ => [0xD7]
  | .incRm8 rm => 0xFE :: encRm 0 rm
  | .incRmv _ rm => 0xFF :: encRm 0 rm
  | .incR16 r => [plusReg 0x40 r]
  | .incR32 r => [plusReg 0x40 r]
  | .decRm8 rm => 0xFE :: encRm 1 rm
  | .decRmv _ rm => 0xFF :: encRm 1 rm
  | .decR16 r => [plusReg 0x48 r]
  | .decR32 r => [plusReg 0x48 r]
  | .testRm8Imm8 rm i => 0xF6 :: encRm 0 rm ++ [i]
  | .testRm16Imm16 rm i => 0xF7 :: encRm 0 rm ++ halfBytes i
  | .testRm32Imm32 rm i => 0xF7 :: encRm 0 rm ++ wordBytes i
  | .testAlImm8 i => [0xA8, i]
  | .testAxImm16 i => 0xA9 :: halfBytes i
  | .testEaxImm32 i => 0xA9 :: wordBytes i
  | .testRm8R8 rm r => 0x84 :: encRm r.num rm
  | .testRmvRv _ rm r => 0x85 :: encRm r.num rm
  | .notRm8 rm => 0xF6 :: encRm 2 rm
  | .notRmv _ rm => 0xF7 :: encRm 2 rm
  | .negRm8 rm => 0xF6 :: encRm 3 rm
  | .negRmv _ rm => 0xF7 :: encRm 3 rm
  | .mulRm8 rm => 0xF6 :: encRm 4 rm
  | .mulRmv _ rm => 0xF7 :: encRm 4 rm
  | .imulRm8 rm => 0xF6 :: encRm 5 rm
  | .imulRmv _ rm => 0xF7 :: encRm 5 rm
  | .divRm8 rm => 0xF6 :: encRm 6 rm
  | .divRmv _ rm => 0xF7 :: encRm 6 rm
  | .idivRm8 rm => 0xF6 :: encRm 7 rm
  | .idivRmv _ rm => 0xF7 :: encRm 7 rm
  | .imulRvRmv _ r rm => 0x0F :: 0xAF :: encRm r.num rm
  | .imulRvRmvImm8 _ r rm i => 0x6B :: encRm r.num rm ++ [i]
  | .imulR16Rm16Imm16 r rm i => 0x69 :: encRm r.num rm ++ halfBytes i
  | .imulR32Rm32Imm32 r rm i => 0x69 :: encRm r.num rm ++ wordBytes i
  | .bsf _ r rm => 0x0F :: 0xBC :: encRm r.num rm
  | .bsr _ r rm => 0x0F :: 0xBD :: encRm r.num rm
  | .btRmvRv _ rm r => 0x0F :: 0xA3 :: encRm r.num rm
  | .btRmvImm8 _ rm i => 0x0F :: 0xBA :: encRm 4 rm ++ [i]
  | .btsRmvRv _ rm r => 0x0F :: 0xAB :: encRm r.num rm
  | .btsRmvImm8 _ rm i => 0x0F :: 0xBA :: encRm 5 rm ++ [i]
  | .btrRmvRv _ rm r => 0x0F :: 0xB3 :: encRm r.num rm
  | .btrRmvImm8 _ rm i => 0x0F :: 0xBA :: encRm 6 rm ++ [i]
  | .btcRmvRv _ rm r => 0x0F :: 0xBB :: encRm r.num rm
  | .btcRmvImm8 _ rm i => 0x0F :: 0xBA :: encRm 7 rm ++ [i]
  | .seto rm => 0x0F :: 0x90 :: encRm 0 rm
  | .setno rm => 0x0F :: 0x91 :: encRm 0 rm
  | .setb rm => 0x0F :: 0x92 :: encRm 0 rm
  | .setae rm => 0x0F :: 0x93 :: encRm 0 rm
  | .sete rm => 0x0F :: 0x94 :: encRm 0 rm
  | .setne rm => 0x0F :: 0x95 :: encRm 0 rm
  | .setbe rm => 0x0F :: 0x96 :: encRm 0 rm
  | .seta rm => 0x0F :: 0x97 :: encRm 0 rm
  | .sets rm => 0x0F :: 0x98 :: encRm 0 rm
  | .setns rm => 0x0F :: 0x99 :: encRm 0 rm
  | .setp rm => 0x0F :: 0x9A :: encRm 0 rm
  | .setnp rm => 0x0F :: 0x9B :: encRm 0 rm
  | .setl rm => 0x0F :: 0x9C :: encRm 0 rm
  | .setge rm => 0x0F :: 0x9D :: encRm 0 rm
  | .setle rm => 0x0F :: 0x9E :: encRm 0 rm
  | .setg rm => 0x0F :: 0x9F :: encRm 0 rm
  | .shldRmvRvImm8 _ rm r i => 0x0F :: 0xA4 :: encRm r.num rm ++ [i]
  | .shldRmvRvCl _ rm r => 0x0F :: 0xA5 :: encRm r.num rm
  | .shrdRmvRvImm8 _ rm r i => 0x0F :: 0xAC :: encRm r.num rm ++ [i]
  | .shrdRmvRvCl _ rm r => 0x0F :: 0xAD :: encRm r.num rm
  | .bound _ r ea => 0x62 :: encRm r.num (.mem ea)
  | .callRel16 d => 0xE8 :: halfBytes d
  | .callRel32 d => 0xE8 :: wordBytes d
  | .callRmv _ rm => 0xFF :: encRm 2 rm
  | .callPtr16 sel off => 0x9A :: halfBytes off ++ halfBytes sel
  | .callPtr32 sel off => 0x9A :: wordBytes off ++ halfBytes sel
  | .callFarM _ ea => 0xFF :: encRm 3 (.mem ea)
  | .intImm8 i => [0xCD, i]
  | .jcxz _ d => [0xE3, d]
  | .jecxz _ d => [0xE3, d]
  | .jmpRel8 _ d => [0xEB, d]
  | .jmpRel16 d => 0xE9 :: halfBytes d
  | .jmpRel32 d => 0xE9 :: wordBytes d
  | .jmpRmv _ rm => 0xFF :: encRm 4 rm
  | .jmpPtr16 sel off => 0xEA :: halfBytes off ++ halfBytes sel
  | .jmpPtr32 sel off => 0xEA :: wordBytes off ++ halfBytes sel
  | .jmpFarM _ ea => 0xFF :: encRm 5 (.mem ea)
  | .loop _ _ d => [0xE2, d]
  | .loope _ _ d => [0xE1, d]
  | .loopne _ _ d => [0xE0, d]
  | .retNear _ => [0xC3]
  | .retNearImm16 _ i => 0xC2 :: halfBytes i
  | .retFar _ => [0xCB]
  | .retFarImm16 _ i => 0xCA :: halfBytes i
  | .movsb _ => [0xA4]
  | .movsw _ => [0xA5]
  | .movsd _ => [0xA5]
  | .cmpsb _ => [0xA6]
  | .cmpsw _ => [0xA7]
  | .cmpsd _ => [0xA7]
  | .stosb _ => [0xAA]
  | .stosw _ => [0xAB]
  | .stosd _ => [0xAB]
  | .lodsb _ => [0xAC]
  | .lodsw _ => [0xAD]
  | .lodsd _ => [0xAD]
  | .scasb _ => [0xAE]
  | .scasw _ => [0xAF]
  | .scasd _ => [0xAF]
  | .insb _ => [0x6C]
  | .insw _ => [0x6D]
  | .insd _ => [0x6D]
  | .outsb _ => [0x6E]
  | .outsw _ => [0x6F]
  | .outsd _ => [0x6F]
  | .inAlImm8 i => [0xE4, i]
  | .inAccImm8 _ i => [0xE5, i]
  | .inAccDx _ => [0xED]
  | .outImm8Al i => [0xE6, i]
  | .outImm8Acc _ i => [0xE7, i]
  | .outDxAcc _ => [0xEF]
  | .leave _ => [0xC9]
  | .enter _ n lvl => 0xC8 :: halfBytes n ++ [lvl]
  | .escD8 op rm => 0xD8 :: encRm op rm
  | .escD9 op rm => 0xD9 :: encRm op rm
  | .escDA op rm => 0xDA :: encRm op rm
  | .escDB op rm => 0xDB :: encRm op rm
  | .escDC op rm => 0xDC :: encRm op rm
  | .escDD op rm => 0xDD :: encRm op rm
  | .escDE op rm => 0xDE :: encRm op rm
  | .escDF op rm => 0xDF :: encRm op rm
  | .arpl rm r => 0x63 :: encRm r.num rm
  | .lar _ r rm => 0x0F :: 0x02 :: encRm r.num rm
  | .lsl _ r rm => 0x0F :: 0x03 :: encRm r.num rm
  | .sgdt _ ea => 0x0F :: 0x01 :: encRm 0 (.mem ea)
  | .sidt _ ea => 0x0F :: 0x01 :: encRm 1 (.mem ea)
  | .lgdt _ ea => 0x0F :: 0x01 :: encRm 2 (.mem ea)
  | .lidt _ ea => 0x0F :: 0x01 :: encRm 3 (.mem ea)
  | .smsw _ rm => 0x0F :: 0x01 :: encRm 4 rm
  | .lmsw rm => 0x0F :: 0x01 :: encRm 6 rm
  | .sldt _ rm => 0x0F :: 0x00 :: encRm 0 rm
  | .str _ rm => 0x0F :: 0x00 :: encRm 1 rm
  | .lldt rm => 0x0F :: 0x00 :: encRm 2 rm
  | .ltr rm => 0x0F :: 0x00 :: encRm 3 rm
  | .verr rm => 0x0F :: 0x00 :: encRm 4 rm
  | .verw rm => 0x0F :: 0x00 :: encRm 5 rm
  | .reservedF6 rm => 0xF6 :: encRm 1 rm
  | .reservedF7 rm => 0xF7 :: encRm 1 rm
  | .reservedC0 rm => 0xC0 :: encRm 6 rm
  | .reservedC1 rm => 0xC1 :: encRm 6 rm
  | .reservedD0 rm => 0xD0 :: encRm 6 rm
  | .reservedD1 rm => 0xD1 :: encRm 6 rm
  | .reservedD2 rm => 0xD2 :: encRm 6 rm
  | .reservedD3 rm => 0xD3 :: encRm 6 rm
  | .reserved82 => [0x82]
  | .reservedD6 => [0xD6]
  | .reservedF1 => [0xF1]
  | .reserved0F07 => [0x0F, 0x07]
  | .reserved0F10 => [0x0F, 0x10]
  | .reserved0F11 => [0x0F, 0x11]
  | .reserved0F12 => [0x0F, 0x12]
  | .reserved0F13 => [0x0F, 0x13]
  | .cbw => [0x98]
  | .cwde => [0x98]
  | .cwd => [0x99]
  | .cdq => [0x99]
  | .popa => [0x61]
  | .popad => [0x61]
  | .pusha => [0x60]
  | .pushad => [0x60]
  | .aaa => [0x37]
  | .aad => [0xD5, 0x0A]
  | .aam => [0xD4, 0x0A]
  | .aas => [0x3F]
  | .daa => [0x27]
  | .das => [0x2F]
  | .inAlDx => [0xEC]
  | .outDxAl => [0xEE]
  | .int3 => [0xCC]
  | .into => [0xCE]
  | .iret => [0xCF]
  | .iretd => [0xCF]
  | .clc => [0xF8]
  | .cld => [0xFC]
  | .cli => [0xFA]
  | .cmc => [0xF5]
  | .lahf => [0x9F]
  | .sahf => [0x9E]
  | .stc => [0xF9]
  | .std => [0xFD]
  | .sti => [0xFB]
  | .nop => [0x90]
  | .wait => [0x9B]
  | .hlt => [0xF4]
  | .popf => [0x9D]
  | .popfd => [0x9D]
  | .pushf => [0x9C]
  | .pushfd => [0x9C]
  | .clts => [0x0F, 0x06]
  | .lock => [0xF0]
  | .repne => [0xF2]
  | .rep => [0xF3]
  | .segEs => [0x26]
  | .segCs => [0x2E]
  | .segSs => [0x36]
  | .segDs => [0x3E]
  | .segFs => [0x64]
  | .segGs => [0x65]
  | .opsize => [0x66]
  | .adsize => [0x67]

/-- The `n` bytes of a number, least significant first, and zeros after them up to 15 bytes (R281). -/
def bytesOfNat (n w : Nat) : List Byte :=
  match n with
  | 0 => []
  | n + 1 => BitVec.ofNat 8 w :: bytesOfNat n (w / 256)

/-- The instruction that the decoder reads from an opcode-table word of `nbits` bits: byte 0 in bits 7..0, the next
byte above it, zeros after the word; under the 16-bit operand and address sizes that hold after reset (R305). -/
def decodeTableWord (nbits w : Nat) : Option Instr :=
  match decode .o16 .a16 (bytesOfNat 15 (w % 2 ^ nbits)) with
  | .ok (i, _) => some i
  | .error _ => none

end Sys2Proof
end

