-- ==== Sys2Proof/Machine/Fetch.lean ====
section
/-! DEFINITION. The platform's inputs at a boundary, the events taken there, and the fetch of an instruction's bytes
(spec/60_exceptions.md R903 to R909, R1006, spec/20_memory.md R203, R265, spec/70_reset_and_hazards.md R1070). -/

namespace Sys2Proof.Machine

/-- Take the platform's input of this step: the quiet tick when none is left (log entry 21). -/
def takeTick (s : State) : State :=
  match s.inputs with
  | [] => { s with now := Tick.quiet, cur := Cur.none }
  | t :: rest => { s with now := t, inputs := rest, cur := Cur.none }

/-- The registers after RESET#: with BUSY# active the self-test is made, whose result is in EAX (R1050, R1070, log
entry 54). -/
def resetRegs (s : State) : Regs :=
  { State.reset.regs with eax := if s.now.busy then Config.selfTest s.draws else State.reset.regs.eax }

/-- RESET#: the state of R1050, on the same platform (R1070). An NMI request that waits, or that comes in the same step,
is dropped with the rest of the processor's state (log entry 65, DESIGN CHOICE). -/
def resetState (s : State) : State :=
  { State.reset with
    regs := resetRegs s
    mem := s.mem
    regions := s.regions
    io := s.io
    inputs := s.inputs
    draws := s.draws + 1 }

/-- The NMI request of this step joins the one that may wait (R904, D95). -/
def latchNmi (s : State) : State :=
  { s with latches := { s.latches with nmiPending := s.latches.nmiPending || s.now.nmi } }

/-- Which breakpoints the instruction at CS:EIP meets, enabled or not (R1005). -/
def instrHits (s : State) : BitVec 4 :=
  bits4 (bpInstrMatch s.dbg (Config.undefinedBreakpoint s.draws) (s.linear .cs s.eip))

/-- The draw that `instrHits` looks at is used up (log entry 24). -/
def usedHits (s : State) : State := { s with draws := s.draws + 1 }

/-- Which breakpoints are enabled (R117). -/
def enabledBps (dr7 : Word) : BitVec 4 := bits4 (bpEnabled dr7)

/-- A debug trap waits: it is taken in the new task, before its first instruction (R1013). -/
def takesTrap (s : State) : Bool := s.latches.trap != 0 && !s.latches.inhibit

/-- An enabled instruction breakpoint matches, RF is clear and nothing inhibits it (R1006, R907). -/
def takesBreakpoint (s : State) : Bool :=
  instrHits s &&& enabledBps s.dbg.dr7 != 0 && !s.flags.rf && !s.latches.inhibit && !s.latches.halted

/-- An NMI is accepted (R904, R906, R907). -/
def takesNmi (s : State) : Bool := s.latches.nmiPending && !s.latches.nmiBlocked && !s.latches.inhibit

/-- An INTR is accepted (R903, R907, R908). -/
def takesIntr (s : State) : Bool :=
  s.now.intr.isSome && s.flags.ie && !s.latches.inhibit && !s.latches.stiShadow

/-- Take the waiting debug trap (R1013); DR6 shows the instruction breakpoints that match here too (R1014). -/
def deliverTrap (s : State) : StepOut :=
  let t := setDr6 (s.latches.trap ||| (instrHits s).setWidth 32) (usedHits s)
  deliver .debugTrap { t with latches := { t.latches with trap := 0 } }

/-- Take the instruction-breakpoint fault (R1006). -/
def deliverBreakpoint (s : State) : StepOut := deliver (.ofExc .db) (setDr6 ((instrHits s).setWidth 32) (usedHits s))

/-- Take an NMI, which masks further ones (R904, R906). -/
def deliverNmi (s : State) : StepOut :=
  deliver (.external 2) { s with latches := { s.latches with nmiPending := false, nmiBlocked := true } }

/-- Take an INTR, with the acknowledge cycle that reads its vector (R903). -/
def deliverIntr (n : Byte) (s : State) : StepOut := deliver (.external n) { s with io := .intAck n :: s.io }

/-- The default operand and address size: D of the CS cache, and 16 bits outside protected mode (R305). -/
def defaultSize (s : State) : Bool := s.isProtected && s.segs.cs.db

/-- The operand-size attribute (R305). -/
def State.osize (s : State) : OSize := if defaultSize s != s.cur.osz then .o32 else .o16

/-- The address-size attribute (R305). -/
def State.asize (s : State) : ASize := if defaultSize s != s.cur.asz then .a32 else .a16

/-- A byte of code at an offset in CS: the limit, then paging as a read at the current level (R203). -/
def codeByte (off : Word) : M Byte := do
  let s ← get
  require (s.segs.cs.inLimit off 1) (.gp 0)
  let v ← linRead (s.linear .cs off) 1 (s.access false)
  return v.setWidth 8

/-- The next byte of an instruction: a prefetched one if there is one (R265); EIP moves past it. A sixteenth byte is
#GP(0) (R281). -/
def fetchByte : M Byte := do
  let s ← get
  require (decide (s.cur.len < 15)) (.gp 0)
  match s.queue with
  | q :: rest => do
    modify fun s =>
      { s with eip := s.eip + 1, queue := rest, cur := { s.cur with len := s.cur.len + 1 } }
    return q.byte
  | [] => do
    let b ← codeByte s.eip
    modify fun s => { s with eip := s.eip + 1, cur := { s.cur with len := s.cur.len + 1 } }
    return b

/-- The bytes that an instruction could be made of, each with the state after its fetch, and what stops the fetch of
one more. Only the bytes that the decoder then takes are fetched (R203, D90). -/
def fetchAhead (n : Nat) (s : State) : List (Byte × State) × Option (Err × State) :=
  match n with
  | 0 => ([], none)
  | n + 1 =>
    match fetchByte s with
    | .ok b s' =>
      let (bs, stop) := fetchAhead n s'
      ((b, s') :: bs, stop)
    | .error e s' => ([], some (e, s'))

/-- Prefetch up to `n` bytes after those already held; a fault ends it silently (R265, D90). -/
def prefetchMore (n : Nat) (s : State) : State :=
  match n with
  | 0 => s
  | n + 1 =>
    match codeByte (s.eip + BitVec.ofNat 32 s.queue.length) s with
    | .ok b s' => prefetchMore n { s' with queue := s'.queue ++ [⟨b, s'.sys.cr0.pe⟩] }
    | .error _ _ => s

/-- The prefetch of this step, before the instruction executes: as many bytes as the tick says, at most `PrefetchMax`
(R265, log entry 17). -/
def prefetch (s : State) : State :=
  if s.now.prefetch = 0 then s
  else prefetchMore (min s.now.prefetch Config.prefetchMax - s.queue.length) s

/-- The mode in which the instruction at CS:EIP runs, when it is not the current one: an instruction that was prefetched
before CR0.PE changed may run as it was decoded then (R1060, log entry 17). -/
def oldMode (s : State) : Option Bool :=
  match s.queue with
  | [] => none
  | q :: _ => if s.now.oldMode && q.pe != s.sys.cr0.pe then some q.pe else none

/-- An instruction begins at CS:EIP. The inhibitions of the previous instruction end with this one (R907, R908,
log entry 35). The instruction breakpoints that it meets are kept for DR6 (R1014). -/
def beginInstr (s : State) : State :=
  usedHits
    { s with
      cur := { Cur.none with start := s.eip, mode := oldMode s, fetchHits := instrHits s }
      latches := { s.latches with inhibit := false, stiShadow := false } }

end Sys2Proof.Machine
end

