-- ==== Sys2Proof/Machine/Run.lean ====
section
/-! DEFINITION. One instruction from its fetch to its end: prefixes, execution, and the debug traps that follow it
(spec/30_encoding.md R280 to R285, R350 to R352, spec/60_exceptions.md R943, R1007, R1012 to R1014). -/

namespace Sys2Proof.Machine

/-- The breakpoint hits of an instruction that are reported now, and those reported one instruction later: at once when
LE or GE is set, else as this step's tick says (R1007, U30). -/
def reportHits (dr7 : Word) (when_ : BpReport) (hits : BitVec 4) : BitVec 4 × BitVec 4 :=
  if hits &&& enabledBps dr7 = 0 then (0, 0)
  else if dr7.getLsbD 8 || dr7.getLsbD 9 then (hits, 0)
  else
    match when_ with
    | .now => (hits, 0)
    | .next => (0, hits)
    | .never => (0, 0)

/-- RF after a completed instruction (R943 c). -/
def clearRf (t : State) : State :=
  if t.cur.keepRf || t.cur.again then t else { t with flags := { t.flags with rf := false } }

/-- The single-step trap and the data-breakpoint traps of a completed instruction, and the task-switch trap, as one
exception (R1007, R1012 to R1014). DR6 shows every condition that the instruction met, enabled or not, the
instruction breakpoint at its own address among them, whatever RF was (log entry 69, DESIGN CHOICE), and the instruction
breakpoints that match at the boundary. A hit of the instruction before a HLT that is reported one instruction later
is taken at once, and so ends the halt (log entry 73, DESIGN CHOICE). `s` is the state in which the instruction began. -/
def debugTraps (s t : State) : StepOut :=
  let (now, later) := reportHits s.dbg.dr7 t.now.bpReport t.cur.hits
  let late := t.latches.late
  let step : Word := if s.flags.tf then 0x4000 else 0
  let bits := step ||| (now ||| late).setWidth 32 ||| t.latches.trap
  let u := { t with latches := { t.latches with late := later } }
  if bits = 0 then .next u
  else
    let met := t.cur.hits ||| t.cur.fetchHits ||| instrHits t
    let v := setDr6 (bits ||| met.setWidth 32) (usedHits u)
    deliver .debugTrap { v with latches := { v.latches with trap := 0 } }

/-- The boundary after MOV SS or POP SS: no debug trap; the hits of enabled breakpoints are kept for the next debug
exception (R907, D96). -/
def holdTraps (s t : State) : State :=
  let kept := if t.cur.hits &&& enabledBps s.dbg.dr7 = 0 then 0 else t.cur.hits
  { t with latches := { t.latches with deferred := t.latches.deferred ||| kept ||| t.latches.late, late := 0 } }

/-- The end of an instruction: `s` is the state in which it began, `t` the one its meaning left, and `bytes` its own
bytes, which a repeated instruction does not fetch again (R710). -/
def finish (s : State) (bytes : List Byte) (t : State) : StepOut :=
  match t.cur.stage with
  | .prefixes => .next t
  | .excepted => .next { t with latches := { t.latches with late := 0 } }
  | .completed =>
    let t := clearRf t
    let t := if t.cur.again then { t with queue := bytes.map (fun b => ⟨b, t.pe⟩) ++ t.queue } else t
    if t.latches.inhibit then .next (holdTraps s t)
    else if t.cur.soft then .next { t with latches := { t.latches with late := 0 } }
    else debugTraps s t

/-- Deliver what stopped the fetch of a byte that the instruction needs (R203, R281). -/
def stopFetch (s : State) (stop : Option (Err × State)) : StepOut :=
  match stop with
  | some (.exc e, s') => deliverExc e (markPoint s) s'
  | some (.refuse r, _) => .refused r
  | none => deliverExc (.gp 0) (markPoint s) s

/-- The state after the last of `n` fetched bytes. -/
def afterBytes (s : State) (fs : List (Byte × State)) (n : Nat) : State :=
  match n, fs with
  | _, [] => s
  | 0, _ => s
  | n + 1, (_, s') :: rest => afterBytes s' rest n

/-- How many of the bytes read show that they are no instruction: the least number from which the decoder rejects by
another name than `truncated`. -/
def rejectedAt (o : OSize) (a : ASize) (bs : List Byte) (n k : Nat) : Nat :=
  match k with
  | 0 => n
  | k + 1 =>
    match decode o a (bs.take n) with
    | .error .truncated => rejectedAt o a bs (n + 1) k
    | _ => n

/-- #UD of bytes that are no instruction, once the bytes that show it have been fetched (R350, R940). -/
def undecodable (s : State) (fs : List (Byte × State)) : StepOut :=
  deliverExc .ud (markPoint s) (afterBytes s fs (rejectedAt s.osize s.asize (fs.map Prod.fst) 1 15))

/-- MOV to or from a control, debug or test register that does not exist: #GP(0) unless CPL is 0, which comes first, and
then #UD (R830, R909, D55); LOCK before it is #UD (R287). -/
def noSpecial (s : State) (fs : List (Byte × State)) : StepOut :=
  if s.cur.lock || s.curCpl == 0 then undecodable s fs
  else
    deliverExc (.gp 0) (markPoint s) (afterBytes s fs (rejectedAt s.osize s.asize (fs.map Prod.fst) 1 15))

/-- The six forms of JMP, which empty the queue and are not affected by a change of mode before them (R1060). -/
def isJmp (i : Instr) : Bool :=
  match i with
  | .jmpRel8 _ _ => true
  | .jmpRel16 _ => true
  | .jmpRel32 _ => true
  | .jmpRmv _ _ => true
  | .jmpPtr16 _ _ => true
  | .jmpPtr32 _ _ => true
  | .jmpFarM _ _ => true
  | _ => false

/-- A JMP runs in the current mode (R1060). -/
def forJmp (i : Instr) (s : State) : State := if isJmp i then currentMode s else s

/-- Read prefixes and an instruction, and execute it. `s0` is the state in which the instruction began, `bytes` what has
been read of it, and `s` the state after them. The bound is never reached: an instruction has at most 15 bytes. A LOCK
prefix changes nothing for the bytes that the model refuses (R351, R352: log entry 66, DESIGN CHOICE). -/
def runItem (fuel : Nat) (s0 : State) (bytes : List Byte) (s : State) : StepOut :=
  match fuel with
  | 0 => .next s
  | k + 1 =>
    let (fs, stop) := fetchAhead 16 s
    let read := fs.map Prod.fst
    match decode s.osize s.asize read with
    | .error .truncated => stopFetch s stop
    | .error .aamAadBase => .refused .aamAadBase
    | .error .specialMod => .refused .specialMod
    | .error .badSpecial => noSpecial s fs
    | .error _ => undecodable s fs
    | .ok (i, rest) =>
      let n := read.length - rest.length
      let all := bytes ++ read.take n
      match exec i (forJmp i (prefetch (afterBytes s fs n))) with
      | .fault f => .fault f
      | .refused r => .refused r
      | .next t =>
        match t.cur.stage with
        | .prefixes => runItem k s0 all t
        | _ => finish s0 all t

/-- One instruction at CS:EIP. -/
def runInstr (s : State) : StepOut := runItem 16 (beginInstr s) [] (beginInstr s)

/-- What happens at a boundary, by priority (R909): debug traps, instruction breakpoints, NMI, INTR; else the next
instruction, unless the processor is halted or shut down (R822, R948). Shutdown is an end of the run, and what an NMI
finds that would leave it is not described (R1090 b, D11, log entry 33). -/
def boundary (s : State) : StepOut :=
  if s.latches.shutdown then if takesNmi s then .refused .shutdownNmi else .next s
  else if takesTrap s then deliverTrap s
  else if takesBreakpoint s then deliverBreakpoint s
  else if takesNmi s then deliverNmi s
  else
    match takesIntr s, s.now.intr with
    | true, some n => deliverIntr n s
    | _, _ => if s.latches.halted then .next s else runInstr s

/-- Between steps nothing of an instruction is in progress, and real-address mode has CPL 0 (R81). -/
def settled (s : State) : State :=
  { s with cur := Cur.none, now := Tick.quiet, cpl := if s.sys.cr0.pe then s.cpl else 0 }

/-- The end of a step. -/
def endStep (o : StepOut) : StepOut :=
  match o with
  | .next s => .next (settled s)
  | .fault f => .fault f
  | .refused r => .refused r

/-- RESET# after the first `n` bus events of a step: what they wrote stays, and all else of the step is lost (D12, R1050,
R1070, log entry 63). A refused step stays refused. -/
def cutShort (n : Nat) (s : State) (o : StepOut) : StepOut :=
  match o with
  | .next t =>
    let es := (newEvents s t).reverse.take n
    .next
      (resetState
        { s with
          mem := Mem.after s.regions es s.mem
          io := es.reverse ++ s.io
          draws := t.draws })
  | .fault f => .fault f
  | .refused r => .refused r

/-- What a step does once its tick is taken: RESET# at the time the tick says, or the boundary. -/
def runTick (s : State) : StepOut :=
  match s.now.reset with
  | none => endStep (boundary (latchNmi s))
  | some 0 => .next (resetState s)
  | some n => cutShort n s (boundary (latchNmi s))

/-- Where the next instruction's byte `i` lies in physical memory, if its page can be translated. -/
def fetchAddr (s : State) (i : Nat) : Option Nat :=
  let lin := s.linear .cs (s.eip + BitVec.ofNat 32 i)
  match translate lin (s.access false) s with
  | .ok t _ => some (t.frame ++ lin.extractLsb' 0 12).toNat
  | .error _ _ => none

/-- Memory with bytes stored where the next instruction will be fetched, from its byte `i` on. -/
def storeCode (s : State) (i : Nat) (bs : List Byte) : State :=
  match bs with
  | [] => s
  | b :: rest =>
    match fetchAddr s i with
    | some a => storeCode { s with mem := Mem.write s.mem a b } (i + 1) rest
    | none => storeCode s (i + 1) rest

end Sys2Proof.Machine
end

