-- ==== Sys2Proof/Machine/Step.lean ====
section
/-! DEFINITION. One step of the machine, and the placing of an instruction where it is fetched. -/

namespace Sys2Proof.Machine

/-- One step: the platform's input, then what happens at the boundary (R1070, R909). -/
def step (s : State) : Host.Outcome State Fault Refusal := runTick (takeTick s)

/-- The state with an instruction stored at CS:EIP, nothing prefetched, and the processor neither halted nor shut down,
so that the next step runs it (log entry 41). -/
def State.withFetchWord (s : State) (nbits w : Nat) : State :=
  let s :=
    { s with
      queue := []
      latches := { s.latches with halted := false, shutdown := false } }
  storeCode s 0 (bytesOfNat 15 (w % 2 ^ nbits))

end Sys2Proof.Machine
end

