-- ==== Sys2Proof/Claims.lean ====
section
/-! DEFINITION. The words in which the statements are written: how an instruction completes, and what an access to
memory leaves as it was. -/

namespace Sys2Proof.Machine

/-- An instruction that has run to its end leaves this state to the rest of the step. -/
def completed (t : State) : State := { t with cur := { t.cur with stage := .completed } }

/-- The instruction `i` answers the next state `t`, completed. -/
def Completes (i : Instr) (s t : State) : Prop := exec i s = .next (completed t)

/-- Settings of bits that an access makes on its way: Accessed (bit 5) and Dirty (bit 6) of page-table entries (R241),
and Accessed (bit 0) of descriptors (R165), each in physical memory. -/
def AccessBits (l : List (Nat × Byte)) : Prop := ∀ x ∈ l, x.1 < 2 ^ 24 ∧ x.2 &&& 0x9E#8 = 0#8

/-- What an access leaves on its way: the settings it made in memory, newest first, and what it leaves of the TLB's
entries, of the choices about pages, of the draws of free values and of the breakpoint hits. -/
structure Trace where
  sets : List (Nat × Byte)
  entries : List TlbEntry
  choices : List PageChoice
  draws : Nat
  hits : BitVec 4

/-- Settings of bits as events on the bus. -/
def settings (l : List (Nat × Byte)) : List IoEvent := l.map fun x => .memSet x.1 x.2

/-- The state after an access: its settings stand in memory and in the record of the bus, and everything else that a
trace does not name is as before. -/
def touched (s : State) (x : Trace) : State :=
  { s with
    mem := Mem.after s.regions (settings x.sets).reverse s.mem
    io := settings x.sets ++ s.io
    tlb := { s.tlb with entries := x.entries }
    now := { s.now with pages := x.choices }
    draws := x.draws
    cur := { s.cur with hits := x.hits } }

/-- What an access leaves: every register, flag, system and debug register and every byte of memory as before, but for
Accessed and Dirty bits. -/
def Accessed (s t : State) : Prop := ∃ x, AccessBits x.sets ∧ t = touched s x

/-- What an access that an exception ends leaves: the same, and CR2 (R924). -/
def AccessedStop (s t : State) : Prop :=
  ∃ x c, AccessBits x.sets ∧ t = { touched s x with sys := { s.sys with cr2 := c } }

/-- The state after an access that stores bytes, first of all at the addresses `as`: one write on the bus, after the
access's own settings; every byte at another address is as the access leaves it. -/
def StoredAt (as : List Nat) (s t : State) : Prop :=
  ∃ x cells, AccessBits x.sets ∧ cells.map Prod.fst = as ∧
    t = { touched s x with mem := t.mem, io := .memWrite cells :: (touched s x).io } ∧
    ∀ a, a ∉ as → Mem.read t.mem a = Mem.read (touched s x).mem a

/-- The physical addresses of the bytes that a store of `n` bytes at an offset of a segment goes to. -/
def storedAt (s : State) (r : SReg) (off : Word) (n : Nat) : List Nat :=
  match dataPhys r off n true s with
  | .ok as _ => as.map BitVec.toNat
  | .error _ _ => []

/-- What a store of `n` bytes leaves: as after an access, but for the bytes stored. -/
def Stored (r : SReg) (off : Word) (n : Nat) (s t : State) : Prop := StoredAt (storedAt s r off n) s t

/-- What a write of an operand leaves: a register operand changes that register alone, a memory operand the bytes
stored. -/
def Written (z : Size) (p : Place) (v : z.Val) (s t : State) : Prop :=
  match p with
  | .reg r => t = { s with regs := s.regs.write z r v }
  | .mem sr off => Stored sr off z.bytes s t

/-- No LOCK prefix stands before the instruction, which is a string instruction: repeat prefixes may (R287). -/
abbrev Unlocked (s : State) : Prop := s.cur.lock = false

/-- Neither LOCK nor a repeat prefix stands before the instruction, which is no string instruction (R287). -/
abbrev Plain (s : State) : Prop := s.cur.lock = false ∧ s.cur.rep = none

/-- A LOCK prefix stands only before a destination in memory (R790), and no repeat prefix before an instruction that is no
string instruction (R287). -/
abbrev PrefixesFit (s : State) (mem : Bool) : Prop := (s.cur.lock = true → mem = true) ∧ s.cur.rep = none

/-- The instruction reads its r/m operand and nothing else of memory: `f` says what becomes of the state after the read
and of the value. -/
def Loads (i : Instr) (z : Size) (rm : Rm) (f : State → z.Val → State) : Prop :=
  ∀ s v t, Plain s → readRm z rm (markPoint s) = .ok v t →
    Accessed (markPoint s) t ∧ Completes i s (f t v)

/-- The instruction stores a value in its r/m operand and changes nothing else. -/
def Stores (i : Instr) (z : Size) (rm : Rm) (v : State → z.Val) : Prop :=
  ∀ s p u t, Plain s → Mem.wf s.mem = true → place rm (markPoint s) = .ok p u → p.write z (v s) u = .ok () t →
    u = markPoint s ∧ Written z p (v s) u t ∧ Completes i s t

/-- The instruction reads its r/m operand, writes a result there and sets flags: `out` and `flags` give them from the
state after the read and the value read, and `d` free values are drawn. -/
def Updates (i : Instr) (mem : Bool) (z : Size) (rm : Rm) (d : Nat) (out : State → z.Val → z.Val)
    (flags : State → z.Val → Flags) : Prop :=
  ∀ s p u a v t, PrefixesFit s mem → Mem.wf s.mem = true → place rm (markPoint s) = .ok p u →
    p.readRmw z u = .ok a v → p.write z (out v a) { v with draws := v.draws + d } = .ok () t →
    u = markPoint s ∧ Accessed u v ∧ Written z p (out v a) { v with draws := v.draws + d } t ∧
      Completes i s { t with flags := flags v a }

/-- The six undefined status flags that are drawn from `n` on (U1). -/
def statusAt (n : Nat) : Status :=
  { cf := Config.freeBit n
    pf := Config.freeBit (n + 1)
    af := Config.freeBit (n + 2)
    zf := Config.freeBit (n + 3)
    sf := Config.freeBit (n + 4)
    ov := Config.freeBit (n + 5) }

/-- A register operand written. -/
def setReg (s : State) (z : Size) (r : Reg) (v : z.Val) : State := { s with regs := s.regs.write z r v }

/-- The stack pointer set. -/
def atSp (s : State) (v : Word) : State := { s with regs := { s.regs with esp := withSp s.stackSize s.regs.esp v } }

/-- What a push of width `z` leaves: the bytes stored at the top of the stack, and the stack pointer below them. -/
def Pushed (z : Size) (s t : State) : Prop :=
  ∃ u, Stored .ss (stackOff s.stackSize (s.regs.esp - BitVec.ofNat 32 z.bytes)) z.bytes s u ∧
    t = atSp u (s.regs.esp - BitVec.ofNat 32 z.bytes)

/-- The instruction pushes a value and changes nothing else; `d` free values are drawn first. -/
def Pushes (i : Instr) (z : Size) (d : Nat) (v : State → Word) : Prop :=
  ∀ s t, Plain s → Mem.wf s.mem = true →
    push z (v s) { markPoint s with draws := s.draws + d } = .ok () t →
    Pushed z { markPoint s with draws := s.draws + d } t ∧ Completes i s t

/-- What a pop of width `z` leaves: the stack pointer above the item. -/
def Popped (z : Size) (s t : State) : Prop :=
  ∃ u, Accessed s u ∧ t = atSp u (s.regs.esp + BitVec.ofNat 32 z.bytes)

/-- The instruction pops an item: `f` says what becomes of the state after the pop and of the item. -/
def Pops (i : Instr) (z : Size) (f : State → Word → State) : Prop :=
  ∀ s v t, Plain s → pop z (markPoint s) = .ok v t → Popped z (markPoint s) t ∧ Completes i s (f t v)

/-- What a load of a segment register leaves: that register, and Accessed bits. -/
def SegLoaded (r : SReg) (s t : State) : Prop := ∃ u g, Accessed s u ∧ t = { u with segs := u.segs.put r g }

/-- The offset of a moffs operand (R320). -/
def moffsOff (p : Moffs) : Word :=
  match p with
  | .p16 off => off.setWidth 32
  | .p32 off => off

/-- XCHG of an r/m operand and a register. -/
def Exchanges (i : Instr) (z : Size) (rm : Rm) (r : Reg) : Prop :=
  ∀ s p u a v t, PrefixesFit s (rmIsMem rm) → Mem.wf s.mem = true → place rm (markPoint s) = .ok p u →
    p.readRmw z u = .ok a v → p.write z (s.regs.read z r) v = .ok () t →
    u = markPoint s ∧ Accessed u v ∧ Written z p (s.regs.read z r) v t ∧ Completes i s (setReg t z r a)

/-- A selector in a slot of width `z`, where a doubleword has an unspecified upper half (U7). -/
def padded (z : Size) (r : SReg) (s : State) : Word :=
  selSlot z.bytes ((Config.freeWord s.draws).setWidth 16) (s.seg r).sel

/-- The state after MOV SS or POP SS: interrupts and debug exceptions are inhibited at the next boundary (R907). -/
def inhibited (r : SReg) (s : State) : State :=
  if r = .ss then { s with latches := { s.latches with inhibit := true } } else s

/-- The instruction pops a selector into a segment register. -/
def PopsSeg (i : Instr) (z : Size) (r : SReg) : Prop :=
  ∀ s v u t, Plain s → pop z (markPoint s) = .ok v u → loadSeg r (v.setWidth 16) u = .ok () t →
    Popped z (markPoint s) u ∧ SegLoaded r u t ∧ Completes i s (inhibited r t)

/-- A chain of pushes of width `z`. -/
def PushChain (z : Size) (vs : List Word) (s t : State) : Prop :=
  match vs with
  | [] => t = s
  | v :: rest => ∃ u, push z v s = .ok () u ∧ PushChain z rest u t

/-- A chain of pops of width `z`. -/
def PopChain (z : Size) (vs : List Word) (s t : State) : Prop :=
  match vs with
  | [] => t = s
  | v :: rest => ∃ u, pop z s = .ok v u ∧ PopChain z rest u t

/-- What `n` pushes leave, one after the other. -/
def PushedChain (z : Size) (n : Nat) (s t : State) : Prop :=
  match n with
  | 0 => t = s
  | n + 1 => ∃ u, Pushed z s u ∧ PushedChain z n u t

/-- What `n` pops leave, one after the other. -/
def PoppedChain (z : Size) (n : Nat) (s t : State) : Prop :=
  match n with
  | 0 => t = s
  | n + 1 => ∃ u, Popped z s u ∧ PoppedChain z n u t

/-- PUSHA or PUSHAD. Outside protected mode the odd stack pointers below 16 are excluded there: 1, 3 and 5 shut the
processor down, and 7, 9, 11, 13 and 15 raise exception 13 (R412). -/
def PushesAll (i : Instr) (z : Size) : Prop :=
  ∀ s, Plain s →
    let sp := stackOff s.stackSize s.regs.esp
    (∀ t, Mem.wf s.mem = true → (s.isProtected = true ∨ ¬(sp.toNat < 16 ∧ sp.toNat % 2 = 1)) →
      PushChain z [s.regs.eax, s.regs.ecx, s.regs.edx, s.regs.ebx, s.regs.esp, s.regs.ebp, s.regs.esi, s.regs.edi]
        (markPoint s) t →
      PushedChain z 8 (markPoint s) t ∧ Completes i s t) ∧
    (s.isProtected = false → sp = 1 ∨ sp = 3 ∨ sp = 5 → ∃ t, exec i s = .next t ∧ t.latches.shutdown = true ∧
      t.regs = s.regs ∧ t.mem = s.mem ∧ t.segs = s.segs ∧ t.flags = s.flags) ∧
    (s.isProtected = false → sp = 7 ∨ sp = 9 ∨ sp = 11 ∨ sp = 13 ∨ sp = 15 →
      exec i s = deliverExc (.gp 0) (markPoint s) (markPoint s))

/-- POPA or POPAD. -/
def PopsAll (i : Instr) (z : Size) : Prop :=
  ∀ s t di si bp x bx dx cx ax, Plain s → PopChain z [di, si, bp, x, bx, dx, cx, ax] (markPoint s) t →
    PoppedChain z 8 (markPoint s) t ∧
      Completes i s
        (setReg
          (setReg
            (setReg
              (setReg
                (setReg (setReg (setReg t z .edi (ofWord z di)) z .esi (ofWord z si)) z .ebp (ofWord z bp)) z .ebx
                (ofWord z bx))
              z .edx (ofWord z dx))
            z .ecx (ofWord z cx))
          z .eax (ofWord z ax))

/-- LDS, LES, LSS, LFS, LGS. -/
def LoadsPointer (i : Instr) (sr : SReg) (o : OSize) (r : Reg) (ea : Ea) : Prop :=
  ∀ s off sel u t, Plain s → readFarPtr o.size ea (markPoint s) = .ok (off, sel) u → loadSeg sr sel u = .ok () t →
    Accessed (markPoint s) u ∧ SegLoaded sr u t ∧ Completes i s (setReg t o.size r (ofWord o.size off))

/-- The instruction of an arithmetic or logical operation. -/
def AluOp.instr (op : AluOp) (f : AluForm) : Instr :=
  match op with
  | .add => .add f
  | .or => .or f
  | .adc => .adc f
  | .sbb => .sbb f
  | .and => .and f
  | .sub => .sub f
  | .xor => .xor f
  | .cmp => .cmp f

/-- The free value that stands for AF after AND, OR and XOR; the other operations draw none. -/
def AluOp.freeAf (op : AluOp) (s : State) : Bool := if op.isLogic then Config.freeBit s.draws else false

/-- How many free values an arithmetic or logical operation draws. -/
def AluOp.drawn (op : AluOp) : Nat := if op.isLogic then 1 else 0

/-- The result of an operation in a state. -/
def AluOp.out {n : Nat} (op : AluOp) (s : State) (a b : BitVec n) : BitVec n :=
  (op.apply s.flags (op.freeAf s) a b).1

/-- The flags of an operation in a state. -/
def AluOp.flagsOut {n : Nat} (op : AluOp) (s : State) (a b : BitVec n) : Flags :=
  (op.apply s.flags (op.freeAf s) a b).2

/-- An arithmetic or logical instruction whose destination is an r/m operand and whose source is a value: CMP only reads
its destination. -/
def AluTo (op : AluOp) (f : AluForm) (z : Size) (rm : Rm) (b : State → z.Val) : Prop :=
  if op = .cmp then
    Loads (.cmp f) z rm fun t a => { t with flags := AluOp.cmp.flagsOut t a (b t) }
  else
    Updates (op.instr f) (aluDestMem f) z rm op.drawn (fun t a => op.out t a (b t)) fun t a =>
      op.flagsOut t a (b t)

/-- The same for a source in an r/m operand and a destination register. -/
def AluFrom (op : AluOp) (f : AluForm) (z : Size) (r : Reg) (rm : Rm) : Prop :=
  Loads (op.instr f) z rm fun t b =>
    let a := t.regs.read z r
    let w := if op = .cmp then t else setReg t z r (op.out t a b)
    { w with flags := op.flagsOut t a b, draws := t.draws + op.drawn }

/-- TEST: the flags of AND, nothing stored; `b` is the source. -/
def TestsAnd (i : Instr) (z : Size) (rm : Rm) (b : State → z.Val) : Prop :=
  Loads i z rm fun t a =>
    { t with flags := t.flags.logic (a &&& b t) (Config.freeBit t.draws), draws := t.draws + 1 }

/-- The state after a multiplication has written its result: CF and OF say whether the result overflows, and the other
status flags are undefined (R460, R462). -/
def multiplied (t : State) (g : Regs) (overflow : Bool) : State :=
  { t with
    regs := g
    flags := t.flags.product (statusAt t.draws) overflow
    draws := t.draws + 6 }

/-- The double-width value that DIV divides: AX, DX:AX or EDX:EAX (R458). -/
def pairOf (g : Regs) (z : Size) : BitVec (z.bits + z.bits) :=
  match z with
  | .b => g.read .w .eax
  | .w => g.read .w .edx ++ g.read .w .eax
  | .d => g.edx ++ g.eax

/-- The registers with both halves of a double-width result written. -/
def withPair (g : Regs) (z : Size) (hi lo : z.Val) : Regs :=
  match z with
  | .b => g.write .w .eax (hi ++ lo)
  | .w => (g.write .w .eax lo).write .w .edx hi
  | .d => (g.write .d .eax lo).write .d .edx hi

/-- The state after a division: all six status flags are undefined (R458). -/
def divided (t : State) (z : Size) (q r : z.Val) : State :=
  { t with
    regs := withPair t.regs z r q
    flags := t.flags.undefined (statusAt t.draws)
    draws := t.draws + 6 }

/-- DIV: exact division completes when the divisor is not 0 and the quotient fits; else #DE (R458, R910). -/
def Divides (i : Instr) (z : Size) (rm : Rm) : Prop :=
  ∀ s v t, Plain s → readRm z rm (markPoint s) = .ok v t →
    Accessed (markPoint s) t ∧
      (v.toNat ≠ 0 ∧ (pairOf t.regs z).toNat / v.toNat < 2 ^ z.bits →
        ∃ q r : z.Val, (pairOf t.regs z).toNat = q.toNat * v.toNat + r.toNat ∧ r.toNat < v.toNat ∧
          Completes i s (divided t z q r)) ∧
      (v.toNat = 0 ∨ 2 ^ z.bits ≤ (pairOf t.regs z).toNat / v.toNat → exec i s = deliverExc .de (markPoint s) t)

/-- IDIV: the quotient is truncated toward 0 and the remainder has the sign of the dividend; a divisor of 0 and a quotient
that does not fit are #DE (R459, R910). -/
def DividesSigned (i : Instr) (z : Size) (rm : Rm) : Prop :=
  ∀ s v t, Plain s → readRm z rm (markPoint s) = .ok v t →
    let n := (pairOf t.regs z).toInt
    let fits := -(2 ^ (z.bits - 1)) ≤ n.tdiv v.toInt ∧ n.tdiv v.toInt ≤ 2 ^ (z.bits - 1) - 1
    Accessed (markPoint s) t ∧
      (v.toInt ≠ 0 ∧ fits →
        ∃ q r : z.Val, n = q.toInt * v.toInt + r.toInt ∧ |r.toInt| < |v.toInt| ∧
          (r.toInt = 0 ∨ (r.toInt < 0 ↔ n < 0)) ∧ Completes i s (divided t z q r)) ∧
      (v.toInt = 0 ∨ ¬fits → exec i s = deliverExc .de (markPoint s) t)

/-- A shift or rotate of an r/m operand by a count (R531, R536): a masked count of 0 writes nothing, changes no flag of a
memory operand (D59), and leaves OF undefined after a rotate of a register. -/
def ShiftTo (op : ShiftOp) (i : Instr) (z : Size) (rm : Rm) (count : State → Byte) : Prop :=
  ∀ s p u a v, Plain s → Mem.wf s.mem = true → place rm (markPoint s) = .ok p u → p.readRmw z u = .ok a v →
    u = markPoint s ∧ Accessed u v ∧
      ((count v).toNat % 32 = 0 →
        Completes i s
          { v with
            flags :=
              if op.isRotate = true ∧ p.isMem = false then { v.flags with ov := Config.freeBit (v.draws + 5) }
              else v.flags
            draws := v.draws + 6 }) ∧
      ((count v).toNat % 32 ≠ 0 → ∀ t,
        p.write z (op.apply v.flags (statusAt v.draws) a ((count v).toNat % 32)).1 { v with draws := v.draws + 6 }
          = .ok () t →
        Written z p (op.apply v.flags (statusAt v.draws) a ((count v).toNat % 32)).1
            { v with draws := v.draws + 6 } t ∧
          Completes i s
            { t with flags := (op.apply v.flags (statusAt v.draws) a ((count v).toNat % 32)).2 })

/-- The instruction of a shift or rotate. -/
def ShiftOp.instr (op : ShiftOp) (f : ShiftForm) : Instr :=
  match op with
  | .rol => .rol f
  | .ror => .ror f
  | .rcl => .rcl f
  | .rcr => .rcr f
  | .shl => .shl f
  | .shr => .shr f
  | .sar => .sar f

/-- SHLD and SHRD (R541, R542): `out` gives the result and the flags; a count of 0 writes nothing, and a count of at least
the operand's width leaves an undefined result and undefined flags (U9). -/
def DoubleShift (i : Instr) (z : Size) (rm : Rm) (r : Reg) (count : State → Byte)
    (out : Flags → Status → z.Val → z.Val → z.Val → Nat → z.Val × Flags) : Prop :=
  ∀ s p u a v, Plain s → Mem.wf s.mem = true → place rm (markPoint s) = .ok p u → p.readRmw z u = .ok a v →
    u = markPoint s ∧ Accessed u v ∧
      ((count s).toNat % 32 = 0 → Completes i s { v with draws := v.draws + 7 }) ∧
      ((count s).toNat % 32 ≠ 0 → ∀ t,
        let x := out v.flags (statusAt (v.draws + 1)) (ofWord z (Config.freeWord v.draws)) a (s.regs.read z r)
          ((count s).toNat % 32)
        p.write z x.1 { v with draws := v.draws + 7 } = .ok () t →
        Written z p x.1 { v with draws := v.draws + 7 } t ∧ Completes i s { t with flags := x.2 })

/-- A bit instruction on a place: CF becomes the bit, the other status flags are undefined, and BTS, BTR and BTC write the
operand with that bit set, reset or complemented (R525 to R528). `mem` says whether LOCK may precede it. -/
def BitsTo (op : BitOp) (i : Instr) (mem : Bool) (z : Size) (pl : M Place) (k : State → Nat) : Prop :=
  ∀ s p u a v, PrefixesFit s (op != .test && mem) → Mem.wf s.mem = true → pl (markPoint s) = .ok p u →
    (if op = .test then p.read z else p.readRmw z) u = .ok a v →
    u = markPoint s ∧ Accessed u v ∧
      (op = .test →
        Completes i s
          { v with
            flags := v.flags.bitTest (statusAt v.draws) (a.getLsbD (k s))
            draws := v.draws + 6 }) ∧
      (op ≠ .test → ∀ t, p.write z (op.apply a (k s)) { v with draws := v.draws + 6 } = .ok () t →
        Written z p (op.apply a (k s)) { v with draws := v.draws + 6 } t ∧
          Completes i s { t with flags := v.flags.bitTest (statusAt v.draws) (a.getLsbD (k s)) })

/-- The instruction of a bit operation with the offset in a register. -/
def BitOp.instrR (op : BitOp) (o : OSize) (rm : Rm) (r : Reg) : Instr :=
  match op with
  | .test => .btRmvRv o rm r
  | .set => .btsRmvRv o rm r
  | .reset => .btrRmvRv o rm r
  | .complement => .btcRmvRv o rm r

/-- The instruction of a bit operation with the offset in the instruction. -/
def BitOp.instrImm (op : BitOp) (o : OSize) (rm : Rm) (i : BitVec 8) : Instr :=
  match op with
  | .test => .btRmvImm8 o rm i
  | .set => .btsRmvImm8 o rm i
  | .reset => .btrRmvImm8 o rm i
  | .complement => .btcRmvImm8 o rm i

/-- BSF and BSR (R523, R524): for a source that is not 0, the destination is the index of a set bit of which `best` says
that no better one exists, and ZF is clear; for 0, ZF is set and the destination is undefined (U2). The other status
flags are undefined. -/
def Scans (i : Instr) (z : Size) (r : Reg) (rm : Rm) (best : Nat → Nat → Prop) : Prop :=
  ∀ s v t, Plain s → readRm z rm (markPoint s) = .ok v t →
    Accessed (markPoint s) t ∧
      (v = 0 →
        Completes i s
          { setReg t z r (ofWord z (Config.freeWord t.draws)) with
            flags := t.flags.bitScan (statusAt (t.draws + 1)) true
            draws := t.draws + 7 }) ∧
      (v ≠ 0 → ∃ k, k < z.bits ∧ v.getLsbD k = true ∧ (∀ j, v.getLsbD j = true → best k j) ∧
        Completes i s
          { setReg t z r (BitVec.ofNat z.bits k) with
            flags := t.flags.bitScan (statusAt (t.draws + 1)) false
            draws := t.draws + 7 })

/-- MUL (R462): the exact unsigned product; CF and OF say whether the high half is not 0. -/
def Multiplies (i : Instr) (z : Size) (rm : Rm) : Prop :=
  ∀ s v t, Plain s → readRm z rm (markPoint s) = .ok v t →
    Accessed (markPoint s) t ∧
      ∃ hi lo : z.Val, hi.toNat * 2 ^ z.bits + lo.toNat = (t.regs.read z .eax).toNat * v.toNat ∧
        Completes i s (multiplied t (withPair t.regs z hi lo) (hi != 0))

/-- IMUL with one operand (R460): the exact signed product; CF and OF say whether it does not fit in the low half. -/
def MultipliesSigned (i : Instr) (z : Size) (rm : Rm) : Prop :=
  ∀ s v t, Plain s → readRm z rm (markPoint s) = .ok v t →
    Accessed (markPoint s) t ∧
      ∃ hi lo : z.Val, hi.toInt * 2 ^ z.bits + lo.toNat = (t.regs.read z .eax).toInt * v.toInt ∧
        Completes i s
          (multiplied t (withPair t.regs z hi lo) (lo.toInt != (t.regs.read z .eax).toInt * v.toInt))

/-- IMUL with a destination register (R460): the low half of the product of the operand and `b`; CF and OF say whether
that is not the whole product. -/
def MultipliesInto (i : Instr) (z : Size) (r : Reg) (rm : Rm) (b : State → z.Val) : Prop :=
  ∀ s v t, Plain s → readRm z rm (markPoint s) = .ok v t →
    Accessed (markPoint s) t ∧
      Completes i s
        (multiplied t (t.regs.write z r (v * b t)) ((v * b t).toInt != v.toInt * (b t).toInt))

/-- The byte that SETcc stores. -/
def condByte (c : Cond) (s : State) : Byte := if condHolds c s.flags then 1 else 0

end Sys2Proof.Machine
end

