-- ==== Sys2Proof/ClaimsFormulas.lean ====
section
/-! DEFINITION. The formulas that the statements hold the model's computations to: effective addresses, the stack pointer,
bits of operands, arithmetic, rotates and shifts, descriptors. Each is written from the spec's own description, in whole
numbers or bit by bit. -/

namespace Sys2Proof.Machine

/-! Effective addresses (R312 to R315). -/

/-- The registers that a 16-bit effective address adds (R312). -/
def eaRegs16 (b : Base16) : List Reg :=
  match b with
  | .bxSi => [.ebx, .esi]
  | .bxDi => [.ebx, .edi]
  | .bpSi => [.ebp, .esi]
  | .bpDi => [.ebp, .edi]
  | .si => [.esi]
  | .di => [.edi]
  | .bp => [.ebp]
  | .bx => [.ebx]

/-- A 16-bit displacement as a signed number. -/
def disp16Int (d : Disp16) : Int :=
  match d with
  | .none => 0
  | .d8 v => v.toInt
  | .d16 v => v.toInt

/-- A 32-bit displacement as a signed number. -/
def disp32Int (d : Disp32) : Int :=
  match d with
  | .none => 0
  | .d8 v => v.toInt
  | .d32 v => v.toInt

/-- The scaled index of a SIB form: register number 100 names none (R315). -/
def scaledIndex (g : Regs) (ss : BitVec 2) (x : Reg) : Nat := if x = .esp then 0 else (g.get x).toNat * 2 ^ ss.toNat

/-- The sum that an effective address is, before it wraps (R312, R314, R315). -/
def eaSum (g : Regs) (e : Ea) : Int :=
  match e with
  | .m16 b d => (((eaRegs16 b).map fun r => (g.get r).toNat % 2 ^ 16).sum : Nat) + disp16Int d
  | .abs16 d => d.toNat
  | .m32 b d => (g.get b).toNat + disp32Int d
  | .abs32 d => d.toNat
  | .sib ss x b d => (g.get b).toNat + scaledIndex g ss x + disp32Int d
  | .sibAbs ss x d => scaledIndex g ss x + d.toNat

/-- Where an effective address wraps: its address size, in bits. -/
def eaBits (e : Ea) : Nat :=
  match e with
  | .m16 _ _ => 16
  | .abs16 _ => 16
  | .m32 _ _ => 32
  | .abs32 _ => 32
  | .sib _ _ _ _ => 32
  | .sibAbs _ _ _ => 32

/-- The base registers of an effective address; an index of a 32-bit form is none (R312 to R315). -/
def eaBases (e : Ea) : List Reg :=
  match e with
  | .m16 b _ => eaRegs16 b
  | .abs16 _ => []
  | .m32 b _ => [b]
  | .abs32 _ => []
  | .sib _ _ b _ => [b]
  | .sibAbs _ _ _ => []

/-- The segment of a memory operand: the prefix's, else SS where BP, EBP or ESP is a base, else DS (R286, R313). -/
def operandSeg (s : State) (e : Ea) : SReg :=
  s.cur.seg.getD (if .ebp ∈ eaBases e ∨ .esp ∈ eaBases e then .ss else .ds)

/-- Every memory operand lies at its effective address, which wraps at the address size, in its segment. -/
def AddressesAreSums : Prop :=
  (∀ g e, ((eaVal g e).toNat : Int) = eaSum g e % 2 ^ eaBits e) ∧
    ∀ s e, eaUndefined e = false → place (.mem e) s = .ok (.mem (operandSeg s e) (eaVal s.regs e)) s

/-! The stack (R405). -/

/-- The offset of the stack pointer `k` bytes away: SP modulo 2^16 or ESP modulo 2^32, by the B bit of SS. -/
def spOff (s : State) (k : Int) : Int := (s.regs.esp.toNat + k) % (if s.segs.ss.db = true then 2 ^ 32 else 2 ^ 16)

/-- The state with the stack pointer moved by `k`: ESP, or SP with the upper half of ESP kept. -/
def SpMoved (k : Int) (s t : State) : Prop :=
  ∃ v : Word,
    (v.toNat : Int) = ((if s.segs.ss.db = true then 0 else s.regs.esp.toNat / 2 ^ 16 * 2 ^ 16) : Nat) + spOff s k ∧
    t = { s with regs := { s.regs with esp := v } }

/-- A push writes its item below the top of the stack and then moves the stack pointer there. -/
def PushWritesBelow : Prop :=
  ∀ (z : Size) v s t, push z v s = .ok () t ↔
    ∃ off : Word, (off.toNat : Int) = spOff s (-z.bytes) ∧
      ∃ u, writeMem .ss off z.bytes v s = .ok () u ∧ SpMoved (-z.bytes) u t

/-- A pop reads the item at the top of the stack and then moves the stack pointer above it. -/
def PopReadsTheTop : Prop :=
  ∀ (z : Size) v s t, pop z s = .ok v t ↔
    ∃ off : Word, (off.toNat : Int) = spOff s 0 ∧ ∃ u, readMem .ss off z.bytes s = .ok v u ∧ SpMoved z.bytes u t

/-- A full pointer in memory: the offset comes first, and the selector is the word after it (R403). -/
def FarPointerInMemory : Prop :=
  ∀ z ea s off sel t, readFarPtr z ea s = .ok (off, sel) t ↔
    eaUndefined ea = false ∧ ∃ u w, readMem (operandSeg s ea) (eaVal s.regs ea) z.bytes s = .ok off u ∧
      readMem (operandSeg s ea) (eaVal s.regs ea + BitVec.ofNat 32 z.bytes) 2 u = .ok w t ∧ sel = w.setWidth 16

/-! Bits (R520, R521, R526 to R528). -/

/-- What a bit instruction leaves of the bit it names. -/
def BitOp.bit (op : BitOp) (b : Bool) : Bool :=
  match op with
  | .test => b
  | .set => true
  | .reset => false
  | .complement => !b

/-- A bit instruction changes the bit it names and no other. -/
def BitsAreChangedSingly : Prop :=
  ∀ (op : BitOp) (z : Size) (v : z.Val) k j, k < z.bits → j < z.bits →
    (op.apply v k).getLsbD j = if j = k then op.bit (v.getLsbD k) else v.getLsbD j

/-- The operand that a register bit offset selects: as many operands away from the effective address as the signed offset
holds whole widths, rounded toward negative infinity. -/
def BitOffsetsSelectOperands : Prop :=
  ∀ (z : Size) (off : z.Val) s,
    (∀ r, bitPlace z (.reg r) off s = .ok (.reg r) s) ∧
    ∀ e, eaUndefined e = false → ∃ a : Word,
      (a.toNat : Int) = ((eaVal s.regs e).toNat + z.bytes * off.toInt.fdiv z.bits) % 2 ^ eaBits e ∧
        bitPlace z (.mem e) off s = .ok (.mem (operandSeg s e) a) s

/-! Arithmetic, logic, shifts and rotates. -/

/-- The flags `g` differ from `f` in the six status flags alone. -/
def StatusOnly (f g : Flags) : Prop :=
  { g with cf := f.cf, pf := f.pf, af := f.af, zf := f.zf, sf := f.sf, ov := f.ov } = f

/-- SF, ZF and PF describe a result: PF says that its low byte holds an even number of 1 bits (R450). -/
def Describes {n : Nat} (g : Flags) (res : BitVec n) : Prop :=
  g.sf = decide (res.toInt < 0) ∧ g.zf = decide (res.toNat = 0) ∧
    g.pf = decide (((List.range 8).filter res.getLsbD).length % 2 = 0)

/-- The flags of an addition are those of exact arithmetic: CF is the carry out, OF says that the signed result does not
fit, AF is the carry out of bit 3 (R451). -/
def AddsExactly : Prop :=
  ∀ (z : Size) (f : Flags) (a b : z.Val) (c : Bool),
    let res := a + b + (BitVec.ofBool c).setWidth z.bits
    let g := f.add a b c
    StatusOnly f g ∧ Describes g res ∧ (if g.cf then 2 ^ z.bits else 0) + res.toNat = a.toNat + b.toNat + c.toNat ∧
      (g.ov = false ↔ res.toInt = a.toInt + b.toInt + c.toNat) ∧
      g.af = decide (15 < a.toNat % 16 + b.toNat % 16 + c.toNat)

/-- The flags of a subtraction: CF and AF are borrows (R452). -/
def SubtractsExactly : Prop :=
  ∀ (z : Size) (f : Flags) (a b : z.Val) (c : Bool),
    let res := a - b - (BitVec.ofBool c).setWidth z.bits
    let g := f.sub a b c
    StatusOnly f g ∧ Describes g res ∧
      (res.toNat : Int) - (if g.cf then 2 ^ z.bits else 0) = a.toNat - b.toNat - c.toNat ∧
      (g.ov = false ↔ res.toInt = a.toInt - b.toInt - c.toNat) ∧
      g.af = decide (a.toNat % 16 < b.toNat % 16 + c.toNat)

/-- The eight operations of Group 1: sums and differences modulo the width, with the flags of that addition or subtraction;
AND, OR and XOR bit by bit, with CF and OF clear and AF the free value (R454 to R456, R464, R465, R522, R530, R544). The
flags of AND are those of TEST too (R543). -/
def OperationsAreExact : Prop :=
  ∀ (z : Size) (f : Flags) (u : Bool) (a b : z.Val),
    let of (op : AluOp) := op.apply f u a b
    let modulus : Int := 2 ^ z.bits
    (((of .add).1.toNat : Int) = (a.toNat + b.toNat) % modulus ∧ (of .add).2 = f.add a b false) ∧
    (((of .adc).1.toNat : Int) = (a.toNat + b.toNat + f.cf.toNat) % modulus ∧ (of .adc).2 = f.add a b f.cf) ∧
    (((of .sub).1.toNat : Int) = (a.toNat - b.toNat) % modulus ∧ (of .sub).2 = f.sub a b false) ∧
    (((of .cmp).1.toNat : Int) = (a.toNat - b.toNat) % modulus ∧ (of .cmp).2 = f.sub a b false) ∧
    (((of .sbb).1.toNat : Int) = (a.toNat - b.toNat - f.cf.toNat) % modulus ∧ (of .sbb).2 = f.sub a b f.cf) ∧
    (∀ k, k < z.bits →
      (of .and).1.getLsbD k = (a.getLsbD k && b.getLsbD k) ∧ (of .or).1.getLsbD k = (a.getLsbD k || b.getLsbD k) ∧
        (of .xor).1.getLsbD k = (a.getLsbD k != b.getLsbD k)) ∧
    (∀ op, op = .and ∨ op = .or ∨ op = .xor →
      (of op).2 = f.logic (of op).1 u ∧ StatusOnly f (of op).2 ∧ Describes (of op).2 (of op).1 ∧
        (of op).2.cf = false ∧ (of op).2.ov = false ∧ (of op).2.af = u)

/-- Bit `j` of an operand with CF above its highest bit (R534). -/
def ringBit {n : Nat} (v : BitVec n) (cf : Bool) (j : Nat) : Bool := if j = n then cf else v.getLsbD j

/-- The rotates as a movement of bits: ROL and ROR of the operand, with CF the last bit moved; RCL and RCR of the operand
with CF above it. OF is defined after a count of 1, and SF, ZF, AF and PF are not affected (R531 to R535). -/
def RotatesMoveBits : Prop :=
  ∀ (z : Size) (f : Flags) (u : Status) (v : z.Val) (k : Nat), 0 < k → k < 32 →
    let n := z.bits
    (let x := ShiftOp.rol.apply f u v k
     (∀ j, j < n → x.1.getLsbD ((j + k) % n) = v.getLsbD j) ∧ x.2.cf = x.1.getLsbD 0 ∧
       x.2 = { f with cf := x.2.cf, ov := if k = 1 then x.1.getLsbD (n - 1) != x.2.cf else u.ov }) ∧
    (let x := ShiftOp.ror.apply f u v k
     (∀ j, j < n → x.1.getLsbD j = v.getLsbD ((j + k) % n)) ∧ x.2.cf = x.1.getLsbD (n - 1) ∧
       x.2 = { f with cf := x.2.cf, ov := if k = 1 then x.1.getLsbD (n - 1) != x.1.getLsbD (n - 2) else u.ov }) ∧
    (let x := ShiftOp.rcl.apply f u v k
     (∀ j, j ≤ n → ringBit x.1 x.2.cf ((j + k) % (n + 1)) = ringBit v f.cf j) ∧
       x.2 = { f with cf := x.2.cf, ov := if k = 1 then x.1.getLsbD (n - 1) != x.2.cf else u.ov }) ∧
    let x := ShiftOp.rcr.apply f u v k
    (∀ j, j ≤ n → ringBit x.1 x.2.cf j = ringBit v f.cf ((j + k) % (n + 1))) ∧
      x.2 = { f with cf := x.2.cf, ov := if k = 1 then x.1.getLsbD (n - 1) != x.1.getLsbD (n - 2) else u.ov }

/-- The shifts as arithmetic: SHL multiplies, SHR and SAR divide by a power of two; CF is the last bit shifted out (for SHL
by more than the width it is 0, for SAR the sign); SF, ZF and PF describe the result, AF is undefined, and OF is defined
after a count of 1 (R536 to R539). -/
def ShiftsAreExact : Prop :=
  ∀ (z : Size) (f : Flags) (u : Status) (v : z.Val) (k : Nat), 0 < k →
    (let x := ShiftOp.shl.apply f u v k
     x.1.toNat = v.toNat * 2 ^ k % 2 ^ z.bits ∧ x.2.cf = (decide (k ≤ z.bits) && v.getLsbD (z.bits - k)) ∧
       StatusOnly f x.2 ∧ Describes x.2 x.1 ∧ x.2.af = u.af ∧
       x.2.ov = if k = 1 then x.1.getLsbD (z.bits - 1) != x.2.cf else u.ov) ∧
    (let x := ShiftOp.shr.apply f u v k
     x.1.toNat = v.toNat / 2 ^ k ∧ x.2.cf = v.getLsbD (k - 1) ∧ StatusOnly f x.2 ∧ Describes x.2 x.1 ∧ x.2.af = u.af ∧
       x.2.ov = if k = 1 then v.getLsbD (z.bits - 1) else u.ov) ∧
    let x := ShiftOp.sar.apply f u v k
    x.1.toInt = v.toInt / 2 ^ k ∧ x.2.cf = v.getLsbD (min (k - 1) (z.bits - 1)) ∧ StatusOnly f x.2 ∧
      Describes x.2 x.1 ∧ x.2.af = u.af ∧ x.2.ov = if k = 1 then false else u.ov

/-- SHLD and SHRD with a count below the width move bits of the source in where the operand's leave, CF is the last bit that
left, OF after a count of 1 says that the sign changed; with a greater count the result and the six flags are undefined
(R541, R542). -/
def DoubleShiftsAreExact : Prop :=
  ∀ (z : Size) (f : Flags) (u : Status) (w v src : z.Val) (k : Nat), 0 < k →
    (let x := shldApply f u w v src k
     let y := shrdApply f u w v src k
     k < z.bits →
       (x.1.toNat = v.toNat * 2 ^ k % 2 ^ z.bits + src.toNat / 2 ^ (z.bits - k) ∧
         x.2.cf = v.getLsbD (z.bits - k) ∧ StatusOnly f x.2 ∧ Describes x.2 x.1 ∧ x.2.af = u.af ∧
         x.2.ov = if k = 1 then v.getLsbD (z.bits - 1) != x.1.getLsbD (z.bits - 1) else u.ov) ∧
       y.1.toNat = v.toNat / 2 ^ k + src.toNat * 2 ^ (z.bits - k) % 2 ^ z.bits ∧ y.2.cf = v.getLsbD (k - 1) ∧
         StatusOnly f y.2 ∧ Describes y.2 y.1 ∧ y.2.af = u.af ∧
         y.2.ov = if k = 1 then v.getLsbD (z.bits - 1) != y.1.getLsbD (z.bits - 1) else u.ov) ∧
    (z.bits ≤ k →
      let lost := { f with cf := u.cf, pf := u.pf, af := u.af, zf := u.zf, sf := u.sf, ov := u.ov }
      shldApply f u w v src k = (w, lost) ∧ shrdApply f u w v src k = (w, lost))

/-! Descriptors (R82, R83, R160, R170, R961). -/

/-- The fields of a descriptor, from its two doublewords. -/
def DescriptorFields : Prop :=
  ∀ d : Desc,
    let lo := d.lo.toNat
    let hi := d.hi.toNat
    let raw := hi / 2 ^ 16 % 2 ^ 4 * 2 ^ 16 + lo % 2 ^ 16
    d.base.toNat = hi / 2 ^ 24 * 2 ^ 24 + hi % 2 ^ 8 * 2 ^ 16 + lo / 2 ^ 16 ∧
    d.limit.toNat = (if hi / 2 ^ 23 % 2 = 1 then raw * 2 ^ 12 + 0xFFF else raw) ∧
    d.db = decide (hi / 2 ^ 22 % 2 = 1) ∧ d.present = decide (hi / 2 ^ 15 % 2 = 1) ∧
    d.dpl.toNat = hi / 2 ^ 13 % 2 ^ 2 ∧ d.dt = decide (hi / 2 ^ 12 % 2 = 1) ∧ d.typ.toNat = hi / 2 ^ 8 % 2 ^ 4 ∧
    d.gateSel.toNat = lo / 2 ^ 16 ∧
    d.gateOff.toNat = (if hi / 2 ^ 11 % 2 = 1 then hi / 2 ^ 16 * 2 ^ 16 else 0) + lo % 2 ^ 16 ∧
    d.gateCount = hi % 2 ^ 5 ∧
    ∀ sel, d.accessed.toSeg sel
      = { sel := sel, base := d.base, limit := d.limit, valid := true, typ := d.typ ||| 1, dt := d.dt, dpl := d.dpl,
          db := d.db }

/-- Where the descriptor of a selector lies: at the base of the GDT, or with TI set of a valid LDT, plus the selector
without its low three bits, if its eight bytes are within the limit of that table. -/
def DescriptorPlace : Prop :=
  ∀ s (sel : Half) lin,
    let off := sel.toNat / 8 * 8
    descAddr s sel = some lin ↔
      if sel.getLsbD 2 = true then
        s.sys.ldtr.valid = true ∧ off + 7 ≤ s.sys.ldtr.limit.toNat ∧ lin = s.sys.ldtr.base + BitVec.ofNat 32 off
      else off + 7 ≤ s.sys.gdtr.limit.toNat ∧ lin = s.sys.gdtr.base + BitVec.ofNat 32 off

/-- A descriptor is fetched as two doublewords, the low one first; a selector outside its table raises the exception. -/
def DescriptorFetch : Prop :=
  (∀ sel e s lin d t, fetchDesc sel e s = .ok (lin, d) t ↔
    descAddr s sel = some lin ∧ ∃ u, sysRead lin 4 s = .ok d.lo u ∧ sysRead (lin + 4) 4 u = .ok d.hi t) ∧
  ∀ sel e s, descAddr s sel = none → fetchDesc sel e s = .error (.exc e) s

end Sys2Proof.Machine
end

