-- ==== Sys2Proof/ClaimsControl.lean ====
section
/-! DEFINITION. The words in which the statements on control transfer, interrupts and string instructions are written. -/

namespace Sys2Proof.Machine

/-- In protected mode the target of a near transfer must lie in the code segment (R601, R620, D30). -/
abbrev NearFits (s : State) (v : Word) : Prop := s.isProtected = true → s.segs.cs.inLimit v 1 = true

/-- A new EIP; what was prefetched is discarded (R265). -/
def goTo (s : State) (v : Word) : State := { s with eip := v, queue := [] }

/-- A new CS and EIP. -/
def goFar (s : State) (g : SegReg) (v : Word) : State := goTo { s with segs := s.segs.put .cs g } v

/-- The target of a relative jump: the displacement added to the address of the next instruction; a 16-bit operand size
clears the upper half (R620, R622). -/
def relTarget (o : OSize) (d : Word) (s : State) : Word :=
  match o with
  | .o16 => ((s.eip + d).setWidth 16).setWidth 32
  | .o32 => s.eip + d

/-- The instruction jumps to `target` if `c` holds; `pre` is what it does in either case. A target outside the code segment
is #GP(0) in protected mode. -/
def JumpsIf (i : Instr) (c : State → Bool) (target : State → Word) (pre : State → State) : Prop :=
  ∀ s, Plain s →
    (c s = false → Completes i s (pre (markPoint s))) ∧
    (c s = true → NearFits s (target s) → Completes i s (goTo (pre (markPoint s)) (target s))) ∧
    (c s = true → ¬NearFits s (target s) → exec i s = deliverExc (.gp 0) (markPoint s) (pre (markPoint s)))

/-- The instruction of a conditional jump. -/
def jccInstr (c : Cond) (f : JccForm) : Instr :=
  match c with
  | .o => .jo f
  | .no => .jno f
  | .b => .jb f
  | .ae => .jae f
  | .e => .je f
  | .ne => .jne f
  | .be => .jbe f
  | .a => .ja f
  | .s => .js f
  | .ns => .jns f
  | .p => .jp f
  | .np => .jnp f
  | .l => .jl f
  | .ge => .jge f
  | .le => .jle f
  | .g => .jg f

/-- The target of a conditional jump. -/
def jccTarget (f : JccForm) : State → Word :=
  match f with
  | .rel8 o d => relTarget o (d.signExtend 32)
  | .rel16 d => relTarget .o16 (d.signExtend 32)
  | .rel32 d => relTarget .o32 d

/-- The condition of a mnemonic on the flags, as the table of R620 prints it. -/
def condMeans (c : Cond) (f : Flags) : Prop :=
  match c with
  | .o => f.ov = true
  | .no => f.ov = false
  | .b => f.cf = true
  | .ae => f.cf = false
  | .e => f.zf = true
  | .ne => f.zf = false
  | .be => f.cf = true ∨ f.zf = true
  | .a => f.cf = false ∧ f.zf = false
  | .s => f.sf = true
  | .ns => f.sf = false
  | .p => f.pf = true
  | .np => f.pf = false
  | .l => f.sf ≠ f.ov
  | .ge => f.sf = f.ov
  | .le => f.zf = true ∨ f.sf ≠ f.ov
  | .g => f.zf = false ∧ f.sf = f.ov

/-- LOOP and its forms: the count register is decremented, and the jump is taken while it is not 0 and `ok` holds of ZF
(R624). -/
def LoopsWhile (i : Instr) (o : OSize) (a : ASize) (d : BitVec 8) (ok : Bool → Bool) : Prop :=
  JumpsIf i (fun s => s.regs.read (asizeOf a) .ecx != 1 && ok s.flags.zf) (relTarget o (d.signExtend 32)) fun s =>
    setReg s (asizeOf a) .ecx (s.regs.read (asizeOf a) .ecx - 1)

/-- CALL near: the address of the next instruction is pushed and EIP becomes `target` (R601). -/
def CallsNear (i : Instr) (o : OSize) (target : State → Word) : Prop :=
  ∀ s, Plain s → Mem.wf s.mem = true →
    (∀ t, NearFits s (target s) → push o.size s.eip (markPoint s) = .ok () t →
      Pushed o.size (markPoint s) t ∧ Completes i s (goTo t (target s))) ∧
    (¬NearFits s (target s) → exec i s = deliverExc (.gp 0) (markPoint s) (markPoint s))

/-- RET near: EIP is popped and the immediate is added to the stack pointer (R625). -/
def ReturnsNear (i : Instr) (o : OSize) (n : BitVec 16) : Prop :=
  ∀ s v t, Plain s → pop o.size (markPoint s) = .ok v t →
    Popped o.size (markPoint s) t ∧
      (NearFits s v → Completes i s (goTo (atSp t (t.regs.esp + n.setWidth 32)) v)) ∧
      (¬NearFits s v → exec i s = deliverExc (.gp 0) (markPoint s) t)

/-- CS after a far transfer in real-address mode (the selector and its base) and virtual-8086 mode (R150, R151). -/
def csOf8086 (s : State) (sel : Half) : SegReg :=
  if s.isReal then { s.segs.cs with sel := sel, base := sel.setWidth 32 <<< 4 } else SegReg.v86 sel

/-- A push of CS, whose doubleword has an upper half that the spec leaves open (D32), and one of EIP. -/
def PushesReturn (z : Size) (s t : State) : Prop :=
  ∃ u, push z (padded z .cs s) { s with draws := s.draws + 1 } = .ok () u ∧
    push z s.eip u = .ok () t

/-- RET far outside protected mode (R626). -/
def ReturnsFar (i : Instr) (o : OSize) (n : BitVec 16) : Prop :=
  ∀ s ip cs t, Plain s → s.isProtected = false → PopChain o.size [ip, cs] (markPoint s) t →
    PoppedChain o.size 2 (markPoint s) t ∧
      Completes i s (goFar (atSp t (t.regs.esp + n.setWidth 32)) (csOf8086 s (cs.setWidth 16)) ip)

/-- What a far JMP or CALL in protected mode requires of the code segment it names (R605, R623): conforming code of at
most CPL, or nonconforming code of exactly CPL with a selector whose RPL is at most CPL. -/
abbrev FarCodeFits (s : State) (sel : Half) (d : Desc) (off : Word) : Prop :=
  d.isCode = true ∧ d.present = true ∧ (d.toSeg sel).inLimit off 1 = true ∧
    ((d.conforming = true ∧ d.dpl.toNat ≤ s.cpl.toNat) ∨
      (d.conforming = false ∧ d.dpl = s.cpl ∧ (rpl sel).toNat ≤ s.cpl.toNat))

/-- CS after a load from a descriptor at a privilege level: the RPL of the selector is that level, and the descriptor is
accessed. -/
def csOfDesc (sel : Half) (level : BitVec 2) (d : Desc) : SegReg := d.accessed.toSeg (withRpl sel level)

/-- The far JMP `j` and the far CALL `c` with one operand, of operand size `o`: the pointer `sel:off` that it gives in the
state `s`, and the state `m` after it has been read (R601, R603, R604, R623). -/
inductive FarOperand : Instr → Instr → OSize → State → Half → Word → State → Prop
  | ptr16 (sel : Half) (off : BitVec 16) (s : State) :
    FarOperand (.jmpPtr16 sel off) (.callPtr16 sel off) .o16 s sel (off.setWidth 32) (markPoint s)
  | ptr32 (sel : Half) (off : Word) (s : State) :
    FarOperand (.jmpPtr32 sel off) (.callPtr32 sel off) .o32 s sel off (markPoint s)
  | mem (o : OSize) (ea : Ea) (s : State) (sel : Half) (off : Word) (m : State)
    (h : readFarPtr o.size ea (markPoint s) = .ok (off, sel) m) :
    FarOperand (.jmpFarM o ea) (.callFarM o ea) o s sel off m

/-- A far JMP `j` to a code segment in protected mode (R623), and a far CALL `c` to it, which pushes the return address
first (R605). -/
def ReachesCode (j c : Instr) (o : OSize) (s : State) (sel : Half) (off : Word) (m : State) : Prop :=
  ∀ lin d u, selNull sel = false → fetchDesc sel (.gp (selCode sel false)) m = .ok (lin, d) u →
    FarCodeFits s sel d off →
    Accessed m u ∧
      (∀ t, markAccessed lin d u = .ok () t → Accessed u t ∧ Completes j s (goFar t (csOfDesc sel s.cpl d) off)) ∧
      ∀ t v, Mem.wf s.mem = true → roomFor s.segs.ss s.regs.esp (2 * o.size.bytes) = true → PushesReturn o.size u t →
        markAccessed lin d t = .ok () v →
        PushedChain o.size 2 { u with draws := u.draws + 1 } t ∧ Accessed t v ∧
          Completes c s (goFar v (csOfDesc sel s.cpl d) off)

/-- A segment register replaced. -/
def withSeg (s : State) (r : SReg) (g : SegReg) : State := { s with segs := s.segs.put r g }

/-- What is pushed: a value; a selector, whose doubleword has an upper half that the spec leaves open (D32); or the error
code of a page fault, whose upper bits are open (U29). -/
inductive Item where
  | value (v : Word)
  | sel (v : Half)
  | page (bits : BitVec 3)

/-- The value that stands for an item of width `z`, its open bits drawn at `n`. -/
def Item.word (x : Item) (z : Size) (n : Nat) : Word :=
  match x with
  | .value v => v
  | .sel v => selSlot z.bytes ((Config.freeWord n).setWidth 16) v
  | .page bits => (Config.freeWord n).setWidth 29 ++ bits

/-- The state after the open bits of an item have been drawn. -/
def Item.drawn (x : Item) (s : State) : State :=
  match x with
  | .value _ => s
  | .sel _ => { s with draws := s.draws + 1 }
  | .page _ => { s with draws := s.draws + 1 }

/-- Items of width `z` are pushed, one after the other. -/
def PushesItems (z : Size) (l : List Item) (s t : State) : Prop :=
  match l with
  | [] => t = s
  | x :: rest => ∃ u, push z (x.word z s.draws) (x.drawn s) = .ok () u ∧ PushesItems z rest u t

/-- What the pushes of items leave. -/
def PushedItems (z : Size) (l : List Item) (s t : State) : Prop :=
  match l with
  | [] => t = s
  | x :: rest => ∃ u, Pushed z (x.drawn s) u ∧ PushedItems z rest u t

/-- The error code of an event, as it is pushed after the return frame. -/
def codeItems (c : Option ErrCode) : List Item :=
  match c with
  | none => []
  | some (.sel v) => [.sel v]
  | some (.page bits) => [.page bits]

/-- The parameters of a call gate are copied: `n` items of width `z` of the stack of the state `old`, read at the level and
through the segment of that state, are pushed on the present stack, the one farthest from the top first, so that they keep
their order (R607). That the level is that of the old state is the model's choice of log entry 71. -/
def CopiesParams (old : State) (z : Size) (n : Nat) (s t : State) : Prop :=
  match n with
  | 0 => t = s
  | n + 1 => ∃ v u w,
      let off := stackOff old.stackSize (old.regs.esp + BitVec.ofNat 32 (n * z.bytes))
      segCheck old .ss off z.bytes false = true ∧ recordHits (old.linear .ss off) z.bytes false s = .ok () u ∧
        ∃ x, linRead (old.linear .ss off) z.bytes (old.access false) u = .ok v x ∧ push z v x = .ok () w ∧
          CopiesParams old z n w t

/-- What copying `n` items to the stack leaves: as many reads and pushes. -/
def FramesCopied (z : Size) (n : Nat) (s t : State) : Prop :=
  match n with
  | 0 => t = s
  | n + 1 => ∃ u w, Accessed s u ∧ Pushed z u w ∧ FramesCopied z n w t

/-- Items of width `z` are read on the stack, from `k` items above its top. -/
def ReadsItems (z : Size) (k : Nat) (vs : List Word) (s t : State) : Prop :=
  match vs with
  | [] => t = s
  | v :: rest => ∃ u, peekStack z (k * z.bytes) s = .ok v u ∧ ReadsItems z (k + 1) rest u t

/-- The stack that the current TSS holds for an inner level, by the layout of its type: a 386 SX TSS gives SS and ESP, an
80286 TSS gives SS and SP, and the upper half of ESP is open (R230, R607, D61). -/
def TssStack (level : BitVec 2) (s : State) (ss : Half) (esp : Word) (t : State) : Prop :=
  let tr := s.sys.tr
  let n := level.toNat
  if tr.typ.getLsbD 3 = true then
    8 * n + 9 ≤ tr.limit.toNat ∧
      ∃ u x, sysRead (tr.base + BitVec.ofNat 32 (4 + 8 * n)) 4 s = .ok esp u ∧
        sysRead (tr.base + BitVec.ofNat 32 (8 + 8 * n)) 2 u = .ok x t ∧ ss = x.setWidth 16
  else
    4 * n + 5 ≤ tr.limit.toNat ∧
      ∃ u sp x, sysRead (tr.base + BitVec.ofNat 32 (2 + 4 * n)) 2 s = .ok sp u ∧
        esp = (Config.freeWord u.draws).setWidth 16 ++ (sp.setWidth 16 : Half) ∧
        sysRead (tr.base + BitVec.ofNat 32 (4 + 4 * n)) 2 { u with draws := u.draws + 1 } = .ok x t ∧
        ss = x.setWidth 16

/-- The stack segment of an inner level, from the TSS and with its checks passed: a writable data segment that is present,
of that level by its DPL and its selector, with room for `n` bytes (R607, R953). -/
def InnerStack (level : BitVec 2) (ext : Bool) (n : Nat) (s : State) (ss : Half) (esp : Word) (lin : Word) (d : Desc)
    (t : State) : Prop :=
  ∃ u, TssStack level s ss esp u ∧ selNull ss = false ∧ fetchDesc ss (.ts (selCode ss ext)) u = .ok (lin, d) t ∧
    rpl ss = level ∧ d.dpl = level ∧ d.writable = true ∧ d.present = true ∧ roomFor (d.toSeg ss) esp n = true

/-- The state with CS loaded from a descriptor at a privilege level, at an offset in that segment. -/
def atLevel (t : State) (sel : Half) (level : BitVec 2) (d : Desc) (off : Word) : State :=
  { goFar t (csOfDesc sel level d) off with cpl := level }

/-- The state with a stack loaded from a descriptor; `big` says whether all of ESP is loaded or SP alone. -/
def onStack (t : State) (ss : Half) (d : Desc) (big : Bool) (esp : Word) : State :=
  { withSeg t .ss (d.accessed.toSeg ss) with
    regs := { t.regs with esp := withSp (if big then .a32 else .a16) t.regs.esp esp } }

/-- A transfer to an inner level: CS and SS are loaded from their descriptors, which are marked accessed, CPL becomes the
level and the stack pointer is loaded: SP alone if `big` is false (R15, R607, R953). -/
def EntersLevel (sel : Half) (level : BitVec 2) (lin : Word) (d : Desc) (off : Word) (ss : Half) (slin : Word) (sd : Desc)
    (big : Bool) (esp : Word) (s t : State) : Prop :=
  ∃ a b, markAccessed lin d s = .ok () a ∧ markAccessed slin sd (atLevel a sel level d off) = .ok () b ∧
    t = onStack b ss sd big esp

/-- What such a transfer leaves: CS, SS, EIP, CPL, the stack pointer, and Accessed bits. -/
def LevelEntered (sel : Half) (level : BitVec 2) (d : Desc) (off : Word) (ss : Half) (sd : Desc) (big : Bool) (esp : Word)
    (s t : State) : Prop :=
  ∃ a b, Accessed s a ∧ Accessed (atLevel a sel level d off) b ∧ t = onStack b ss sd big esp

/-- A call gate that a far JMP or CALL may use, and the code segment that it names: the gate is present and its DPL is at
least CPL and the selector's RPL; the gate's selector is not null and names a code segment that is present (R606, R623,
R964). `m` is the state before, `t` the one after the two descriptors have been read. -/
def ThroughGate (s : State) (sel : Half) (gate : Desc) (lin : Word) (d : Desc) (m t : State) : Prop :=
  selNull sel = false ∧ gate.dt = false ∧ (gate.typ = 4 ∨ gate.typ = 12) ∧ gate.present = true ∧
    s.cpl.toNat ≤ gate.dpl.toNat ∧ (rpl sel).toNat ≤ gate.dpl.toNat ∧ selNull gate.gateSel = false ∧
    d.isCode = true ∧ d.present = true ∧
    ∃ glin u, fetchDesc sel (.gp (selCode sel false)) m = .ok (glin, gate) u ∧
      fetchDesc gate.gateSel (.gp (selCode gate.gateSel false)) u = .ok (lin, d) t

/-- A far JMP and a far CALL through a call gate (R606, R607, R623, R964). The gate gives the selector and the offset and,
for CALL, the operand size. JMP goes to conforming code of at most CPL or nonconforming code of CPL; CALL does so with the
return address pushed, and to nonconforming code of an inner level with the stack of that level, on which stand the old
SS and (E)SP, the gate's count of parameters from the old stack in their order, and the return address. -/
def PassesGate (j c : Instr) (s : State) (sel : Half) (m : State) : Prop :=
  ∀ gate lin d u, ThroughGate s sel gate lin d m u → (d.toSeg gate.gateSel).inLimit gate.gateOff 1 = true →
    let z := gateSize gate
    Accessed m u ∧
      ((d.conforming = true ∧ d.dpl.toNat ≤ s.cpl.toNat) ∨ (d.conforming = false ∧ d.dpl = s.cpl) →
        (∀ t, markAccessed lin d u = .ok () t →
          Accessed u t ∧ Completes j s (atLevel t gate.gateSel s.cpl d gate.gateOff)) ∧
        ∀ t v, Mem.wf s.mem = true → roomFor s.segs.ss s.regs.esp (2 * z.bytes) = true →
          PushesItems z [.sel s.segs.cs.sel, .value m.eip] u t → markAccessed lin d t = .ok () v →
          PushedItems z [.sel s.segs.cs.sel, .value m.eip] u t ∧ Accessed t v ∧
            Completes c s (atLevel v gate.gateSel s.cpl d gate.gateOff)) ∧
      (d.conforming = false → d.dpl.toNat < s.cpl.toNat → Mem.wf s.mem = true →
        ∀ ss esp slin sd v w x y t,
          InnerStack d.dpl false ((gate.gateCount + 4) * z.bytes) u ss esp slin sd v →
          EntersLevel gate.gateSel d.dpl lin d gate.gateOff ss slin sd sd.db esp v w →
          PushesItems z [.sel s.segs.ss.sel, .value s.regs.esp] w x → CopiesParams u z gate.gateCount x y →
          PushesItems z [.sel s.segs.cs.sel, .value m.eip] y t →
          Accessed u v ∧ LevelEntered gate.gateSel d.dpl d gate.gateOff ss sd sd.db esp v w ∧
            PushedItems z [.sel s.segs.ss.sel, .value s.regs.esp] w x ∧ FramesCopied z gate.gateCount x y ∧
            PushedItems z [.sel s.segs.cs.sel, .value m.eip] y t ∧ Completes c s t)

/-- The test of privilege on a gate or a TSS that a far JMP or CALL names: its DPL is at least CPL and at least the
selector's RPL (R606, R608, R623). -/
abbrev GateAllows (s : State) (sel : Half) (d : Desc) : Prop :=
  s.cpl.toNat ≤ d.dpl.toNat ∧ (rpl sel).toNat ≤ d.dpl.toNat

/-- An available TSS, of an 80286 or a 386 SX (R85). -/
abbrev IsFreeTss (d : Desc) : Prop := d.dt = false ∧ (d.typ = 1 ∨ d.typ = 9)

/-- The instruction goes to the task of the TSS that `sel` names, whose descriptor `d` at `lin` has been read in `u`: it must
be an available TSS, else #GP, and present, else #NP, both with the selector; the task is switched, and the new EIP must lie
in the new code segment, else #GP(0), unless the trap of the new TSS waits, which comes first (the model's choice of log
entry 61) (R608, R623, R990). -/
def GoesToTask (i : Instr) (kind : TaskKind) (s : State) (sel : Half) (lin : Word) (d : Desc) (u : State) : Prop :=
  (¬IsFreeTss d → exec i s = deliverExc (.gp (selCode sel false)) (markPoint s) u) ∧
  (IsFreeTss d → d.present = false → exec i s = deliverExc (.np (selCode sel false)) (markPoint s) u) ∧
  ∀ t, IsFreeTss d → d.present = true → switchTask kind sel lin d false false u = .ok () t →
    (t.latches.trap ≠ 0 ∨ t.segs.cs.inLimit t.eip 1 = true → Completes i s t) ∧
    (t.latches.trap = 0 → t.segs.cs.inLimit t.eip 1 = false → exec i s = deliverExc (.gp 0) (markPoint s) t)

/-- A far JMP and a far CALL to a selector that names an available TSS: its privilege is tested, it must be in the GDT, and
the task is switched, for CALL nested (R608, R623, R231). -/
def ReachesTss (j c : Instr) (s : State) (sel : Half) (m : State) : Prop :=
  ∀ lin d u, selNull sel = false → fetchDesc sel (.gp (selCode sel false)) m = .ok (lin, d) u → IsFreeTss d →
    Accessed m u ∧
      (¬(GateAllows s sel d ∧ selTi sel = false) →
        exec j s = deliverExc (.gp (selCode sel false)) (markPoint s) u ∧
          exec c s = deliverExc (.gp (selCode sel false)) (markPoint s) u) ∧
      (GateAllows s sel d → selTi sel = false →
        GoesToTask j .jmp s sel lin d u ∧ GoesToTask c .call s sel lin d u)

/-- A far JMP and a far CALL to a selector that names a task gate: the privilege and the presence of the gate are tested, the
gate's selector must name a TSS in the GDT, whose own DPL is not tested, and the task is switched, for CALL nested (R608,
R623, R90, R231). -/
def PassesTaskGate (j c : Instr) (s : State) (sel : Half) (m : State) : Prop :=
  ∀ glin gate u, selNull sel = false → fetchDesc sel (.gp (selCode sel false)) m = .ok (glin, gate) u →
    gate.dt = false → gate.typ = 5 →
    let tss := gate.gateSel
    let both (e : Exc) : Prop := exec j s = deliverExc e (markPoint s) u ∧ exec c s = deliverExc e (markPoint s) u
    Accessed m u ∧
      (¬GateAllows s sel gate → both (.gp (selCode sel false))) ∧
      (GateAllows s sel gate → gate.present = false → both (.np (selCode sel false))) ∧
      (GateAllows s sel gate → gate.present = true →
        (selNull tss = true ∨ selTi tss = true ∨ descAddr u tss = none → both (.gp (selCode tss false))) ∧
        ∀ lin d v, selNull tss = false → selTi tss = false →
          fetchDesc tss (.gp (selCode tss false)) u = .ok (lin, d) v →
          Accessed u v ∧ GoesToTask j .jmp s tss lin d v ∧ GoesToTask c .call s tss lin d v)

/-- A far JMP and a far CALL in protected mode to a selector that is null, that lies outside its table, or that names
neither code, a gate nor an available TSS (R604, R623). -/
def RejectsSelector (j c : Instr) (s : State) (sel : Half) (m : State) : Prop :=
  (selNull sel = true →
    exec j s = deliverExc (.gp 0) (markPoint s) m ∧ exec c s = deliverExc (.gp 0) (markPoint s) m) ∧
  (selNull sel = false → descAddr s sel = none →
    exec j s = deliverExc (.gp (selCode sel false)) (markPoint s) m ∧
      exec c s = deliverExc (.gp (selCode sel false)) (markPoint s) m) ∧
  ∀ lin d u, selNull sel = false → fetchDesc sel (.gp (selCode sel false)) m = .ok (lin, d) u → ¬d.isCode = true →
    (d.dt = false → d.typ ≠ 4 ∧ d.typ ≠ 12 ∧ d.typ ≠ 5 ∧ ¬IsFreeTss d) →
    exec j s = deliverExc (.gp (selCode sel false)) (markPoint s) u ∧
      exec c s = deliverExc (.gp (selCode sel false)) (markPoint s) u

/-- The selector of a return lies on the stack `k` bytes above its top, within the segment (R616, R627). -/
def ReturnSelector (k : Nat) (s : State) (sel : Half) (t : State) : Prop :=
  s.segs.ss.inLimit (stackOff s.stackSize (s.regs.esp + BitVec.ofNat 32 k)) 2 = true ∧
    ∃ w, peekStack .w k s = .ok w t ∧ sel = w.setWidth 16

/-- The top `n` bytes of the stack lie within its segment. -/
abbrev TopFits (s : State) (n : Nat) : Prop := s.segs.ss.inLimit (stackOff s.stackSize s.regs.esp) n = true

/-- What a return requires of the code segment it goes to and of the offset in it: conforming code of at most the
selector's RPL, or nonconforming code of that level (R616, R627). -/
abbrev ReturnFits (sel : Half) (d : Desc) (eip : Word) : Prop :=
  d.isCode = true ∧ d.present = true ∧ (d.toSeg sel).inLimit eip 1 = true ∧
    if d.conforming = true then d.dpl.toNat ≤ (rpl sel).toNat else d.dpl = rpl sel

/-- What a return to an outer level requires of its stack segment: writable data, present, of that level by its DPL and its
selector (R616, R627). -/
abbrev ReturnStackFits (ss : Half) (level : BitVec 2) (d : Desc) : Prop :=
  rpl ss = level ∧ d.dpl = level ∧ d.writable = true ∧ d.present = true

/-- A data segment register after a return to an outer level: null if it holds data or nonconforming code whose DPL is
less than that level (R616, R627). -/
def outerSeg (level : BitVec 2) (g : SegReg) : SegReg :=
  if g.valid = true ∧ ¬(g.isCode = true ∧ g.typ.getLsbD 2 = true) ∧ g.dpl.toNat < level.toNat then
    { g with sel := 0, valid := false }
  else g

/-- The state after a return to an outer level, with the stack of that level. The 16-bit form loads SP, and the upper half
of ESP is open where the new stack is 32-bit (D61); else `big` says whether all of ESP is loaded; `n` is what RET adds. -/
def atOuter (t : State) (z : Size) (big : Bool) (n : Nat) (level : BitVec 2) (ss : Half) (d : Desc) (esp eip : Word) :
    State :=
  let u :=
    if z = .w ∧ d.db = true then
      { onStack t ss d true ((Config.freeWord t.draws).setWidth 16 ++ (esp.setWidth 16 : Half)) with draws := t.draws + 1 }
    else onStack t ss d big esp
  let v := atSp u (u.regs.esp + BitVec.ofNat 32 n)
  goTo
    { v with
      cpl := level
      segs :=
        { v.segs with
          es := outerSeg level v.segs.es
          ds := outerSeg level v.segs.ds
          fs := outerSeg level v.segs.fs
          gs := outerSeg level v.segs.gs } }
    eip

/-- RET far in protected mode to the same privilege level (R627). -/
def ReturnsFarSame (i : Instr) (z : Size) (n : BitVec 16) : Prop :=
  ∀ s sel s1 lin d s2 eip s3 t, Plain s → s.isProtected = true → ReturnSelector z.bytes (markPoint s) sel s1 →
    rpl sel = s.cpl → selNull sel = false → fetchDesc sel (.gp (selCode sel false)) s1 = .ok (lin, d) s2 →
    TopFits s (2 * z.bytes) → peekStack z 0 s2 = .ok eip s3 → ReturnFits sel d eip → markAccessed lin d s3 = .ok () t →
    Accessed (markPoint s) t ∧
      Completes i s
        (atSp (goFar t (d.accessed.toSeg sel) eip) (s.regs.esp + BitVec.ofNat 32 (2 * z.bytes) + n.setWidth 32))

/-- RET far in protected mode to an outer privilege level (R627): the stack of that level is popped from the frame, and the
immediate is added to its pointer too. -/
def ReturnsFarOuter (i : Instr) (z : Size) (n : BitVec 16) : Prop :=
  ∀ s sel s1 lin d s2 ss s3 slin sd s4 eip s5 esp s6 s7 t, Plain s → s.isProtected = true →
    ReturnSelector z.bytes (markPoint s) sel s1 → s.cpl.toNat < (rpl sel).toNat → TopFits s (4 * z.bytes + n.toNat) →
    selNull sel = false → fetchDesc sel (.gp (selCode sel false)) s1 = .ok (lin, d) s2 →
    peekStack .w (3 * z.bytes + n.toNat) s2 = .ok ss s3 → selNull (ss.setWidth 16) = false →
    fetchDesc (ss.setWidth 16) (.gp (selCode (ss.setWidth 16) false)) s3 = .ok (slin, sd) s4 →
    ReturnStackFits (ss.setWidth 16) (rpl sel) sd → peekStack z 0 s4 = .ok eip s5 → ReturnFits sel d eip →
    peekStack z (2 * z.bytes + n.toNat) s5 = .ok esp s6 → markAccessed lin d s6 = .ok () s7 →
    markAccessed slin sd (withSeg s7 .cs (d.accessed.toSeg sel)) = .ok () t →
    Accessed (markPoint s) s7 ∧ Accessed (withSeg s7 .cs (d.accessed.toSeg sel)) t ∧
      Completes i s (atOuter t z sd.db n.toNat (rpl sel) (ss.setWidth 16) sd esp eip)

/-- The frame pointer that ENTER stores: SP or ESP; a 16-bit stack pointer leaves the upper half of a doubleword open, drawn
at `n` (R770, log entry 58). -/
def frameWord (o : OSize) (s : State) (esp : Word) (n : Nat) : Word :=
  if o = .o32 ∧ s.stackSize = .a16 then (Config.freeWord n).setWidth 16 ++ (esp.setWidth 16 : Half)
  else stackOff s.stackSize esp

/-- The state after that open half has been drawn. -/
def frameDrawn (o : OSize) (s t : State) : State :=
  if o = .o32 ∧ s.stackSize = .a16 then { t with draws := t.draws + 1 } else t

/-- The end of ENTER after its pushes, which leave `w`: the frame pointer is set, and the stack pointer makes room for `n`
bytes, which in protected mode must leave it in the stack segment, else #SS(0) (R770). -/
def FrameEnds (i : Instr) (o : OSize) (n : BitVec 16) (s : State) (esp : Word) (w : State) : Prop :=
  let v := setReg (frameDrawn o s w) o.size .ebp (ofWord o.size (frameWord o s esp w.draws))
  let sp := v.regs.esp - n.setWidth 32
  let fits := s.isProtected = true → s.segs.ss.inLimit (stackOff s.stackSize sp) 1 = true
  (fits → Completes i s (atSp v sp)) ∧ (¬fits → exec i s = deliverExc (.ss 0) (markPoint s) v)

/-- An index or counter register under an address size, extended with zeros. -/
def indexOf (a : ASize) (r : Reg) (s : State) : Word := toWord (asizeOf a) (s.regs.read (asizeOf a) r)

/-- The state with an index register moved past an element, up or down as DF says (R700). -/
def advanced (a : ASize) (z : Size) (r : Reg) (s : State) : State :=
  let n := BitVec.ofNat 32 z.bytes
  setReg s (asizeOf a) r
    (ofWord (asizeOf a) (if s.flags.df then indexOf a r s - n else indexOf a r s + n))

/-- MOVS moves one element (R703). -/
def MovsStep (a : ASize) (z : Size) (s t : State) : Prop :=
  ∃ v u w, readMem (s.dataSeg .ds) (indexOf a .esi s) z.bytes s = .ok v u ∧
    writeMem .es (indexOf a .edi s) z.bytes v u = .ok () w ∧ t = advanced a z .edi (advanced a z .esi w)

/-- CMPS compares one element: the flags are those of the source minus the destination (R701). -/
def CmpsStep (a : ASize) (z : Size) (s t : State) : Prop :=
  ∃ x y u w, readMem (s.dataSeg .ds) (indexOf a .esi s) z.bytes s = .ok x u ∧
    readMem .es (indexOf a .edi s) z.bytes u = .ok y w ∧
    t = advanced a z .edi (advanced a z .esi { w with flags := s.flags.sub (ofWord z x) (ofWord z y) false })

/-- STOS stores the accumulator (R705). -/
def StosStep (a : ASize) (z : Size) (s t : State) : Prop :=
  ∃ w, writeMem .es (indexOf a .edi s) z.bytes (toWord z (s.regs.read z .eax)) s = .ok () w ∧
    t = advanced a z .edi w

/-- LODS loads the accumulator (R702). -/
def LodsStep (a : ASize) (z : Size) (s t : State) : Prop :=
  ∃ v u, readMem (s.dataSeg .ds) (indexOf a .esi s) z.bytes s = .ok v u ∧
    t = advanced a z .esi (setReg u z .eax (ofWord z v))

/-- SCAS compares the accumulator with one element (R704). -/
def ScasStep (a : ASize) (z : Size) (s t : State) : Prop :=
  ∃ y u, readMem .es (indexOf a .edi s) z.bytes s = .ok y u ∧
    t = advanced a z .edi { u with flags := s.flags.sub (s.regs.read z .eax) (ofWord z y) false }

/-- The value that a port read takes from the platform (R270, log entry 16). -/
def portIn (z : Size) (s : State) : Word := leValue (leBytes z.bytes (Config.portValue s.draws))

/-- The state after a read of `z` from a port: the read is on record. -/
def portReadDone (port : Half) (z : Size) (s : State) : State :=
  { s with io := .portRead port.toNat z.bytes (portIn z s) :: s.io, draws := s.draws + 1 }

/-- The state after a write of `z` to a port: the write is on record. -/
def portWriteDone (port : Half) (z : Size) (v : Word) (s : State) : State :=
  { s with io := .portWrite port.toNat z.bytes (leValue (leBytes z.bytes v)) :: s.io }

/-- An access of width `z` ends at port FFFFH or below it (R270). -/
abbrev PortFits (port : Half) (z : Size) : Prop := port.toNat + z.bytes ≤ 0x10000

/-- The physical addresses that the translation `ts` of the pages gives a store of `n` bytes at an offset of a segment. -/
def probedAt (s : State) (r : SReg) (off : Word) (n : Nat) (ts : Trans × Trans) : List Nat :=
  (List.range n).map fun i => (byteAddr (s.linear r off) ts.1 ts.2 i).toNat

/-- INS stores one element from port DX, once the port and the destination have passed their checks (R721, D41). -/
def InsStep (a : ASize) (z : Size) (s t : State) : Prop :=
  ∃ u ts v w, PortFits (s.regs.read .w .edx) z ∧ checkPort (s.regs.read .w .edx) z.bytes s = .ok () u ∧
    probeMem .es (indexOf a .edi s) z.bytes u = .ok ts v ∧
    writeProbed .es (indexOf a .edi s) z.bytes ts (portIn z v) (portReadDone (s.regs.read .w .edx) z v) = .ok () w ∧
    t = advanced a z .edi w

/-- OUTS writes one element to port DX (R723). -/
def OutsStep (a : ASize) (z : Size) (s t : State) : Prop :=
  ∃ x u v, PortFits (s.regs.read .w .edx) z ∧ checkPort (s.regs.read .w .edx) z.bytes s = .ok () u ∧
    readMem (s.dataSeg .ds) (indexOf a .esi s) z.bytes u = .ok x v ∧
    t = advanced a z .esi (portWriteDone (s.regs.read .w .edx) z x v)

/-- A string instruction (R710): without a repeat prefix one element; with one nothing when the count is 0, else one
element, the count decremented, and EIP back at the prefixed instruction while iterations are left. `compares` says that
the prefix also looks at ZF. -/
def StringRuns (i : Instr) (a : ASize) (compares : Bool) (one : State → State → Prop) : Prop :=
  ∀ s, Unlocked s →
    (∀ t, s.cur.rep = none → one (markPoint s) t → Completes i s t) ∧
    ∀ k, s.cur.rep = some k →
      (indexOf a .ecx s = 0 → Completes i s (markPoint s)) ∧
      ∀ t, indexOf a .ecx s ≠ 0 → one (markPoint s) t →
        let n := indexOf a .ecx s - 1
        let u := setReg t (asizeOf a) .ecx (ofWord (asizeOf a) n)
        (n ≠ 0 ∧ (compares = true → t.flags.zf = (k == .repe)) →
          Completes i s { u with eip := u.cur.start, cur := { u.cur with again := true } }) ∧
        (n = 0 ∨ (compares = true ∧ t.flags.zf ≠ (k == .repe)) → Completes i s u)

/-- IN (R720): the port's value goes to the accumulator. An access that runs past port FFFFH is refused (D103). -/
def Inputs (i : Instr) (z : Size) (port : State → Half) : Prop :=
  ∀ s u, Plain s → checkPort (port s) z.bytes (markPoint s) = .ok () u →
    Accessed (markPoint s) u ∧
      (PortFits (port s) z →
        Completes i s (setReg (portReadDone (port s) z u) z .eax (ofWord z (portIn z u)))) ∧
      (¬PortFits (port s) z → exec i s = .refused .portRange)

/-- OUT (R722): the accumulator goes to the port. An access that runs past port FFFFH is refused (D103). -/
def Outputs (i : Instr) (z : Size) (port : State → Half) : Prop :=
  ∀ s u, Plain s → checkPort (port s) z.bytes (markPoint s) = .ok () u →
    Accessed (markPoint s) u ∧
      (PortFits (port s) z → Completes i s (portWriteDone (port s) z (toWord z (s.regs.read z .eax)) u)) ∧
      (¬PortFits (port s) z → exec i s = .refused .portRange)

/-- DX as a port number. -/
def portDx (s : State) : Half := s.regs.read .w .edx

/-- INS (`i`) and OUTS (`j`) of width `z`, once or repeated, at a port access that runs past port FFFFH are refused after
the checks that come before it (R270, D103). -/
def PortRefused (i j : Instr) (a : ASize) (z : Size) : Prop :=
  ∀ s u, Unlocked s → (s.cur.rep = none ∨ indexOf a .ecx s ≠ 0) → ¬PortFits (portDx s) z →
    checkPort (portDx s) z.bytes (markPoint s) = .ok () u →
    (∀ ts v, probeMem .es (indexOf a .edi s) z.bytes u = .ok ts v → exec i s = .refused .portRange) ∧
    ∀ x v, readMem (s.dataSeg .ds) (indexOf a .esi s) z.bytes u = .ok x v → exec j s = .refused .portRange

/-- INT n, INT 3 and INTO take their interrupt: what the entry leaves, and no single-step trap after it (R1012). -/
def TakesSoft (i : Instr) (n : Byte) (s : State) : Prop :=
  ∀ t, enter (.soft n) (markPoint s) = .ok () t → Completes i s { t with cur := { t.cur with soft := true } }

end Sys2Proof.Machine
end

