-- ==== Sys2Proof/ClaimsSystem.lean ====
section
/-! DEFINITION. The words in which the statements on flag control, prefixes and the system instructions are written. -/

namespace Sys2Proof.Machine

/-- The physical addresses of the bytes that the processor itself stores at a linear address (R166). -/
def sysStoredAt (s : State) (lin : Word) (n : Nat) : List Nat :=
  match physOf lin n (Access.system true) s with
  | .ok as _ => as.map BitVec.toNat
  | .error _ _ => []

/-- What a store of the processor itself leaves: as after an access, but for the bytes stored. -/
def SysStored (lin : Word) (n : Nat) (s t : State) : Prop := StoredAt (sysStoredAt s lin n) s t

/-- The instruction changes the flags alone. -/
def FlagsBecome (i : Instr) (f : Flags → Flags) : Prop :=
  ∀ s, Plain s → Completes i s { markPoint s with flags := f s.flags }

/-- CLI and STI: outside real-address mode CPL must be at most IOPL (R762, R768). -/
abbrev MayChangeIf (s : State) : Prop := s.isReal = true ∨ s.curCpl.toNat ≤ s.flags.iopl.toNat

/-- A prefix: it is noted for the instruction that follows and nothing else happens (R285). -/
def Notes (i : Instr) (f : Cur → Cur) : Prop :=
  ∀ s, exec i s = .next { s with cur := { f s.cur with stage := .prefixes } }

/-- ESC (R795): coprocessor not available (#NM) when EM or TS is set; otherwise, once the first byte of a memory operand
has passed its checks, the coprocessor would act, which another manual describes. -/
def Escapes (i : Instr) (rm : Rm) : Prop :=
  ∀ s, Plain s →
    (s.sys.cr0.em = true ∨ s.sys.cr0.ts = true →
      exec i s = deliverExc .nm (markPoint s) (markPoint s) ∧ ∃ t, exec i s = .next t) ∧
    (s.sys.cr0.em = false → s.sys.cr0.ts = false → ∀ v t, readRm .b rm (markPoint s) = .ok v t →
      exec i s = .refused .coprocessor)

/-- The state after the six status flags have become undefined (R830). -/
def statusLost (s : State) : State :=
  { s with flags := s.flags.undefined (statusAt s.draws), draws := s.draws + 6 }

/-- Two stores of a table register: the limit, and the base above it; `o` says whether 24 or 32 bits of the base are
stored (R831). -/
def StoresTable (i : Instr) (o : OSize) (ea : Ea) (tab : State → TableReg) : Prop :=
  ∀ s off u v t, Plain s → Mem.wf s.mem = true → effAddr ea (markPoint s) = .ok off u →
    writeMem (s.dataSeg (eaSeg ea)) off 2 ((tab s).limit.setWidth 32) u = .ok () v →
    writeMem (s.dataSeg (eaSeg ea)) (off + 2) 4 (if o = .o16 then (tab s).base &&& 0x00FFFFFF else (tab s).base) v
      = .ok () t →
    u = markPoint s ∧ Stored (s.dataSeg (eaSeg ea)) off 2 u v ∧
      Stored (s.dataSeg (eaSeg ea)) (off + 2) 4 v t ∧ Completes i s t

/-- A load of a table register: a 16-bit operand size loads 24 bits of the base (R824). -/
def LoadsTable (i : Instr) (o : OSize) (ea : Ea) (put : SysRegs → TableReg → SysRegs) : Prop :=
  ∀ s off u limit v base t, Plain s → s.curCpl = 0 → effAddr ea (markPoint s) = .ok off u →
    readMem (s.dataSeg (eaSeg ea)) off 2 u = .ok limit v →
    readMem (s.dataSeg (eaSeg ea)) (off + 2) 4 v = .ok base t →
    Accessed (markPoint s) t ∧
      Completes i s
        { t with
          sys :=
            put t.sys
              { limit := limit.setWidth 16
                base := if o = .o16 then base &&& 0x00FFFFFF else base } }

/-- A 16-bit system register stored in protected mode (R832, R834). -/
def StoresSys (i : Instr) (rm : Rm) (v : State → Half) : Prop :=
  ∀ s p u t, Plain s → s.isProtected = true → Mem.wf s.mem = true → place rm (markPoint s) = .ok p u →
    p.write .w (v s) u = .ok () t →
    u = markPoint s ∧ Written .w p (v s) u t ∧ Completes i s t

/-- ZF set or cleared, and nothing else. -/
def zfIs (s : State) (b : Bool) : State := { s with flags := { s.flags with zf := b } }

/-- A descriptor is visible to a selector's user: conforming code always, and else only if its DPL is at least CPL and at
least the selector's RPL (R823). -/
abbrev Visible (s : State) (sel : Half) (d : Desc) (exempt : Bool) : Prop :=
  exempt = true ∨ (s.cpl.toNat ≤ d.dpl.toNat ∧ (rpl sel).toNat ≤ d.dpl.toNat)

/-- LAR and LSL: a descriptor that passes `ok` and is visible gives its value to the register and sets ZF; otherwise ZF is
cleared and the register keeps its value. `d` free values are drawn. -/
def Inspects (i : Instr) (o : OSize) (r : Reg) (rm : Rm) (ok : Desc → Prop) (d : Nat) (value : State → Desc → Word) :
    Prop :=
  ∀ s v u x t, Plain s → s.isProtected = true → readRm o.size rm (markPoint s) = .ok v u →
    peekDesc ((toWord o.size v).setWidth 16) u = .ok x t →
    let sel : Half := (toWord o.size v).setWidth 16
    Accessed (markPoint s) t ∧
      (x = none → Completes i s (zfIs t false)) ∧
      ∀ desc, x = some desc →
        (ok desc ∧ Visible s sel desc desc.conforming →
          Completes i s
            (zfIs { setReg t o.size r (ofWord o.size (value t desc)) with draws := t.draws + d } true)) ∧
        (¬(ok desc ∧ Visible s sel desc desc.conforming) → Completes i s (zfIs t false))

/-- VERR and VERW: ZF says whether the segment passes `ok` and is visible. -/
def Verifies (i : Instr) (rm : Rm) (ok : Desc → Prop) (exempt : Desc → Bool) : Prop :=
  ∀ s v u x t, Plain s → s.isProtected = true → readRm .w rm (markPoint s) = .ok v u →
    peekDesc v u = .ok x t →
    Accessed (markPoint s) t ∧
      (x = none → Completes i s (zfIs t false)) ∧
      ∀ desc, x = some desc →
        (ok desc ∧ Visible s v desc (exempt desc) → Completes i s (zfIs t true)) ∧
        (¬(ok desc ∧ Visible s v desc (exempt desc)) → Completes i s (zfIs t false))

/-- The value of a special register with its reserved bits open (log entry 26). -/
def openBits (s : State) (v reserved : Word) : Word :=
  (v &&& ~~~reserved) ||| ((Config.freeWord s.draws).setWidth 32 &&& reserved)

/-- CR0 as software loads it: PE, MP, EM, TS and PG; the other bits have no effect (R100). -/
def cr0Of (v : Word) : Cr0 :=
  { pe := v.getLsbD 0
    mp := v.getLsbD 1
    em := v.getLsbD 2
    ts := v.getLsbD 3
    pg := v.getLsbD 31 }

/-- The state with CR0 loaded: protected mode begins with CPL 0 (R81). -/
def withCr0 (s : State) (c : Cr0) : State :=
  { s with sys := { s.sys with cr0 := c }, cpl := if s.sys.cr0.pe = true ∧ c.pe = true then s.cpl else 0 }

/-- The three instructions of a special-register move, all forms: whether an instruction is one of them (R830). -/
def movesSpecial (i : Instr) : Bool :=
  match i with
  | .movR32Cr _ _ => true
  | .movCrR32 _ _ => true
  | .movR32Dr _ _ => true
  | .movDrR32 _ _ => true
  | .movR32Tr _ _ => true
  | .movTrR32 _ _ => true
  | _ => false

/-- The instructions that need CPL 0 in every mode (R821, R822, R824, R827, R830). -/
def isPrivileged (i : Instr) : Bool :=
  match i with
  | .clts => true
  | .hlt => true
  | .lgdt _ _ => true
  | .lidt _ _ => true
  | .lmsw _ => true
  | _ => movesSpecial i

/-- The instructions that only protected mode recognizes (R820, R823, R826, R828, R829, R832, R834, R835). -/
def onlyProtected (i : Instr) : Bool :=
  match i with
  | .arpl _ _ => true
  | .lar _ _ _ => true
  | .lsl _ _ _ => true
  | .verr _ => true
  | .verw _ => true
  | .sldt _ _ => true
  | .str _ _ => true
  | .lldt _ => true
  | .ltr _ => true
  | _ => false

/-- The prefixes (R280). -/
def isPrefix (i : Instr) : Bool :=
  match i with
  | .lock => true
  | .repne => true
  | .rep => true
  | .segEs => true
  | .segCs => true
  | .segSs => true
  | .segDs => true
  | .segFs => true
  | .segGs => true
  | .opsize => true
  | .adsize => true
  | _ => false

/-- The string instructions, which a repeat prefix may precede (R287, R710). -/
def isString (i : Instr) : Bool :=
  match i with
  | .movsb _ => true
  | .movsw _ => true
  | .movsd _ => true
  | .cmpsb _ => true
  | .cmpsw _ => true
  | .cmpsd _ => true
  | .stosb _ => true
  | .stosw _ => true
  | .stosd _ => true
  | .lodsb _ => true
  | .lodsw _ => true
  | .lodsd _ => true
  | .scasb _ => true
  | .scasw _ => true
  | .scasd _ => true
  | .insb _ => true
  | .insw _ => true
  | .insd _ => true
  | .outsb _ => true
  | .outsw _ => true
  | .outsd _ => true
  | _ => false

/-- The opcodes that Intel reserves without a trap (R351). -/
def isReserved (i : Instr) : Bool :=
  match i with
  | .reservedF6 _ => true
  | .reservedF7 _ => true
  | .reservedC0 _ => true
  | .reservedC1 _ => true
  | .reservedD0 _ => true
  | .reservedD1 _ => true
  | .reservedD2 _ => true
  | .reservedD3 _ => true
  | .reserved82 => true
  | .reservedD6 => true
  | .reservedF1 => true
  | .reserved0F07 => true
  | .reserved0F10 => true
  | .reserved0F11 => true
  | .reserved0F12 => true
  | .reserved0F13 => true
  | _ => false

/-- Whether the destination of an encoding of an arithmetic or logical instruction is in memory. -/
def storesToMem (f : AluForm) : Bool :=
  match f with
  | .rm8R8 (.mem _) _ => true
  | .rmvRv _ (.mem _) _ => true
  | .rm8Imm8 (.mem _) _ => true
  | .rm16Imm16 (.mem _) _ => true
  | .rm32Imm32 (.mem _) _ => true
  | .rmvImm8 _ (.mem _) _ => true
  | _ => false

/-- The instructions and forms that LOCK may precede: those of R790's list with their destination in memory. -/
def lockAllowed (i : Instr) : Bool :=
  match i with
  | .add f => storesToMem f
  | .or f => storesToMem f
  | .adc f => storesToMem f
  | .sbb f => storesToMem f
  | .and f => storesToMem f
  | .sub f => storesToMem f
  | .xor f => storesToMem f
  | .notRm8 (.mem _) => true
  | .notRmv _ (.mem _) => true
  | .negRm8 (.mem _) => true
  | .negRmv _ (.mem _) => true
  | .incRm8 (.mem _) => true
  | .incRmv _ (.mem _) => true
  | .decRm8 (.mem _) => true
  | .decRmv _ (.mem _) => true
  | .xchgRm8R8 (.mem _) _ => true
  | .xchgRmvRv _ (.mem _) _ => true
  | .btsRmvRv _ (.mem _) _ => true
  | .btsRmvImm8 _ (.mem _) _ => true
  | .btrRmvRv _ (.mem _) _ => true
  | .btrRmvImm8 _ (.mem _) _ => true
  | .btcRmvRv _ (.mem _) _ => true
  | .btcRmvImm8 _ (.mem _) _ => true
  | _ => false

end Sys2Proof.Machine
end

