-- ==== Sys2Proof/ClaimsMachine.lean ====
section
/-! DEFINITION. The words in which the statements on memory, exceptions, tasks and whole steps are written. -/

namespace Sys2Proof.Machine

/-- The flags that IRET and POPF load from an image: IOPL only at CPL 0, IF only where CPL is at most IOPL or in
real-address mode, RF by the 32-bit return alone, VM never (R72 d, e). -/
def flagsLoaded (s : State) (rf : Bool) (v : Word) : Flags :=
  { cf := v.getLsbD 0
    pf := v.getLsbD 2
    af := v.getLsbD 4
    zf := v.getLsbD 6
    sf := v.getLsbD 7
    tf := v.getLsbD 8
    ie := if s.isReal = true ∨ s.curCpl.toNat ≤ s.flags.iopl.toNat then v.getLsbD 9 else s.flags.ie
    df := v.getLsbD 10
    ov := v.getLsbD 11
    iopl := if s.curCpl = 0 then v.extractLsb' 12 2 else s.flags.iopl
    nt := v.getLsbD 14
    rf := if rf then v.getLsbD 16 else s.flags.rf
    vm := s.flags.vm }

/-- What IRET leaves besides CS, EIP and the stack pointer: the flags, NMI accepted again (R906), and RF as it was loaded
(R943). -/
def returned (t : State) (f : Flags) : State :=
  { t with
    flags := f
    latches := { t.latches with nmiBlocked := false }
    cur := { t.cur with keepRf := true } }

/-- IRET in real-address mode, and in virtual-8086 mode with IOPL 3 (R613). -/
def Returns8086 (i : Instr) (z : Size) : Prop :=
  ∀ s ip cs fl t, Plain s → s.isProtected = false → (s.isV86 = true → s.flags.iopl = 3) →
    PopChain z [ip, cs, fl] (markPoint s) t →
    PoppedChain z 3 (markPoint s) t ∧
      Completes i s (returned (goFar t (csOf8086 s (cs.setWidth 16)) ip) (flagsLoaded s (z == .d) fl))

/-- The test that IRETD at CPL 0 makes first: the VM bit of the stacked image is clear, so that the return does not go to
virtual-8086 mode (R613). -/
def StaysProtected (z : Size) (s t : State) : Prop :=
  if z = .d ∧ s.cpl = 0 then ∃ f, peekStack .d 8 s = .ok f t ∧ f.getLsbD 17 = false else t = s

/-- IRET in protected mode to the same privilege level (R616). -/
def ReturnsSame (i : Instr) (z : Size) : Prop :=
  ∀ s s0 sel s1 lin d s2 eip s3 fl s4 t, Plain s → s.isProtected = true → s.flags.nt = false →
    StaysProtected z (markPoint s) s0 → ReturnSelector z.bytes s0 sel s1 → TopFits s (3 * z.bytes) →
    rpl sel = s.cpl → selNull sel = false → fetchDesc sel (.gp (selCode sel false)) s1 = .ok (lin, d) s2 →
    peekStack z 0 s2 = .ok eip s3 → ReturnFits sel d eip → markAccessed lin d s3 = .ok () s4 →
    peekStack z (2 * z.bytes) (withSeg s4 .cs (d.accessed.toSeg sel)) = .ok fl t →
    Accessed (markPoint s) s4 ∧ Accessed (withSeg s4 .cs (d.accessed.toSeg sel)) t ∧
      Completes i s
        (returned
          (atSp (goFar t (d.accessed.toSeg sel) eip) (s.regs.esp + BitVec.ofNat 32 (3 * z.bytes)))
          (flagsLoaded s (z == .d) fl))

/-- IRET in protected mode to an outer privilege level (R616), with the stack of that level from the frame; the flags are
those that the level before the return may load. The 32-bit form loads all of ESP, whatever the B bit of the new stack
segment (the model's choice of log entry 60). -/
def ReturnsOuter (i : Instr) (z : Size) : Prop :=
  ∀ s s0 sel s1 lin d s2 ss s3 slin sd s4 eip s5 fl s6 esp s7 s8 t, Plain s → s.isProtected = true →
    s.flags.nt = false → StaysProtected z (markPoint s) s0 → ReturnSelector z.bytes s0 sel s1 →
    s.cpl.toNat < (rpl sel).toNat → TopFits s (5 * z.bytes) →
    selNull sel = false → fetchDesc sel (.gp (selCode sel false)) s1 = .ok (lin, d) s2 →
    peekStack .w (4 * z.bytes) s2 = .ok ss s3 → selNull (ss.setWidth 16) = false →
    fetchDesc (ss.setWidth 16) (.gp (selCode (ss.setWidth 16) false)) s3 = .ok (slin, sd) s4 →
    ReturnStackFits (ss.setWidth 16) (rpl sel) sd → peekStack z 0 s4 = .ok eip s5 → ReturnFits sel d eip →
    peekStack z (2 * z.bytes) s5 = .ok fl s6 → peekStack z (3 * z.bytes) s6 = .ok esp s7 →
    markAccessed lin d s7 = .ok () s8 → markAccessed slin sd (withSeg s8 .cs (d.accessed.toSeg sel)) = .ok () t →
    Accessed (markPoint s) s8 ∧ Accessed (withSeg s8 .cs (d.accessed.toSeg sel)) t ∧
      Completes i s
        (returned (atOuter t z (z == .d) 0 (rpl sel) (ss.setWidth 16) sd esp eip) (flagsLoaded s (z == .d) fl))

/-- The flags of an image of EFLAGS (R70). -/
def flagsOf (v : Word) : Flags :=
  { cf := v.getLsbD 0
    pf := v.getLsbD 2
    af := v.getLsbD 4
    zf := v.getLsbD 6
    sf := v.getLsbD 7
    tf := v.getLsbD 8
    ie := v.getLsbD 9
    df := v.getLsbD 10
    ov := v.getLsbD 11
    iopl := v.extractLsb' 12 2
    nt := v.getLsbD 14
    rf := v.getLsbD 16
    vm := v.getLsbD 17 }

/-- IRETD from level 0 to virtual-8086 mode (R615): the nine doublewords of the frame give EIP, CS, EFLAGS whole, ESP, SS,
ES, DS, FS and GS, each segment as in virtual-8086 mode, and the level is 3. EFLAGS is read before the items that are popped,
and its slot is popped and thrown away. -/
def ReturnsToV86 : Prop :=
  ∀ s image s0 eip s1 fl s2 cs thrown esp ss es ds fs gs t, Plain s → s.isProtected = true → s.flags.nt = false → s.cpl = 0 →
    peekStack .d 8 (markPoint s) = .ok image s0 → image.getLsbD 17 = true → TopFits s 36 →
    peekStack .d 0 s0 = .ok eip s1 → eip.toNat ≤ 0xFFFF → peekStack .d 8 s1 = .ok fl s2 →
    ReadsItems .d 1 [cs, thrown, esp, ss, es, ds, fs, gs] s2 t →
    Accessed (markPoint s) t ∧
      Completes .iretd s
        (returned
          { t with
            regs := { t.regs with esp := esp }
            eip := eip
            queue := []
            cpl := 3
            segs :=
              { es := SegReg.v86 (es.setWidth 16)
                cs := SegReg.v86 (cs.setWidth 16)
                ss := SegReg.v86 (ss.setWidth 16)
                ds := SegReg.v86 (ds.setWidth 16)
                fs := SegReg.v86 (fs.setWidth 16)
                gs := SegReg.v86 (gs.setWidth 16) } }
          (flagsOf fl))

/-- IRET with NT set (R614): a switch, without nesting, to the task that the back link of the current TSS names, whose
descriptor must be that of a busy TSS in the GDT; a null link names none (R90). That a link beyond the limit of TR is #TS
with the selector of TR, and that the trap of the new TSS comes before the test of the new EIP, are the model's choices of
log entries 57 and 61. -/
def ReturnsToTask (i : Instr) : Prop :=
  (∀ s, Plain s → s.isProtected = true → s.flags.nt = true → s.sys.tr.limit.toNat < 1 →
    exec i s = deliverExc (.ts (selCode s.sys.tr.sel false)) (markPoint s) (markPoint s)) ∧
  ∀ s link u, Plain s → s.isProtected = true → s.flags.nt = true → 1 ≤ s.sys.tr.limit.toNat →
    sysRead s.sys.tr.base 2 (markPoint s) = .ok link u →
    let sel : Half := link.setWidth 16
    let e := Exc.ts (selCode sel false)
    Accessed (markPoint s) u ∧
      (selNull sel = true ∨ selTi sel = true ∨ descAddr s sel = none → exec i s = deliverExc e (markPoint s) u) ∧
      ∀ lin d v, selNull sel = false → selTi sel = false → fetchDesc sel e u = .ok (lin, d) v →
        Accessed u v ∧
          (¬(d.dt = false ∧ (d.typ = 3 ∨ d.typ = 11)) → exec i s = deliverExc e (markPoint s) v) ∧
          (d.dt = false → d.typ = 3 ∨ d.typ = 11 → d.present = false →
            exec i s = deliverExc (.np (selCode sel false)) (markPoint s) v) ∧
          ∀ t, d.dt = false → d.typ = 3 ∨ d.typ = 11 → d.present = true →
            switchTask .iret sel lin d false false v = .ok () t →
            (t.latches.trap ≠ 0 ∨ t.segs.cs.inLimit t.eip 1 = true → Completes i s (returned t t.flags)) ∧
              (t.latches.trap = 0 → t.segs.cs.inLimit t.eip 1 = false →
                exec i s = deliverExc (.gp 0) (markPoint s) t)

/-- The flags after entry through a gate: an interrupt gate clears IF, a trap gate does not (R957). -/
def flagsEntered (f : Flags) (gate : Desc) : Flags :=
  { f with tf := false, nt := false, rf := false, vm := false, ie := f.ie && gate.typ.getLsbD 0 }

/-- The EFLAGS image that an event's entry pushes: RF is set for a fault, and bits 31:18, drawn at `n`, are open (R943,
U21). -/
def pushedFlags (ev : Event) (s : State) (n : Nat) : Word :=
  ({ s.flags with rf := s.flags.rf || ev.rf } : Flags).image ((Config.freeWord n).setWidth 14)

/-- HLT has ended (R957). -/
def awake (s : State) : State := { s with latches := { s.latches with halted := false } }

/-- The data segment registers null, as entry from virtual-8086 mode leaves them (R954). -/
def nullSegs (s : State) : State :=
  { s with
    segs :=
      { s.segs with
        es := { s.segs.es with sel := 0, valid := false }
        ds := { s.segs.ds with sel := 0, valid := false }
        fs := { s.segs.fs with sel := 0, valid := false }
        gs := { s.segs.gs with sel := 0, valid := false } } }

/-- Entry through an interrupt or trap gate to code of the same level (R955): the flags, CS and EIP are pushed, CS and EIP are
loaded, and the error code is pushed. `v` is the state after the gate and the descriptor `d` of its code segment have been
read. -/
def EntersSame (ev : Event) (gate : Desc) (lin : Word) (d : Desc) (s v : State) : Prop :=
  let z := gateSize gate
  ∀ b t w, s.flags.vm = false → d.conforming = true ∨ d.dpl = s.cpl →
    Mem.wf s.mem = true → roomFor s.segs.ss s.regs.esp (3 * z.bytes + codeBytes z ev.code) = true →
    (d.toSeg gate.gateSel).inLimit gate.gateOff 1 = true →
    let items : List Item :=
      [.value (flagsSlot z s.flags (pushedFlags ev s v.draws)), .sel s.segs.cs.sel, .value s.eip]
    PushesItems z items { v with draws := v.draws + 1 } b → markAccessed lin d b = .ok () t →
    let start := atLevel t gate.gateSel s.cpl d gate.gateOff
    PushesItems z (codeItems ev.code) start w →
    PushedItems z items { v with draws := v.draws + 1 } b ∧ Accessed b t ∧
      PushedItems z (codeItems ev.code) start w ∧
      enter ev s = .ok () (awake { w with flags := flagsEntered s.flags gate })

/-- Entry through an interrupt or trap gate to code of an inner level (R953): on the stack of that level stand the old SS
and (E)SP, the flags, CS, EIP and the error code. `v` is the state after the gate and the descriptor `d` of its code
segment have been read. -/
def EntersInner (ev : Event) (gate : Desc) (lin : Word) (d : Desc) (s v : State) : Prop :=
  let z := gateSize gate
  ∀ ss esp slin sd w x t, s.flags.vm = false → d.conforming = false → d.dpl.toNat < s.cpl.toNat →
    Mem.wf s.mem = true →
    InnerStack d.dpl ev.ext (5 * z.bytes + codeBytes z ev.code) { v with draws := v.draws + 1 } ss esp slin sd w →
    (d.toSeg gate.gateSel).inLimit gate.gateOff 1 = true →
    EntersLevel gate.gateSel d.dpl lin d gate.gateOff ss slin sd sd.db esp w x →
    let items : List Item :=
      [.sel s.segs.ss.sel, .value s.regs.esp, .value (flagsSlot z s.flags (pushedFlags ev s v.draws)),
        .sel s.segs.cs.sel, .value s.eip] ++ codeItems ev.code
    PushesItems z items x t →
    Accessed { v with draws := v.draws + 1 } w ∧
      LevelEntered gate.gateSel d.dpl d gate.gateOff ss sd sd.db esp w x ∧ PushedItems z items x t ∧
      enter ev s = .ok () (awake { t with flags := flagsEntered s.flags gate })

/-- Entry from virtual-8086 mode through a 386 SX interrupt or trap gate to nonconforming code of level 0 (R954): VM is
clear, and on the stack of level 0 stand the old GS, FS, DS, ES, SS, ESP, the flags, CS, EIP and the error code; the data
segment registers are null. CS is loaded after the pushes. Another gate or code segment is #GP with the selector. That a gate offset beyond the code
segment would be #GP(0) is the model's choice of log entry 59. -/
def EntersFromV86 (ev : Event) (gate : Desc) (lin : Word) (d : Desc) (s v : State) : Prop :=
  s.flags.vm = true →
    (¬(d.conforming = false ∧ d.dpl = 0 ∧ gateSize gate = .d) →
      enter ev s = .error (.exc (.gp (selCode gate.gateSel ev.ext))) { v with draws := v.draws + 1 }) ∧
    ∀ ss esp slin sd w x y z t, d.conforming = false → d.dpl = 0 → gateSize gate = .d → Mem.wf s.mem = true →
      InnerStack 0 ev.ext (36 + codeBytes .d ev.code) { v with draws := v.draws + 1 } ss esp slin sd w →
      (d.toSeg gate.gateSel).inLimit gate.gateOff 1 = true →
      markAccessed slin sd { w with flags := flagsEntered s.flags gate, cpl := 0 } = .ok () x →
      let data : List Item := [.sel s.segs.gs.sel, .sel s.segs.fs.sel, .sel s.segs.ds.sel, .sel s.segs.es.sel]
      let items : List Item :=
        [.sel s.segs.ss.sel, .value s.regs.esp, .value (pushedFlags ev s v.draws), .sel s.segs.cs.sel,
          .value s.eip] ++ codeItems ev.code
      PushesItems .d data (onStack x ss sd true esp) y → PushesItems .d items (nullSegs y) z →
      markAccessed lin d z = .ok () t →
      Accessed { v with draws := v.draws + 1 } w ∧ Accessed { w with flags := flagsEntered s.flags gate, cpl := 0 } x ∧
        PushedItems .d data (onStack x ss sd true esp) y ∧ PushedItems .d items (nullSegs y) z ∧ Accessed z t ∧
        enter ev s = .ok () (awake (atLevel t gate.gateSel 0 d gate.gateOff))

/-- Entry through a task gate (R956): the gate's selector must name an available TSS in the GDT, else #TS, that is present,
else #NP; the task is switched as by CALL, the error code is pushed on the stack of the new task, and the new EIP must lie in
its code segment. RF of the new task is cleared, by every event (the reading of log entry 64), and the trap of the new TSS comes before
the test of the new EIP (the model's choice of log entry 61). -/
def EntersTask (ev : Event) (gate : Desc) (s u : State) : Prop :=
  let tss := gate.gateSel
  let e := Exc.ts (selCode tss ev.ext)
  (selNull tss = true ∨ selTi tss = true ∨ descAddr u tss = none → enter ev s = .error (.exc e) u) ∧
  ∀ lin d v, selNull tss = false → selTi tss = false → fetchDesc tss e u = .ok (lin, d) v →
    Accessed u v ∧ (¬IsFreeTss d → enter ev s = .error (.exc e) v) ∧
      (IsFreeTss d → d.present = false → enter ev s = .error (.exc (.np (selCode tss ev.ext))) v) ∧
      ∀ a t, IsFreeTss d → d.present = true → switchTask .call tss lin d ev.rf ev.ext v = .ok () a →
        let z : Size := if d.typ = 9 then .d else .w
        let start := { a with flags := { a.flags with rf := false } }
        (ev.code ≠ none → roomFor a.segs.ss a.regs.esp z.bytes = true) → PushesItems z (codeItems ev.code) start t →
        Mem.wf a.mem = true →
        PushedItems z (codeItems ev.code) start t ∧
          (t.latches.trap ≠ 0 ∨ t.segs.cs.inLimit t.eip 1 = true → enter ev s = .ok () (awake t)) ∧
          (t.latches.trap = 0 → t.segs.cs.inLimit t.eip 1 = false → enter ev s = .error (.exc (.gp 0)) t)

/-- The physical address of byte `i` of an access with paging off: the linear address truncated to 24 bits (R140,
R143). -/
def physAt (lin : Word) (i : Nat) : Nat := ((lin + BitVec.ofNat 32 i).setWidth 24).toNat

/-- Byte `i` of a value. -/
def byteOf (v : Word) (i : Nat) : Byte := v.extractLsb' (8 * i) 8

/-- Only the record of data breakpoints has changed (R1007). -/
def Recorded (s t : State) : Prop := ∃ h d, t = { s with cur := { s.cur with hits := h }, draws := d }

/-- What the checks on a data access of `n` bytes ask of the segment: in protected mode that it is valid, and readable or
writable; in every mode that the bytes lie within its limit, which for expand-down data is above the limit and up to 64K or
4G by the B bit (R170, R171, R200 to R202). -/
def SegmentAdmits (s : State) (r : SReg) (off : Word) (n : Nat) (write : Bool) : Prop :=
  let g := s.seg r
  let code := g.dt = true ∧ g.typ.getLsbD 3 = true
  let last := off.toNat + n - 1
  (s.isProtected = true → g.valid = true ∧
    if write = true then ¬code ∧ g.typ.getLsbD 1 = true else code → g.typ.getLsbD 1 = true) ∧
  if g.dt = true ∧ g.typ.getLsbD 3 = false ∧ g.typ.getLsbD 2 = true then
    g.limit.toNat < off.toNat ∧ last ≤ if g.db = true then 0xFFFFFFFF else 0xFFFF
  else last ≤ g.limit.toNat

/-- The one or two pages of an access of `n` bytes at a linear address are translated, the first one first, and then the
bits are set that the access sets (R144, D81). -/
def PagesReached (lin : Word) (n : Nat) (acc : Access) (t1 t2 : Trans) (s u : State) : Prop :=
  let last := lin + BitVec.ofNat 32 (n - 1)
  ∃ a b c, translate lin acc s = .ok t1 a ∧
    (if pageOf last = pageOf lin then t2 = t1 ∧ b = a else translate (pageOf last ++ 0#12) acc a = .ok t2 b) ∧
    touchPage (pageOf lin) acc t1 b = .ok () c ∧
    if pageOf last = pageOf lin then u = c else touchPage (pageOf last) acc t2 c = .ok () u

/-- The physical address of byte `i` of an access: the frame of its page, joined with bits 11:0 of its linear address
(R240). -/
def pagedAt (lin : Word) (t1 t2 : Trans) (i : Nat) : Nat :=
  let a := lin + BitVec.ofNat 32 i
  ((if pageOf a = pageOf lin then t1.frame else t2.frame) ++ a.extractLsb' 0 12).toNat

/-- The entry that the TLB keeps of a walk, for an access that writes or not (R244). -/
def walkedEntry (page : BitVec 20) (block : BitVec 2) (frame : BitVec 12) (user writable dirty : Bool) : TlbEntry :=
  { block := block
    set := Config.tlbSet page
    page := page
    valid := true
    dirty := dirty
    user := user
    writable := writable
    frame := frame }

/-- Whether the two page-table entries of a page admit an access: supervisor-level always, user-level only where both
entries say so (R242). -/
def EntriesAllow (acc : Access) (pde pte : Word) : Prop :=
  acc.user = false ∨
    (pde.getLsbD 2 = true ∧ pte.getLsbD 2 = true ∧ (acc.write = true → pde.getLsbD 1 = true ∧ pte.getLsbD 1 = true))

/-- Whether a TLB entry admits an access (R242, R244). -/
def EntryAllows (acc : Access) (e : TlbEntry) : Prop :=
  acc.user = false ∨ (e.user = true ∧ (acc.write = true → e.writable = true))

/-- DR6 in `u` shows every breakpoint condition that the instruction which ends in `t` met, with its data or with its own
address, and every one that the instruction at the boundary meets, enabled or not (R1005, R1014). That the condition of the
instruction's own address shows, whatever RF was, is the model's choice of log entry 69. -/
def ShowsHits (t u : State) : Prop :=
  ∀ i : Fin 4, t.cur.hits.getLsbD i = true ∨ t.cur.fetchHits.getLsbD i = true ∨ (instrHits t).getLsbD i = true →
    u.dbg.dr6.getLsbD i = true

/-- The state with CR2 loaded. -/
def withCr2 (s : State) (v : Word) : State := { s with sys := { s.sys with cr2 := v } }

/-- What a load of SS in protected mode requires of the descriptor (R161). -/
def SsFits (s : State) (sel : Half) (d : Desc) : Prop :=
  rpl sel = s.curCpl ∧ d.writable = true ∧ d.dpl = s.curCpl

/-- What a load of DS, ES, FS or GS in protected mode requires of the descriptor (R162). -/
def DataFits (s : State) (sel : Half) (d : Desc) : Prop :=
  d.readable = true ∧ (d.conforming = true ∨ (s.curCpl.toNat ≤ d.dpl.toNat ∧ (rpl sel).toNat ≤ d.dpl.toNat))

/-- What a task switch loads from the new TSS stands in the state: the general registers, EIP, the selectors (R990). -/
structure RunsTask (img : TaskImage) (t : State) : Prop where
  regs : t.regs = img.regs
  eip : t.eip = img.eip
  es : t.segs.es.sel = img.es
  cs : t.segs.cs.sel = img.cs
  ss : t.segs.ss.sel = img.ss
  ds : t.segs.ds.sel = img.ds
  fs : t.segs.fs.sel = img.fs
  gs : t.segs.gs.sel = img.gs
  ldt : t.sys.ldtr.sel = img.ldt

/-- The debug trap of a task switch (R990 step 16, R1013): of a 386 SX TSS the word at 64H is read, and bit 0 set leaves the
trap of DR6.BT waiting; an 80286 TSS has no T bit. `s` is the state before the switch, `w` the one with the new task's
segments loaded. -/
def TrapWaits (d : Desc) (s w t : State) : Prop :=
  if d.typ.getLsbD 3 = true then
    ∃ v x, sysRead (d.base + 0x64) 2 w = .ok v x ∧ Accessed w x ∧
      t = { x with
        latches := { x.latches with trap := if v.getLsbD 0 then s.latches.trap ||| 0x8000 else s.latches.trap } }
  else t = w ∧ t.latches.trap = s.latches.trap

/-- Nothing comes before the next instruction: no reset, no halt or shutdown, no trap, breakpoint or interrupt. -/
def NothingPending (s : State) : Prop :=
  s.now.reset = none ∧ s.latches.shutdown = false ∧ s.latches.halted = false ∧ takesTrap s = false ∧
    takesBreakpoint s = false ∧ takesNmi s = false ∧ takesIntr s = false

/-- The state in which the next step fetches its first byte. -/
def ready (s : State) : State := beginInstr (latchNmi (takeTick s))

/-- What RESET# loads (R1050): EIP, CS, the data segments, EFLAGS, CR0, DR7, IDTR and DX as the table gives them, in
real-address mode with interrupts disabled, nothing prefetched and every latch of the table clear; and the first byte is
fetched from FFFFF0H. That the caches of SS, FS and GS are as that of DS is log entry 5. -/
structure ResetValues (t : State) : Prop where
  eip : t.eip = 0x0000FFF0
  cs : t.segs.cs.sel = 0xF000 ∧ t.segs.cs.base = 0xFFFF0000 ∧ t.segs.cs.limit = 0xFFFF
  ds : t.segs.ds.sel = 0 ∧ t.segs.ds.base = 0 ∧ t.segs.ds.limit = 0xFFFF
  data : t.segs.es = t.segs.ds ∧ t.segs.ss = t.segs.ds ∧ t.segs.fs = t.segs.ds ∧ t.segs.gs = t.segs.ds
  flags : ∀ high, t.flags.image high = high ++ (0x00002 : BitVec 18)
  cr0 : t.sys.cr0.image = 0x00000010
  dr7 : t.dbg.dr7 = 0
  idtr : t.sys.idtr = { base := 0, limit := 0x03FF }
  dx : t.regs.edx.extractLsb' 8 8 = 0x23 ∧ t.regs.edx.extractLsb' 0 8 = Config.revisionId
  mode : t.isReal = true ∧ t.curCpl = 0 ∧ t.osize = .o16 ∧ t.asize = .a16
  queue : t.queue = []
  latches : t.latches.nmiBlocked = false ∧ t.latches.inhibit = false ∧ t.latches.halted = false ∧
    t.latches.shutdown = false
  first : fetchAddr t 0 = some 0xFFFFF0

/-- The class of an exception vector in the double-fault table (R918). -/
def vectorClass (v : Byte) : ExcClass :=
  if v.toNat = 8 then .double
  else if v.toNat = 14 then .page
  else if v.toNat = 0 ∨ (9 ≤ v.toNat ∧ v.toNat ≤ 13) then .contributory
  else .benign

/-- The flags that a task switch saves in the old TSS: NT is clear after IRET, and RF is set for a fault (R990, R943). -/
def savedFlags (kind : TaskKind) (rf : Bool) (f : Flags) : Flags :=
  { f with nt := f.nt && kind != .iret, rf := f.rf || rf }

/-- The Busy bit of the TSS that TR names is cleared, if its descriptor lies within the limit of the GDT; the selector in TR
names the GDT whatever its TI bit. -/
def OldNotBusy (s t : State) : Prop :=
  ∃ lin, descAddr s (s.sys.tr.sel &&& 0xFFF8) = some lin ∧ setBusy lin false s = .ok () t

/-- How far the fields reach that a task switch saves in a TSS of a type (R230). -/
def savedEnd (typ : BitVec 4) : Nat := if typ.getLsbD 3 = true then 0x5F else 0x29

/-- The first half of a task switch, to its commit point (R990 steps 2 to 7): JMP and IRET clear Busy of the old TSS, the
task is saved within the limit of TR, CALL puts the back link into the new TSS, JMP and CALL set Busy of the new TSS, and
TR and CR0.TS are loaded. -/
def SwitchedOut (kind : TaskKind) (sel : Half) (lin : Word) (d : Desc) (rf ext : Bool) (s u : State) : Prop :=
  ∃ a b c e,
    (if kind = .call then a = s else OldNotBusy s a) ∧ savedEnd s.sys.tr.typ ≤ s.sys.tr.limit.toNat ∧
    saveTask (savedFlags kind rf s.flags) ext a = .ok () b ∧
    (if kind = .call then
      let n := if d.typ.getLsbD 3 then 4 else 2
      sysWrite d.base n (selSlot n ((Config.freeWord b.draws).setWidth 16) s.sys.tr.sel)
        { b with draws := b.draws + 1 } = .ok () c
    else c = b) ∧
    (if kind = .iret then e = c else setBusy lin true c = .ok () e) ∧
    u =
      { e with
        sys :=
          { e.sys with
            tr := { sel := sel, base := d.base, limit := d.limit, typ := d.typ ||| 2 }
            cr0 := { e.sys.cr0 with ts := true } }
        cur := { e.cur with committed := true } }

/-- The fields of a 386 SX TSS that a task switch loads, with their offsets: doublewords and words (R230). -/
def tssDwords (img : TaskImage) : List (Nat × Word) :=
  [(0x20, img.eip), (0x24, img.eflags), (0x28, img.regs.eax), (0x2C, img.regs.ecx), (0x30, img.regs.edx),
    (0x34, img.regs.ebx), (0x38, img.regs.esp), (0x3C, img.regs.ebp), (0x40, img.regs.esi), (0x44, img.regs.edi)]

/-- The selectors of a 386 SX TSS, with their offsets (R230). -/
def tssWords (img : TaskImage) : List (Nat × Half) :=
  [(0x48, img.es), (0x4C, img.cs), (0x50, img.ss), (0x54, img.ds), (0x58, img.fs), (0x5C, img.gs), (0x60, img.ldt)]

/-- How the step ends after an instruction or a prefix: a prefix leads on to the next item. -/
def afterItem (s0 : State) (bytes : List Byte) (o : StepOut) : StepOut :=
  match o with
  | .next t =>
    match t.cur.stage with
    | .prefixes => runItem 15 s0 bytes t
    | .completed => finish s0 bytes t
    | .excepted => finish s0 bytes t
  | .fault f => .fault f
  | .refused r => .refused r

end Sys2Proof.Machine
end

