-- ==== Sys2Proof/Safety.lean ====
section
/-! DEFINITION. What counts as a safe run: one that no refusal stops; and the form of the state, and what lies outside the
processor's reach, that every step keeps. -/

namespace Sys2Proof

/-- A run of `n` steps is safe when no step of it is refused: it never reaches an instruction, or a form of one, whose
effect the spec does not describe (R270, R287, R315, R351, R352, R795, R1012), and no NMI in shutdown (R1090). No step
faults, since Fault is empty. -/
def Safe (n : Nat) (s : Machine.State) : Prop :=
  match n with
  | 0 => True
  | n + 1 =>
    match Machine.step s with
    | .next s' => Safe n s'
    | .fault _ => False
    | .refused _ => False

/-- The machine does nothing until the platform raises an event (R1090): shut down, or halted with IF clear and no debug
trap waiting, and no NMI waiting. -/
def Idle (s : Machine.State) : Prop :=
  (s.latches.shutdown = true ∨ (s.latches.halted = true ∧ s.flags.ie = false ∧ s.latches.trap = 0)) ∧
    (s.latches.nmiPending = false ∨ s.latches.nmiBlocked = true)

/-- The legal states between two steps: memory in its canonical form, the page directory's base aligned (R102, D72),
paging only in protected mode (R100), level 0 in real-address mode (R81), and no instruction in progress. -/
structure Legal (s : Machine.State) : Prop where
  canonical : Machine.Mem.wf s.mem = true
  directory : s.sys.cr3 &&& 0xFFF = 0
  paging : s.sys.cr0.pg = true → s.sys.cr0.pe = true
  level : s.sys.cr0.pe = false → s.cpl = 0
  between : s.cur = Machine.Cur.none ∧ s.now = Machine.Tick.quiet

/-- What no computation of the processor can change: the memory map, every byte outside RAM (R271), the platform's inputs
to come, and what has already passed on the bus; and every change of memory is on record there, in order (R262,
R1070). -/
structure Outside (s t : Machine.State) : Prop where
  map : t.regions = s.regions
  inputs : t.inputs = s.inputs
  record : ∃ l, t.io = l ++ s.io ∧ t.mem = Machine.Mem.after s.regions l.reverse s.mem
  fixed : ∀ a, Machine.regionAt s.regions a ≠ .ram → Machine.Mem.read t.mem a = Machine.Mem.read s.mem a

end Sys2Proof
end

