-- ==== Sys2Proof/WellFormed.lean ====
section
/-! DEFINITION. Well-formed instructions: the operand forms that some encoding stands for (spec/30_encoding.md R312 to
R316, R340), and which size attributes an instruction can be encoded under (R305). -/

namespace Sys2Proof

/-- An effective address that a ModR/M encoding exists for: BP and EBP need a displacement (their mod 00 rows are the
disp-only forms), and ESP as the base needs a SIB byte (R312, R314, R315). -/
def Ea.wf (e : Ea) : Bool :=
  match e with
  | .m16 .bp .none => false
  | .m16 _ _ => true
  | .abs16 _ => true
  | .m32 .esp _ => false
  | .m32 .ebp .none => false
  | .m32 _ _ => true
  | .abs32 _ => true
  | .sib _ _ .ebp .none => false
  | .sib _ _ _ _ => true
  | .sibAbs _ _ _ => true

/-- The address size an effective address is written under (R310). -/
def Ea.asize (e : Ea) : ASize :=
  match e with
  | .m16 _ _ => .a16
  | .abs16 _ => .a16
  | .m32 _ _ => .a32
  | .abs32 _ => .a32
  | .sib _ _ _ _ => .a32
  | .sibAbs _ _ _ => .a32

/-- `Ea.wf` of the memory operand, if there is one. -/
def Rm.wf (rm : Rm) : Bool :=
  match rm with
  | .reg _ => true
  | .mem e => e.wf

/-- Whether an operand can be written under an address size. -/
def Rm.fits (a : ASize) (rm : Rm) : Bool :=
  match rm with
  | .reg _ => true
  | .mem e => e.asize == a

/-- Whether a moffs has the width of an address size (R320). -/
def Moffs.fits (a : ASize) (p : Moffs) : Bool :=
  match p with
  | .p16 _ => a == .a16
  | .p32 _ => a == .a32

/-- The operand of an arithmetic or logical encoding is well formed. -/
def AluForm.wf (f : AluForm) : Bool :=
  match f with
  | .rm8R8 rm _ => rm.wf
  | .rmvRv _ rm _ => rm.wf
  | .r8Rm8 _ rm => rm.wf
  | .rvRmv _ _ rm => rm.wf
  | .alImm8 _ => true
  | .axImm16 _ => true
  | .eaxImm32 _ => true
  | .rm8Imm8 rm _ => rm.wf
  | .rm16Imm16 rm _ => rm.wf
  | .rm32Imm32 rm _ => rm.wf
  | .rmvImm8 _ rm _ => rm.wf

/-- The sizes an arithmetic or logical encoding is read under. -/
def AluForm.fits (o : OSize) (a : ASize) (f : AluForm) : Bool :=
  match f with
  | .rm8R8 rm _ => rm.fits a
  | .rmvRv o' rm _ => o' == o && rm.fits a
  | .r8Rm8 _ rm => rm.fits a
  | .rvRmv o' _ rm => o' == o && rm.fits a
  | .alImm8 _ => true
  | .axImm16 _ => o == .o16
  | .eaxImm32 _ => o == .o32
  | .rm8Imm8 rm _ => rm.fits a
  | .rm16Imm16 rm _ => o == .o16 && rm.fits a
  | .rm32Imm32 rm _ => o == .o32 && rm.fits a
  | .rmvImm8 o' rm _ => o' == o && rm.fits a

/-- The operand of a shift or rotate is well formed. -/
def ShiftForm.wf (f : ShiftForm) : Bool :=
  match f with
  | .rm8One rm => rm.wf
  | .rm8Cl rm => rm.wf
  | .rm8Imm8 rm _ => rm.wf
  | .rmvOne _ rm => rm.wf
  | .rmvCl _ rm => rm.wf
  | .rmvImm8 _ rm _ => rm.wf

/-- The sizes a shift or rotate is read under. -/
def ShiftForm.fits (o : OSize) (a : ASize) (f : ShiftForm) : Bool :=
  match f with
  | .rm8One rm => rm.fits a
  | .rm8Cl rm => rm.fits a
  | .rm8Imm8 rm _ => rm.fits a
  | .rmvOne o' rm => o' == o && rm.fits a
  | .rmvCl o' rm => o' == o && rm.fits a
  | .rmvImm8 o' rm _ => o' == o && rm.fits a

/-- The sizes a conditional jump is read under: rel16 and rel32 are chosen by the operand size (R320). -/
def JccForm.fits (o : OSize) (f : JccForm) : Bool :=
  match f with
  | .rel8 o' _ => o' == o
  | .rel16 _ => o == .o16
  | .rel32 _ => o == .o32

/-- An instruction that some byte string decodes to. Besides its operands: XCHG of the accumulator with itself is the
NOP encoding 90 (R340), and MOV never loads CS (D57). -/
def Instr.wf (i : Instr) : Bool :=
  match i with
  | .add f => f.wf
  | .or f => f.wf
  | .adc f => f.wf
  | .sbb f => f.wf
  | .and f => f.wf
  | .sub f => f.wf
  | .xor f => f.wf
  | .cmp f => f.wf
  | .rol f => f.wf
  | .ror f => f.wf
  | .rcl f => f.wf
  | .rcr f => f.wf
  | .shl f => f.wf
  | .shr f => f.wf
  | .sar f => f.wf
  | .jo _ => true
  | .jno _ => true
  | .jb _ => true
  | .jae _ => true
  | .je _ => true
  | .jne _ => true
  | .jbe _ => true
  | .ja _ => true
  | .js _ => true
  | .jns _ => true
  | .jp _ => true
  | .jnp _ => true
  | .jl _ => true
  | .jge _ => true
  | .jle _ => true
  | .jg _ => true
  | .movRm8R8 rm _ => rm.wf
  | .movRmvRv _ rm _ => rm.wf
  | .movR8Rm8 _ rm => rm.wf
  | .movRvRmv _ _ rm => rm.wf
  | .movRmvSreg _ rm _ => rm.wf
  | .movSregRm16 sr rm => sr != .cs && rm.wf
  | .movAlMoffs8 _ => true
  | .movAccMoffs _ _ => true
  | .movMoffs8Al _ => true
  | .movMoffsAcc _ _ => true
  | .movR8Imm8 _ _ => true
  | .movR16Imm16 _ _ => true
  | .movR32Imm32 _ _ => true
  | .movRm8Imm8 rm _ => rm.wf
  | .movRm16Imm16 rm _ => rm.wf
  | .movRm32Imm32 rm _ => rm.wf
  | .movR32Cr _ _ => true
  | .movR32Dr _ _ => true
  | .movCrR32 _ _ => true
  | .movDrR32 _ _ => true
  | .movR32Tr _ _ => true
  | .movTrR32 _ _ => true
  | .lea _ _ ea => ea.wf
  | .lds _ _ ea => ea.wf
  | .les _ _ ea => ea.wf
  | .lss _ _ ea => ea.wf
  | .lfs _ _ ea => ea.wf
  | .lgs _ _ ea => ea.wf
  | .movsxRvRm8 _ _ rm => rm.wf
  | .movsxRvRm16 _ _ rm => rm.wf
  | .movzxRvRm8 _ _ rm => rm.wf
  | .movzxRvRm16 _ _ rm => rm.wf
  | .xchgAxR16 r => r != .eax
  | .xchgEaxR32 r => r != .eax
  | .xchgRm8R8 rm _ => rm.wf
  | .xchgRmvRv _ rm _ => rm.wf
  | .popRmv _ rm => rm.wf
  | .popR16 _ => true
  | .popR32 _ => true
  | .popDs _ => true
  | .popEs _ => true
  | .popSs _ => true
  | .popFs _ => true
  | .popGs _ => true
  | .pushRmv _ rm => rm.wf
  | .pushR16 _ => true
  | .pushR32 _ => true
  | .pushImm8 _ _ => true
  | .pushImm16 _ => true
  | .pushImm32 _ => true
  | .pushCs _ => true
  | .pushSs _ => true
  | .pushDs _ => true
  | .pushEs _ => true
  | .pushFs _ => true
  | .pushGs _ => true
  | .xlat _ => true
  | .incRm8 rm => rm.wf
  | .incRmv _ rm => rm.wf
  | .incR16 _ => true
  | .incR32 _ => true
  | .decRm8 rm => rm.wf
  | .decRmv _ rm => rm.wf
  | .decR16 _ => true
  | .decR32 _ => true
  | .testRm8Imm8 rm _ => rm.wf
  | .testRm16Imm16 rm _ => rm.wf
  | .testRm32Imm32 rm _ => rm.wf
  | .testAlImm8 _ => true
  | .testAxImm16 _ => true
  | .testEaxImm32 _ => true
  | .testRm8R8 rm _ => rm.wf
  | .testRmvRv _ rm _ => rm.wf
  | .notRm8 rm => rm.wf
  | .notRmv _ rm => rm.wf
  | .negRm8 rm => rm.wf
  | .negRmv _ rm => rm.wf
  | .mulRm8 rm => rm.wf
  | .mulRmv _ rm => rm.wf
  | .imulRm8 rm => rm.wf
  | .imulRmv _ rm => rm.wf
  | .divRm8 rm => rm.wf
  | .divRmv _ rm => rm.wf
  | .idivRm8 rm => rm.wf
  | .idivRmv _ rm => rm.wf
  | .imulRvRmv _ _ rm => rm.wf
  | .imulRvRmvImm8 _ _ rm _ => rm.wf
  | .imulR16Rm16Imm16 _ rm _ => rm.wf
  | .imulR32Rm32Imm32 _ rm _ => rm.wf
  | .bsf _ _ rm => rm.wf
  | .bsr _ _ rm => rm.wf
  | .btRmvRv _ rm _ => rm.wf
  | .btRmvImm8 _ rm _ => rm.wf
  | .btsRmvRv _ rm _ => rm.wf
  | .btsRmvImm8 _ rm _ => rm.wf
  | .btrRmvRv _ rm _ => rm.wf
  | .btrRmvImm8 _ rm _ => rm.wf
  | .btcRmvRv _ rm _ => rm.wf
  | .btcRmvImm8 _ rm _ => rm.wf
  | .seto rm => rm.wf
  | .setno rm => rm.wf
  | .setb rm => rm.wf
  | .setae rm => rm.wf
  | .sete rm => rm.wf
  | .setne rm => rm.wf
  | .setbe rm => rm.wf
  | .seta rm => rm.wf
  | .sets rm => rm.wf
  | .setns rm => rm.wf
  | .setp rm => rm.wf
  | .setnp rm => rm.wf
  | .setl rm => rm.wf
  | .setge rm => rm.wf
  | .setle rm => rm.wf
  | .setg rm => rm.wf
  | .shldRmvRvImm8 _ rm _ _ => rm.wf
  | .shldRmvRvCl _ rm _ => rm.wf
  | .shrdRmvRvImm8 _ rm _ _ => rm.wf
  | .shrdRmvRvCl _ rm _ => rm.wf
  | .bound _ _ ea => ea.wf
  | .callRel16 _ => true
  | .callRel32 _ => true
  | .callRmv _ rm => rm.wf
  | .callPtr16 _ _ => true
  | .callPtr32 _ _ => true
  | .callFarM _ ea => ea.wf
  | .intImm8 _ => true
  | .jcxz _ _ => true
  | .jecxz _ _ => true
  | .jmpRel8 _ _ => true
  | .jmpRel16 _ => true
  | .jmpRel32 _ => true
  | .jmpRmv _ rm => rm.wf
  | .jmpPtr16 _ _ => true
  | .jmpPtr32 _ _ => true
  | .jmpFarM _ ea => ea.wf
  | .loop _ _ _ => true
  | .loope _ _ _ => true
  | .loopne _ _ _ => true
  | .retNear _ => true
  | .retNearImm16 _ _ => true
  | .retFar _ => true
  | .retFarImm16 _ _ => true
  | .movsb _ => true
  | .movsw _ => true
  | .movsd _ => true
  | .cmpsb _ => true
  | .cmpsw _ => true
  | .cmpsd _ => true
  | .stosb _ => true
  | .stosw _ => true
  | .stosd _ => true
  | .lodsb _ => true
  | .lodsw _ => true
  | .lodsd _ => true
  | .scasb _ => true
  | .scasw _ => true
  | .scasd _ => true
  | .insb _ => true
  | .insw _ => true
  | .insd _ => true
  | .outsb _ => true
  | .outsw _ => true
  | .outsd _ => true
  | .inAlImm8 _ => true
  | .inAccImm8 _ _ => true
  | .inAccDx _ => true
  | .outImm8Al _ => true
  | .outImm8Acc _ _ => true
  | .outDxAcc _ => true
  | .leave _ => true
  | .enter _ _ _ => true
  | .escD8 _ rm => rm.wf
  | .escD9 _ rm => rm.wf
  | .escDA _ rm => rm.wf
  | .escDB _ rm => rm.wf
  | .escDC _ rm => rm.wf
  | .escDD _ rm => rm.wf
  | .escDE _ rm => rm.wf
  | .escDF _ rm => rm.wf
  | .arpl rm _ => rm.wf
  | .lar _ _ rm => rm.wf
  | .lsl _ _ rm => rm.wf
  | .sgdt _ ea => ea.wf
  | .sidt _ ea => ea.wf
  | .lgdt _ ea => ea.wf
  | .lidt _ ea => ea.wf
  | .smsw _ rm => rm.wf
  | .lmsw rm => rm.wf
  | .sldt _ rm => rm.wf
  | .str _ rm => rm.wf
  | .lldt rm => rm.wf
  | .ltr rm => rm.wf
  | .verr rm => rm.wf
  | .verw rm => rm.wf
  | .reservedF6 rm => rm.wf
  | .reservedF7 rm => rm.wf
  | .reservedC0 rm => rm.wf
  | .reservedC1 rm => rm.wf
  | .reservedD0 rm => rm.wf
  | .reservedD1 rm => rm.wf
  | .reservedD2 rm => rm.wf
  | .reservedD3 rm => rm.wf
  | .reserved82 => true
  | .reservedD6 => true
  | .reservedF1 => true
  | .reserved0F07 => true
  | .reserved0F10 => true
  | .reserved0F11 => true
  | .reserved0F12 => true
  | .reserved0F13 => true
  | .cbw => true
  | .cwde => true
  | .cwd => true
  | .cdq => true
  | .popa => true
  | .popad => true
  | .pusha => true
  | .pushad => true
  | .aaa => true
  | .aad => true
  | .aam => true
  | .aas => true
  | .daa => true
  | .das => true
  | .inAlDx => true
  | .outDxAl => true
  | .int3 => true
  | .into => true
  | .iret => true
  | .iretd => true
  | .clc => true
  | .cld => true
  | .cli => true
  | .cmc => true
  | .lahf => true
  | .sahf => true
  | .stc => true
  | .std => true
  | .sti => true
  | .nop => true
  | .wait => true
  | .hlt => true
  | .popf => true
  | .popfd => true
  | .pushf => true
  | .pushfd => true
  | .clts => true
  | .lock => true
  | .repne => true
  | .rep => true
  | .segEs => true
  | .segCs => true
  | .segSs => true
  | .segDs => true
  | .segFs => true
  | .segGs => true
  | .opsize => true
  | .adsize => true

/-- Whether an instruction's encoding is read back under the operand size `o` and the address size `a` (R305): the
sizes it carries, the width of its immediate and the form of its memory operand are those of the context. -/
def Instr.fits (o : OSize) (a : ASize) (i : Instr) : Bool :=
  match i with
  | .add f => f.fits o a
  | .or f => f.fits o a
  | .adc f => f.fits o a
  | .sbb f => f.fits o a
  | .and f => f.fits o a
  | .sub f => f.fits o a
  | .xor f => f.fits o a
  | .cmp f => f.fits o a
  | .rol f => f.fits o a
  | .ror f => f.fits o a
  | .rcl f => f.fits o a
  | .rcr f => f.fits o a
  | .shl f => f.fits o a
  | .shr f => f.fits o a
  | .sar f => f.fits o a
  | .jo f => f.fits o
  | .jno f => f.fits o
  | .jb f => f.fits o
  | .jae f => f.fits o
  | .je f => f.fits o
  | .jne f => f.fits o
  | .jbe f => f.fits o
  | .ja f => f.fits o
  | .js f => f.fits o
  | .jns f => f.fits o
  | .jp f => f.fits o
  | .jnp f => f.fits o
  | .jl f => f.fits o
  | .jge f => f.fits o
  | .jle f => f.fits o
  | .jg f => f.fits o
  | .movRm8R8 rm _ => rm.fits a
  | .movRmvRv o' rm _ => o' == o && rm.fits a
  | .movR8Rm8 _ rm => rm.fits a
  | .movRvRmv o' _ rm => o' == o && rm.fits a
  | .movRmvSreg o' rm _ => o' == o && rm.fits a
  | .movSregRm16 _ rm => rm.fits a
  | .movAlMoffs8 p => p.fits a
  | .movAccMoffs o' p => o' == o && p.fits a
  | .movMoffs8Al p => p.fits a
  | .movMoffsAcc o' p => o' == o && p.fits a
  | .movR8Imm8 _ _ => true
  | .movR16Imm16 _ _ => o == .o16
  | .movR32Imm32 _ _ => o == .o32
  | .movRm8Imm8 rm _ => rm.fits a
  | .movRm16Imm16 rm _ => o == .o16 && rm.fits a
  | .movRm32Imm32 rm _ => o == .o32 && rm.fits a
  | .movR32Cr _ _ => true
  | .movR32Dr _ _ => true
  | .movCrR32 _ _ => true
  | .movDrR32 _ _ => true
  | .movR32Tr _ _ => true
  | .movTrR32 _ _ => true
  | .lea o' _ ea => o' == o && ea.asize == a
  | .lds o' _ ea => o' == o && ea.asize == a
  | .les o' _ ea => o' == o && ea.asize == a
  | .lss o' _ ea => o' == o && ea.asize == a
  | .lfs o' _ ea => o' == o && ea.asize == a
  | .lgs o' _ ea => o' == o && ea.asize == a
  | .movsxRvRm8 o' _ rm => o' == o && rm.fits a
  | .movsxRvRm16 o' _ rm => o' == o && rm.fits a
  | .movzxRvRm8 o' _ rm => o' == o && rm.fits a
  | .movzxRvRm16 o' _ rm => o' == o && rm.fits a
  | .xchgAxR16 _ => o == .o16
  | .xchgEaxR32 _ => o == .o32
  | .xchgRm8R8 rm _ => rm.fits a
  | .xchgRmvRv o' rm _ => o' == o && rm.fits a
  | .popRmv o' rm => o' == o && rm.fits a
  | .popR16 _ => o == .o16
  | .popR32 _ => o == .o32
  | .popDs o' => o' == o
  | .popEs o' => o' == o
  | .popSs o' => o' == o
  | .popFs o' => o' == o
  | .popGs o' => o' == o
  | .pushRmv o' rm => o' == o && rm.fits a
  | .pushR16 _ => o == .o16
  | .pushR32 _ => o == .o32
  | .pushImm8 o' _ => o' == o
  | .pushImm16 _ => o == .o16
  | .pushImm32 _ => o == .o32
  | .pushCs o' => o' == o
  | .pushSs o' => o' == o
  | .pushDs o' => o' == o
  | .pushEs o' => o' == o
  | .pushFs o' => o' == o
  | .pushGs o' => o' == o
  | .xlat a' => a' == a
  | .incRm8 rm => rm.fits a
  | .incRmv o' rm => o' == o && rm.fits a
  | .incR16 _ => o == .o16
  | .incR32 _ => o == .o32
  | .decRm8 rm => rm.fits a
  | .decRmv o' rm => o' == o && rm.fits a
  | .decR16 _ => o == .o16
  | .decR32 _ => o == .o32
  | .testRm8Imm8 rm _ => rm.fits a
  | .testRm16Imm16 rm _ => o == .o16 && rm.fits a
  | .testRm32Imm32 rm _ => o == .o32 && rm.fits a
  | .testAlImm8 _ => true
  | .testAxImm16 _ => o == .o16
  | .testEaxImm32 _ => o == .o32
  | .testRm8R8 rm _ => rm.fits a
  | .testRmvRv o' rm _ => o' == o && rm.fits a
  | .notRm8 rm => rm.fits a
  | .notRmv o' rm => o' == o && rm.fits a
  | .negRm8 rm => rm.fits a
  | .negRmv o' rm => o' == o && rm.fits a
  | .mulRm8 rm => rm.fits a
  | .mulRmv o' rm => o' == o && rm.fits a
  | .imulRm8 rm => rm.fits a
  | .imulRmv o' rm => o' == o && rm.fits a
  | .divRm8 rm => rm.fits a
  | .divRmv o' rm => o' == o && rm.fits a
  | .idivRm8 rm => rm.fits a
  | .idivRmv o' rm => o' == o && rm.fits a
  | .imulRvRmv o' _ rm => o' == o && rm.fits a
  | .imulRvRmvImm8 o' _ rm _ => o' == o && rm.fits a
  | .imulR16Rm16Imm16 _ rm _ => o == .o16 && rm.fits a
  | .imulR32Rm32Imm32 _ rm _ => o == .o32 && rm.fits a
  | .bsf o' _ rm => o' == o && rm.fits a
  | .bsr o' _ rm => o' == o && rm.fits a
  | .btRmvRv o' rm _ => o' == o && rm.fits a
  | .btRmvImm8 o' rm _ => o' == o && rm.fits a
  | .btsRmvRv o' rm _ => o' == o && rm.fits a
  | .btsRmvImm8 o' rm _ => o' == o && rm.fits a
  | .btrRmvRv o' rm _ => o' == o && rm.fits a
  | .btrRmvImm8 o' rm _ => o' == o && rm.fits a
  | .btcRmvRv o' rm _ => o' == o && rm.fits a
  | .btcRmvImm8 o' rm _ => o' == o && rm.fits a
  | .seto rm => rm.fits a
  | .setno rm => rm.fits a
  | .setb rm => rm.fits a
  | .setae rm => rm.fits a
  | .sete rm => rm.fits a
  | .setne rm => rm.fits a
  | .setbe rm => rm.fits a
  | .seta rm => rm.fits a
  | .sets rm => rm.fits a
  | .setns rm => rm.fits a
  | .setp rm => rm.fits a
  | .setnp rm => rm.fits a
  | .setl rm => rm.fits a
  | .setge rm => rm.fits a
  | .setle rm => rm.fits a
  | .setg rm => rm.fits a
  | .shldRmvRvImm8 o' rm _ _ => o' == o && rm.fits a
  | .shldRmvRvCl o' rm _ => o' == o && rm.fits a
  | .shrdRmvRvImm8 o' rm _ _ => o' == o && rm.fits a
  | .shrdRmvRvCl o' rm _ => o' == o && rm.fits a
  | .bound o' _ ea => o' == o && ea.asize == a
  | .callRel16 _ => o == .o16
  | .callRel32 _ => o == .o32
  | .callRmv o' rm => o' == o && rm.fits a
  | .callPtr16 _ _ => o == .o16
  | .callPtr32 _ _ => o == .o32
  | .callFarM o' ea => o' == o && ea.asize == a
  | .intImm8 _ => true
  | .jcxz o' _ => a == .a16 && o' == o
  | .jecxz o' _ => a == .a32 && o' == o
  | .jmpRel8 o' _ => o' == o
  | .jmpRel16 _ => o == .o16
  | .jmpRel32 _ => o == .o32
  | .jmpRmv o' rm => o' == o && rm.fits a
  | .jmpPtr16 _ _ => o == .o16
  | .jmpPtr32 _ _ => o == .o32
  | .jmpFarM o' ea => o' == o && ea.asize == a
  | .loop o' a' _ => o' == o && a' == a
  | .loope o' a' _ => o' == o && a' == a
  | .loopne o' a' _ => o' == o && a' == a
  | .retNear o' => o' == o
  | .retNearImm16 o' _ => o' == o
  | .retFar o' => o' == o
  | .retFarImm16 o' _ => o' == o
  | .movsb a' => a' == a
  | .movsw a' => o == .o16 && a' == a
  | .movsd a' => o == .o32 && a' == a
  | .cmpsb a' => a' == a
  | .cmpsw a' => o == .o16 && a' == a
  | .cmpsd a' => o == .o32 && a' == a
  | .stosb a' => a' == a
  | .stosw a' => o == .o16 && a' == a
  | .stosd a' => o == .o32 && a' == a
  | .lodsb a' => a' == a
  | .lodsw a' => o == .o16 && a' == a
  | .lodsd a' => o == .o32 && a' == a
  | .scasb a' => a' == a
  | .scasw a' => o == .o16 && a' == a
  | .scasd a' => o == .o32 && a' == a
  | .insb a' => a' == a
  | .insw a' => o == .o16 && a' == a
  | .insd a' => o == .o32 && a' == a
  | .outsb a' => a' == a
  | .outsw a' => o == .o16 && a' == a
  | .outsd a' => o == .o32 && a' == a
  | .inAlImm8 _ => true
  | .inAccImm8 o' _ => o' == o
  | .inAccDx o' => o' == o
  | .outImm8Al _ => true
  | .outImm8Acc o' _ => o' == o
  | .outDxAcc o' => o' == o
  | .leave o' => o' == o
  | .enter o' _ _ => o' == o
  | .escD8 _ rm => rm.fits a
  | .escD9 _ rm => rm.fits a
  | .escDA _ rm => rm.fits a
  | .escDB _ rm => rm.fits a
  | .escDC _ rm => rm.fits a
  | .escDD _ rm => rm.fits a
  | .escDE _ rm => rm.fits a
  | .escDF _ rm => rm.fits a
  | .arpl rm _ => rm.fits a
  | .lar o' _ rm => o' == o && rm.fits a
  | .lsl o' _ rm => o' == o && rm.fits a
  | .sgdt o' ea => o' == o && ea.asize == a
  | .sidt o' ea => o' == o && ea.asize == a
  | .lgdt o' ea => o' == o && ea.asize == a
  | .lidt o' ea => o' == o && ea.asize == a
  | .smsw o' rm => o' == o && rm.fits a
  | .lmsw rm => rm.fits a
  | .sldt o' rm => o' == o && rm.fits a
  | .str o' rm => o' == o && rm.fits a
  | .lldt rm => rm.fits a
  | .ltr rm => rm.fits a
  | .verr rm => rm.fits a
  | .verw rm => rm.fits a
  | .reservedF6 rm => rm.fits a
  | .reservedF7 rm => rm.fits a
  | .reservedC0 rm => rm.fits a
  | .reservedC1 rm => rm.fits a
  | .reservedD0 rm => rm.fits a
  | .reservedD1 rm => rm.fits a
  | .reservedD2 rm => rm.fits a
  | .reservedD3 rm => rm.fits a
  | .reserved82 => true
  | .reservedD6 => true
  | .reservedF1 => true
  | .reserved0F07 => true
  | .reserved0F10 => true
  | .reserved0F11 => true
  | .reserved0F12 => true
  | .reserved0F13 => true
  | .cbw => o == .o16
  | .cwde => o == .o32
  | .cwd => o == .o16
  | .cdq => o == .o32
  | .popa => o == .o16
  | .popad => o == .o32
  | .pusha => o == .o16
  | .pushad => o == .o32
  | .aaa => true
  | .aad => true
  | .aam => true
  | .aas => true
  | .daa => true
  | .das => true
  | .inAlDx => true
  | .outDxAl => true
  | .int3 => true
  | .into => true
  | .iret => o == .o16
  | .iretd => o == .o32
  | .clc => true
  | .cld => true
  | .cli => true
  | .cmc => true
  | .lahf => true
  | .sahf => true
  | .stc => true
  | .std => true
  | .sti => true
  | .nop => true
  | .wait => true
  | .hlt => true
  | .popf => o == .o16
  | .popfd => o == .o32
  | .pushf => o == .o16
  | .pushfd => o == .o32
  | .clts => true
  | .lock => true
  | .repne => true
  | .rep => true
  | .segEs => true
  | .segCs => true
  | .segSs => true
  | .segDs => true
  | .segFs => true
  | .segGs => true
  | .opsize => true
  | .adsize => true

end Sys2Proof
end

