-- ==== Sys2Proof/Certificates/Slice0/Obligations.lean ====
section
/-! DEFINITION. The statements about the model, for the provers. A statement about a value that the spec leaves undefined
holds for every value of it. -/

open Sys2Proof Sys2Proof.Machine

/-- MOV, MOVZX and MOVSX load a register with their r/m operand, extended as the mnemonic says, and change nothing else
(R404, R406, R407). -/
def Obligations.MovesLoadTheirOperand : Prop :=
  (∀ r rm, Loads (.movR8Rm8 r rm) .b rm fun t v => setReg t .b r v) ∧
  (∀ o r rm, Loads (.movRvRmv o r rm) o.size rm fun t v => setReg t o.size r v) ∧
  (∀ o r rm, Loads (.movzxRvRm8 o r rm) .b rm fun t v => setReg t o.size r (v.setWidth o.size.bits)) ∧
  (∀ o r rm, Loads (.movzxRvRm16 o r rm) .w rm fun t v => setReg t o.size r (v.setWidth o.size.bits)) ∧
  (∀ o r rm, Loads (.movsxRvRm8 o r rm) .b rm fun t v => setReg t o.size r (v.signExtend o.size.bits)) ∧
  (∀ o r rm, Loads (.movsxRvRm16 o r rm) .w rm fun t v => setReg t o.size r (v.signExtend o.size.bits))

/-- MOV to an r/m operand stores a register or an immediate there and changes nothing else (R404). MOV r/m16,Sreg stores
the selector: two bytes in memory, and a 32-bit register gets an upper half that the spec leaves open (U6). -/
def Obligations.MovesStoreTheirSource : Prop :=
  (∀ rm r, Stores (.movRm8R8 rm r) .b rm fun s => s.regs.read .b r) ∧
  (∀ o rm r, Stores (.movRmvRv o rm r) o.size rm fun s => s.regs.read o.size r) ∧
  (∀ rm i, Stores (.movRm8Imm8 rm i) .b rm fun _ => i) ∧
  (∀ rm i, Stores (.movRm16Imm16 rm i) .w rm fun _ => i) ∧
  (∀ rm i, Stores (.movRm32Imm32 rm i) .d rm fun _ => i) ∧
  (∀ rm sr, Stores (.movRmvSreg .o16 rm sr) .w rm fun s => (s.seg sr).sel) ∧
  (∀ ea sr, Stores (.movRmvSreg .o32 (.mem ea) sr) .w (.mem ea) fun s => (s.seg sr).sel) ∧
  ∀ r sr s, Plain s →
    Completes (.movRmvSreg .o32 (.reg r) sr) s
      { setReg (markPoint s) .d r ((Config.freeWord s.draws).setWidth 16 ++ (s.seg sr).sel) with
        draws := s.draws + 1 }

/-- MOV between the accumulator and a direct offset reads or stores that operand alone (R404). -/
def Obligations.DirectMovesUseTheAccumulator : Prop :=
  (∀ p s v t, Plain s → readMem (s.dataSeg .ds) (moffsOff p) 1 (markPoint s) = .ok v t →
    Accessed (markPoint s) t ∧ Completes (.movAlMoffs8 p) s (setReg t .b .eax (ofWord .b v))) ∧
  (∀ o p s v t, Plain s → readMem (s.dataSeg .ds) (moffsOff p) o.size.bytes (markPoint s) = .ok v t →
    Accessed (markPoint s) t ∧ Completes (.movAccMoffs o p) s (setReg t o.size .eax (ofWord o.size v))) ∧
  (∀ p s t, Plain s → Mem.wf s.mem = true →
    writeMem (s.dataSeg .ds) (moffsOff p) 1 (toWord .b (s.regs.read .b .eax)) (markPoint s) = .ok () t →
    Stored (s.dataSeg .ds) (moffsOff p) 1 (markPoint s) t ∧ Completes (.movMoffs8Al p) s t) ∧
  ∀ o p s t, Plain s → Mem.wf s.mem = true →
    writeMem (s.dataSeg .ds) (moffsOff p) o.size.bytes (toWord o.size (s.regs.read o.size .eax)) (markPoint s)
      = .ok () t →
    Stored (s.dataSeg .ds) (moffsOff p) o.size.bytes (markPoint s) t ∧ Completes (.movMoffsAcc o p) s t

/-- The instructions that change one register and nothing else, in every state (R400 to R402, R404): MOV reg,imm, CBW,
CWDE, CWD, CDQ; and LEA. An effective address is the sum of its registers and its displacement, a scaled index among them,
that wraps at the address size, in the segment of a prefix, or SS where BP, EBP or ESP is a base, or else DS (R286, R312 to
R315). One that the spec calls undefined, index 100 with a scale, is refused in LEA and in every memory operand (R315, D94,
log entry 9). -/
def Obligations.RegisterMovesChangeOneRegister : Prop :=
  AddressesAreSums ∧
  ∀ s, Plain s →
    (∀ r i, Completes (.movR8Imm8 r i) s (setReg (markPoint s) .b r i)) ∧
    (∀ r i, Completes (.movR16Imm16 r i) s (setReg (markPoint s) .w r i)) ∧
    (∀ r i, Completes (.movR32Imm32 r i) s (setReg (markPoint s) .d r i)) ∧
    Completes .cbw s (setReg (markPoint s) .w .eax ((s.regs.read .b .eax).signExtend 16)) ∧
    Completes .cwde s (setReg (markPoint s) .d .eax ((s.regs.read .w .eax).signExtend 32)) ∧
    Completes .cwd s (setReg (markPoint s) .w .edx (BitVec.ofInt 16 ((s.regs.read .w .eax).toInt / 2 ^ 16))) ∧
    Completes .cdq s (setReg (markPoint s) .d .edx (BitVec.ofInt 32 (s.regs.eax.toInt / 2 ^ 32))) ∧
    (∀ o r ea, eaUndefined ea = false →
      Completes (.lea o r ea) s (setReg (markPoint s) o.size r (ofWord o.size (eaVal s.regs ea)))) ∧
    ∀ o r ea, eaUndefined ea = true →
      exec (.lea o r ea) s = .refused .sibIndex ∧ effAddr ea s = .error (.refuse .sibIndex) s

/-- XCHG exchanges its operands and changes nothing else (R408). -/
def Obligations.ExchangesSwapTheirOperands : Prop :=
  (∀ r s, Plain s →
    Completes (.xchgAxR16 r) s
      (setReg (setReg (markPoint s) .w .eax (s.regs.read .w r)) .w r (s.regs.read .w .eax))) ∧
  (∀ r s, Plain s →
    Completes (.xchgEaxR32 r) s
      (setReg (setReg (markPoint s) .d .eax (s.regs.read .d r)) .d r (s.regs.read .d .eax))) ∧
  (∀ rm r, Exchanges (.xchgRm8R8 rm r) .b rm r) ∧
  ∀ o rm r, Exchanges (.xchgRmvRv o rm r) o.size rm r

/-- PUSH stores its operand below the top of the stack, at SS and the stack pointer less the item's width, moves the stack
pointer there, and changes nothing else; the B bit of SS says whether SP or ESP is the stack pointer and wraps. A
selector pushed as a doubleword has an upper half that the spec leaves open; PUSHFD pushes RF as 0 and leaves the
reserved bits, and VM in virtual-8086 mode, open (R405, R411, R773, D32, U8, U21). -/
def Obligations.PushesStoreTheirOperand : Prop :=
  PushWritesBelow ∧
  (∀ r, Pushes (.pushR16 r) .w 0 fun s => toWord .w (s.regs.read .w r)) ∧
  (∀ r, Pushes (.pushR32 r) .d 0 fun s => toWord .d (s.regs.read .d r)) ∧
  (∀ o i, Pushes (.pushImm8 o i) o.size 0 fun _ => i.signExtend 32) ∧
  (∀ i, Pushes (.pushImm16 i) .w 0 fun _ => i.setWidth 32) ∧
  (∀ i, Pushes (.pushImm32 i) .d 0 fun _ => i) ∧
  (∀ o, Pushes (.pushCs o) o.size 1 (padded o.size .cs)) ∧
  (∀ o, Pushes (.pushSs o) o.size 1 (padded o.size .ss)) ∧
  (∀ o, Pushes (.pushDs o) o.size 1 (padded o.size .ds)) ∧
  (∀ o, Pushes (.pushEs o) o.size 1 (padded o.size .es)) ∧
  (∀ o, Pushes (.pushFs o) o.size 1 (padded o.size .fs)) ∧
  (∀ o, Pushes (.pushGs o) o.size 1 (padded o.size .gs)) ∧
  (∀ o rm s v u t, Plain s → Mem.wf s.mem = true → readRm o.size rm (markPoint s) = .ok v u →
    push o.size (toWord o.size v) u = .ok () t →
    Accessed (markPoint s) u ∧ Pushed o.size u t ∧ Completes (.pushRmv o rm) s t) ∧
  (∀ s t, Plain s → Mem.wf s.mem = true → (s.isV86 = true → s.flags.iopl = 3) →
    push .w (s.flags.low.setWidth 32) (markPoint s) = .ok () t →
    Pushed .w (markPoint s) t ∧ Completes .pushf s t) ∧
  ∀ s t, Plain s → Mem.wf s.mem = true → (s.isV86 = true → s.flags.iopl = 3) →
    push .d
        (({ s.flags with rf := false, vm := s.flags.vm && Config.freeBit s.draws } : Flags).image
          ((Config.freeWord (s.draws + 1)).setWidth 14))
        { markPoint s with draws := s.draws + 2 } = .ok () t →
    Pushed .d { markPoint s with draws := s.draws + 2 } t ∧ Completes .pushfd s t

/-- POP reads the item at SS and the stack pointer, moves the stack pointer above it, SP or ESP by the B bit of SS, and
writes the item to its destination: a register, an r/m operand whose address uses the stack pointer after the pop, a segment
register, or the flags that may change; POPF leaves RF, and it is not cleared after it (R405, R409, R772, R943, D58). POP
SS inhibits interrupts for one instruction (R907). -/
def Obligations.PopsWriteTheirDestination : Prop :=
  PopReadsTheTop ∧
  (∀ r, Pops (.popR16 r) .w fun t v => setReg t .w r (ofWord .w v)) ∧
  (∀ r, Pops (.popR32 r) .d fun t v => setReg t .d r (ofWord .d v)) ∧
  (∀ o rm s v u p w t, Plain s → Mem.wf s.mem = true → pop o.size (markPoint s) = .ok v u →
    place rm u = .ok p w → p.write o.size (ofWord o.size v) w = .ok () t →
    Popped o.size (markPoint s) u ∧ w = u ∧ Written o.size p (ofWord o.size v) w t ∧
      Completes (.popRmv o rm) s t) ∧
  (∀ o, PopsSeg (.popDs o) o.size .ds) ∧
  (∀ o, PopsSeg (.popEs o) o.size .es) ∧
  (∀ o, PopsSeg (.popSs o) o.size .ss) ∧
  (∀ o, PopsSeg (.popFs o) o.size .fs) ∧
  (∀ o, PopsSeg (.popGs o) o.size .gs) ∧
  (∀ s v t, Plain s → (s.isV86 = true → s.flags.iopl = 3) → pop .w (markPoint s) = .ok v t →
    Popped .w (markPoint s) t ∧
      Completes .popf s { t with flags := loadedFlags s v, cur := { t.cur with keepRf := true } }) ∧
  ∀ s v t, Plain s → (s.isV86 = true → s.flags.iopl = 3) → pop .d (markPoint s) = .ok v t →
    Popped .d (markPoint s) t ∧
      Completes .popfd s { t with flags := loadedFlags s v, cur := { t.cur with keepRf := true } }

/-- PUSHA pushes the eight registers with the stack pointer as it was, and POPA pops seven of them and throws the stack
pointer's item away; nothing else changes (R410, R412). -/
def Obligations.PushaAndPopaMoveAllRegisters : Prop :=
  PushesAll .pusha .w ∧ PushesAll .pushad .d ∧ PopsAll .popa .w ∧ PopsAll .popad .d

/-- The loads of a segment register: MOV Sreg, LDS, LES, LSS, LFS, LGS. The segment register is loaded, for a full pointer
the general register too, and nothing else changes; MOV SS inhibits interrupts for one instruction and LSS does not
(R403, R404, R907). A full pointer's offset comes first in memory and its selector after it; that the selector's offset wraps
modulo 2^32 is the model's choice of log entry 56. XLAT loads AL from the table at (E)BX + AL (R413). -/
def Obligations.SegmentAndTableLoadsComplete : Prop :=
  FarPointerInMemory ∧
  (∀ sr rm s v u t, Plain s → readRm .w rm (markPoint s) = .ok v u → loadSeg sr v u = .ok () t →
    Accessed (markPoint s) u ∧ SegLoaded sr u t ∧ Completes (.movSregRm16 sr rm) s (inhibited sr t)) ∧
  (∀ o r ea, LoadsPointer (.lds o r ea) .ds o r ea) ∧
  (∀ o r ea, LoadsPointer (.les o r ea) .es o r ea) ∧
  (∀ o r ea, LoadsPointer (.lss o r ea) .ss o r ea) ∧
  (∀ o r ea, LoadsPointer (.lfs o r ea) .fs o r ea) ∧
  (∀ o r ea, LoadsPointer (.lgs o r ea) .gs o r ea) ∧
  ∀ a s v t, Plain s →
    readMem (s.dataSeg .ds)
        (stackOff a (toWord (asizeOf a) (s.regs.read (asizeOf a) .ebx) + (s.regs.read .b .eax).setWidth 32)) 1
        (markPoint s) = .ok v t →
    Accessed (markPoint s) t ∧ Completes (.xlat a) s (setReg t .b .eax (v.setWidth 8))

/-- The eight two-operand arithmetic and logical instructions in all their eleven encodings: the result of the operation
goes to the destination (CMP stores none), the status flags are those of the operation, and nothing else changes (R454 to
R456, R464, R465, R522, R530, R544). LOCK may precede the forms that store to memory. TEST sets the flags of AND and changes
nothing else (R543). -/
def Obligations.ArithmeticWritesResultAndFlags : Prop :=
  (∀ op : AluOp,
     (∀ rm r, AluTo op (.rm8R8 rm r) .b rm fun t => t.regs.read .b r) ∧
     (∀ o rm r, AluTo op (.rmvRv o rm r) o.size rm fun t => t.regs.read o.size r) ∧
     (∀ i, AluTo op (.alImm8 i) .b (.reg .eax) fun _ => i) ∧
     (∀ i, AluTo op (.axImm16 i) .w (.reg .eax) fun _ => i) ∧
     (∀ i, AluTo op (.eaxImm32 i) .d (.reg .eax) fun _ => i) ∧
     (∀ rm i, AluTo op (.rm8Imm8 rm i) .b rm fun _ => i) ∧
     (∀ rm i, AluTo op (.rm16Imm16 rm i) .w rm fun _ => i) ∧
     (∀ rm i, AluTo op (.rm32Imm32 rm i) .d rm fun _ => i) ∧
     (∀ o rm i, AluTo op (.rmvImm8 o rm i) o.size rm fun _ => i.signExtend o.size.bits) ∧
     (∀ r rm, AluFrom op (.r8Rm8 r rm) .b r rm) ∧
     ∀ o r rm, AluFrom op (.rvRmv o r rm) o.size r rm) ∧
  (∀ rm i, TestsAnd (.testRm8Imm8 rm i) .b rm fun _ => i) ∧
  (∀ rm i, TestsAnd (.testRm16Imm16 rm i) .w rm fun _ => i) ∧
  (∀ rm i, TestsAnd (.testRm32Imm32 rm i) .d rm fun _ => i) ∧
  (∀ i, TestsAnd (.testAlImm8 i) .b (.reg .eax) fun _ => i) ∧
  (∀ i, TestsAnd (.testAxImm16 i) .w (.reg .eax) fun _ => i) ∧
  (∀ i, TestsAnd (.testEaxImm32 i) .d (.reg .eax) fun _ => i) ∧
  (∀ rm r, TestsAnd (.testRm8R8 rm r) .b rm fun t => t.regs.read .b r) ∧
  ∀ o rm r, TestsAnd (.testRmvRv o rm r) o.size rm fun t => t.regs.read o.size r

/-- INC and DEC set the flags of adding and subtracting 1 but leave CF; NEG subtracts from 0; NOT inverts and changes no
flag (R457, R461, R463, R529). -/
def Obligations.UnaryOperationsWriteTheirOperand : Prop :=
  (∀ rm, Updates (.incRm8 rm) (rmIsMem rm) .b rm 0 (fun _ a => a + 1) fun t a =>
    { t.flags.add a 1 false with cf := t.flags.cf }) ∧
  (∀ o rm, Updates (.incRmv o rm) (rmIsMem rm) o.size rm 0 (fun _ a => a + 1) fun t a =>
    { t.flags.add a 1 false with cf := t.flags.cf }) ∧
  (∀ r, Updates (.incR16 r) false .w (.reg r) 0 (fun _ a => a + 1) fun t a =>
    { t.flags.add a 1 false with cf := t.flags.cf }) ∧
  (∀ r, Updates (.incR32 r) false .d (.reg r) 0 (fun _ a => a + 1) fun t a =>
    { t.flags.add a 1 false with cf := t.flags.cf }) ∧
  (∀ rm, Updates (.decRm8 rm) (rmIsMem rm) .b rm 0 (fun _ a => a - 1) fun t a =>
    { t.flags.sub a 1 false with cf := t.flags.cf }) ∧
  (∀ o rm, Updates (.decRmv o rm) (rmIsMem rm) o.size rm 0 (fun _ a => a - 1) fun t a =>
    { t.flags.sub a 1 false with cf := t.flags.cf }) ∧
  (∀ r, Updates (.decR16 r) false .w (.reg r) 0 (fun _ a => a - 1) fun t a =>
    { t.flags.sub a 1 false with cf := t.flags.cf }) ∧
  (∀ r, Updates (.decR32 r) false .d (.reg r) 0 (fun _ a => a - 1) fun t a =>
    { t.flags.sub a 1 false with cf := t.flags.cf }) ∧
  (∀ rm, Updates (.negRm8 rm) (rmIsMem rm) .b rm 0 (fun _ a => -a) fun t a => t.flags.sub 0 a false) ∧
  (∀ o rm, Updates (.negRmv o rm) (rmIsMem rm) o.size rm 0 (fun _ a => -a) fun t a => t.flags.sub 0 a false) ∧
  (∀ rm, Updates (.notRm8 rm) (rmIsMem rm) .b rm 0 (fun _ a => ~~~a) fun t _ => t.flags) ∧
  ∀ o rm, Updates (.notRmv o rm) (rmIsMem rm) o.size rm 0 (fun _ a => ~~~a) fun t _ => t.flags

/-- MUL and IMUL: the exact product goes to the accumulator pair, or its low half to the destination register; CF and OF
are set exactly when the high half does not follow from the low one, and the other status flags are undefined (R460,
R462). -/
def Obligations.MultiplicationWritesTheProduct : Prop :=
  (∀ rm, Multiplies (.mulRm8 rm) .b rm) ∧
  (∀ o rm, Multiplies (.mulRmv o rm) o.size rm) ∧
  (∀ rm, MultipliesSigned (.imulRm8 rm) .b rm) ∧
  (∀ o rm, MultipliesSigned (.imulRmv o rm) o.size rm) ∧
  (∀ o r rm, MultipliesInto (.imulRvRmv o r rm) o.size r rm fun t => t.regs.read o.size r) ∧
  (∀ o r rm i, MultipliesInto (.imulRvRmvImm8 o r rm i) o.size r rm fun _ => i.signExtend o.size.bits) ∧
  (∀ r rm i, MultipliesInto (.imulR16Rm16Imm16 r rm i) .w r rm fun _ => i) ∧
  ∀ r rm i, MultipliesInto (.imulR32Rm32Imm32 r rm i) .d r rm fun _ => i

/-- DIV and IDIV divide the accumulator pair: quotient and remainder are those of exact division whenever the quotient
fits; a divisor of 0 and a quotient that does not fit are #DE (R458, R459, R910). -/
def Obligations.DivisionWritesQuotientAndRemainder : Prop :=
  (∀ rm, Divides (.divRm8 rm) .b rm) ∧
  (∀ o rm, Divides (.divRmv o rm) o.size rm) ∧
  (∀ rm, DividesSigned (.idivRm8 rm) .b rm) ∧
  ∀ o rm, DividesSigned (.idivRmv o rm) o.size rm

/-- The seven shifts and rotates in their six encodings, by 1, by CL and by an immediate, and SHLD and SHRD in their two
(R531 to R539, R541, R542). -/
def Obligations.ShiftsWriteResultAndFlags : Prop :=
  (∀ op : ShiftOp,
     (∀ rm, ShiftTo op (op.instr (.rm8One rm)) .b rm fun _ => 1) ∧
     (∀ rm, ShiftTo op (op.instr (.rm8Cl rm)) .b rm fun t => t.regs.read .b .ecx) ∧
     (∀ rm i, ShiftTo op (op.instr (.rm8Imm8 rm i)) .b rm fun _ => i) ∧
     (∀ o rm, ShiftTo op (op.instr (.rmvOne o rm)) o.size rm fun _ => 1) ∧
     (∀ o rm, ShiftTo op (op.instr (.rmvCl o rm)) o.size rm fun t => t.regs.read .b .ecx) ∧
     ∀ o rm i, ShiftTo op (op.instr (.rmvImm8 o rm i)) o.size rm fun _ => i) ∧
  (∀ o rm r i, DoubleShift (.shldRmvRvImm8 o rm r i) o.size rm r (fun _ => i) shldApply) ∧
  (∀ o rm r, DoubleShift (.shldRmvRvCl o rm r) o.size rm r (fun s => s.regs.read .b .ecx) shldApply) ∧
  (∀ o rm r i, DoubleShift (.shrdRmvRvImm8 o rm r i) o.size rm r (fun _ => i) shrdApply) ∧
  ∀ o rm r, DoubleShift (.shrdRmvRvCl o rm r) o.size rm r (fun s => s.regs.read .b .ecx) shrdApply

/-- BT, BTS, BTR and BTC: the bit is the offset modulo the operand's width; a register offset also selects the memory
operand it lies in, by a division that rounds toward negative infinity; that bit is set, cleared or complemented, or only
tested, and no other bit of the operand changes (R520, R521, R525 to R528, D23). BSF finds the lowest set bit and BSR the
highest (R523, R524). -/
def Obligations.BitInstructionsTestAndChangeOneBit : Prop :=
  BitsAreChangedSingly ∧ BitOffsetsSelectOperands ∧
  (∀ (op : BitOp) (o : OSize) (rm : Rm),
     (∀ i, BitsTo op (op.instrImm o rm i) (rmIsMem rm) o.size (place rm) fun _ => i.toNat % o.size.bits) ∧
     ∀ r, BitsTo op (op.instrR o rm r) (rmIsMem rm) o.size
       (do
         let off ← readReg o.size r
         bitPlace o.size rm off)
       fun s => (s.regs.read o.size r).toNat % o.size.bits) ∧
  (∀ o r rm, Scans (.bsf o r rm) o.size r rm fun k j => k ≤ j) ∧
  ∀ o r rm, Scans (.bsr o r rm) o.size r rm fun k j => j ≤ k

/-- SETcc stores 1 if the condition holds and 0 if not, and changes nothing else (R540). -/
def Obligations.SetccStoresTheCondition : Prop :=
  ∀ rm,
    Stores (.seto rm) .b rm (condByte .o) ∧ Stores (.setno rm) .b rm (condByte .no) ∧
    Stores (.setb rm) .b rm (condByte .b) ∧ Stores (.setae rm) .b rm (condByte .ae) ∧
    Stores (.sete rm) .b rm (condByte .e) ∧ Stores (.setne rm) .b rm (condByte .ne) ∧
    Stores (.setbe rm) .b rm (condByte .be) ∧ Stores (.seta rm) .b rm (condByte .a) ∧
    Stores (.sets rm) .b rm (condByte .s) ∧ Stores (.setns rm) .b rm (condByte .ns) ∧
    Stores (.setp rm) .b rm (condByte .p) ∧ Stores (.setnp rm) .b rm (condByte .np) ∧
    Stores (.setl rm) .b rm (condByte .l) ∧ Stores (.setge rm) .b rm (condByte .ge) ∧
    Stores (.setle rm) .b rm (condByte .le) ∧ Stores (.setg rm) .b rm (condByte .g)

/-- The decimal adjustments change AX and the status flags alone (R500 to R505): AAA and AAS adjust by their test on the
low digit and AF, AAD and AAM convert between two digits and a number, DAA and DAS adjust both digits. -/
def Obligations.DecimalAdjustmentsChangeAxAndFlags : Prop :=
  ∀ s, Plain s →
    let al := s.regs.read .b .eax
    let ah := s.regs.read .b .esp
    let m := markPoint s
    let u := statusAt s.draws
    let c := needsAdjust al s.flags.af
    Completes .aaa s
      { setReg m .w .eax (if c then (ah + 1) ++ ((al + 6) &&& 0x0F) else ah ++ (al &&& 0x0F)) with
        flags := { s.flags.undefined u with af := c, cf := c }
        draws := s.draws + 6 } ∧
    Completes .aas s
      { setReg m .w .eax (if c then (ah - 1) ++ ((al - 6) &&& 0x0F) else ah ++ (al &&& 0x0F)) with
        flags := { s.flags.undefined u with af := c, cf := c }
        draws := s.draws + 6 } ∧
    Completes .aad s
      { setReg m .w .eax (0#8 ++ (ah * 10 + al)) with
        flags := (s.flags.undefined u).result (ah * 10 + al)
        draws := s.draws + 6 } ∧
    Completes .aam s
      { setReg m .w .eax ((al / 10) ++ (al % 10)) with
        flags := (s.flags.undefined u).result (al % 10)
        draws := s.draws + 6 } ∧
    (let al1 := if c then al + 6 else al
     let c2 := decide (0x9F < al1.toNat) || s.flags.cf
     let al2 := if c2 then al1 + 0x60 else al1
     Completes .daa s
      { setReg m .b .eax al2 with
        flags := { s.flags.result al2 with af := c, cf := c2, ov := Config.freeBit s.draws }
        draws := s.draws + 1 }) ∧
    let al1 := if c then al - 6 else al
    let c2 := decide (0x9F < al1.toNat) || s.flags.cf
    let al2 := if c2 then al1 - 0x60 else al1
    Completes .das s
      { setReg m .b .eax al2 with
        flags := { s.flags.result al2 with af := c, cf := c2, ov := Config.freeBit s.draws }
        draws := s.draws + 1 }

/-- Jcc jumps when its condition, as the table of R620 prints it, holds of the flags, and changes nothing but EIP; JCXZ and
JECXZ jump when the count register is 0 (R620, R621). -/
def Obligations.ConditionalJumpsFollowTheirCondition : Prop :=
  (∀ c f, JumpsIf (jccInstr c f) (fun s => condHolds c s.flags) (jccTarget f) id) ∧
  (∀ c f, condHolds c f = true ↔ condMeans c f) ∧
  (∀ o d, JumpsIf (.jcxz o d) (fun s => s.regs.read .w .ecx == 0) (relTarget o (d.signExtend 32)) id) ∧
  ∀ o d, JumpsIf (.jecxz o d) (fun s => s.regs.ecx == 0) (relTarget o (d.signExtend 32)) id

/-- LOOP, LOOPE and LOOPNE decrement the count register and jump while it is not 0 and, for the conditional forms, ZF is
as their name says (R624). -/
def Obligations.LoopsCountDownAndJump : Prop :=
  ∀ o a d,
    LoopsWhile (.loop o a d) o a d (fun _ => true) ∧
    LoopsWhile (.loope o a d) o a d (fun zf => zf) ∧
    LoopsWhile (.loopne o a d) o a d (fun zf => !zf)

/-- The near transfers (R601, R602, R622, R625): JMP changes EIP alone, CALL pushes the address of the next instruction
first, with the operand read before the push, and RET pops it and drops its immediate's bytes; a target outside the code
segment is #GP(0) in protected mode. That outside protected mode the transfer itself completes, and a target beyond the limit
faults when it is fetched, is the model's choice of log entry 40 (DEDUCED). -/
def Obligations.NearTransfersSetTheInstructionPointer : Prop :=
  (∀ o d, JumpsIf (.jmpRel8 o d) (fun _ => true) (relTarget o (d.signExtend 32)) id) ∧
  (∀ d, JumpsIf (.jmpRel16 d) (fun _ => true) (relTarget .o16 (d.signExtend 32)) id) ∧
  (∀ d, JumpsIf (.jmpRel32 d) (fun _ => true) (relTarget .o32 d) id) ∧
  (∀ o rm s v t, Plain s → readRm o.size rm (markPoint s) = .ok v t →
    Accessed (markPoint s) t ∧
      (NearFits s (toWord o.size v) → Completes (.jmpRmv o rm) s (goTo t (toWord o.size v))) ∧
      (¬NearFits s (toWord o.size v) → exec (.jmpRmv o rm) s = deliverExc (.gp 0) (markPoint s) t)) ∧
  (∀ d, CallsNear (.callRel16 d) .o16 (relTarget .o16 (d.signExtend 32))) ∧
  (∀ d, CallsNear (.callRel32 d) .o32 (relTarget .o32 d)) ∧
  (∀ o rm s v u, Plain s → Mem.wf s.mem = true → readRm o.size rm (markPoint s) = .ok v u →
    Accessed (markPoint s) u ∧
      (∀ t, NearFits s (toWord o.size v) → push o.size s.eip u = .ok () t →
        Pushed o.size u t ∧ Completes (.callRmv o rm) s (goTo t (toWord o.size v))) ∧
      (¬NearFits s (toWord o.size v) → exec (.callRmv o rm) s = deliverExc (.gp 0) (markPoint s) u)) ∧
  (∀ o, ReturnsNear (.retNear o) o 0) ∧
  ∀ o n, ReturnsNear (.retNearImm16 o n) o n

/-- The far transfers outside protected mode (R603, R623, R626): CS takes the selector and 16 times it as its base, EIP the
offset; CALL pushes CS and EIP first, and RET pops them. And RET far in protected mode (R627): to the same level after the
checks on CS, and to an outer level with the stack of that level, the immediate added to both stack pointers, and the data
segment registers that the outer level may not hold made null. That the return to an outer level loads ESP or SP by the B
bit of the new stack segment is the model's choice of log entry 60. -/
def Obligations.FarTransfersLoadSelectorAndBase : Prop :=
  (∀ j c o s sel off m, FarOperand j c o s sel off m → Plain s → s.isProtected = false →
    Accessed (markPoint s) m ∧ Completes j s (goFar m (csOf8086 s sel) off) ∧
      ∀ t, Mem.wf s.mem = true → PushesReturn o.size m t →
        PushedChain o.size 2 { m with draws := m.draws + 1 } t ∧ Completes c s (goFar t (csOf8086 s sel) off)) ∧
  (∀ o, ReturnsFar (.retFar o) o 0) ∧ (∀ o n, ReturnsFar (.retFarImm16 o n) o n) ∧
  (∀ o, ReturnsFarSame (.retFar o) o.size 0) ∧ (∀ o n, ReturnsFarSame (.retFarImm16 o n) o.size n) ∧
  (∀ o, ReturnsFarOuter (.retFar o) o.size 0) ∧ ∀ o n, ReturnsFarOuter (.retFarImm16 o n) o.size n

/-- The far transfers in protected mode, with a pointer in the instruction or in memory. To a code segment that fits, JMP
loads CS and EIP without a change of CPL, and CALL pushes the return address first (R605, R623). Through a call gate, JMP
stays at CPL, and CALL also reaches an inner level, with its stack: the old SS and (E)SP are pushed, then the gate's
parameters are copied, then the return address is pushed (R606, R607, R623). To an available TSS, directly or through a task
gate, the task is switched, for CALL nested, after the tests of privilege, table and presence (R608, R623, R990). A selector
that is null, lies outside its table, or names neither code, a gate nor an available TSS is #GP (R604, R623). The model's
choices among this: an inner stack with B = 0 takes SP alone (log entry 60), the upper half of the doubleword that holds the
old SS or CS is open (log entry 49), the parameters are read at the level of the old stack (log entry 71), the trap of a new
TSS comes before the test of its EIP (log entry 61). -/
def Obligations.FarTransfersCheckTheCodeSegment : Prop :=
  ∀ j c o s sel off m, FarOperand j c o s sel off m → Plain s → s.isProtected = true →
    ReachesCode j c o s sel off m ∧ PassesGate j c s sel m ∧ ReachesTss j c s sel m ∧ PassesTaskGate j c s sel m ∧
      RejectsSelector j c s sel m

/-- INT n, INT 3 and INTO take their vector as a software interrupt; INT n is #GP(0) in virtual-8086 mode unless IOPL is 3,
and INTO does nothing when OF is clear (R610 to R612). -/
def Obligations.SoftwareInterruptsTakeTheirVector : Prop :=
  ∀ s, Plain s →
    TakesSoft .int3 3 s ∧
    (∀ n, (s.isV86 = true → s.flags.iopl = 3) → TakesSoft (.intImm8 n) n s) ∧
    (∀ n, s.isV86 = true → s.flags.iopl ≠ 3 →
      exec (.intImm8 n) s = deliverExc (.gp 0) (markPoint s) (markPoint s)) ∧
    (s.flags.ov = true → TakesSoft .into 4 s) ∧
    (s.flags.ov = false → Completes .into s (markPoint s))

/-- BOUND changes nothing when the index lies within its bounds, the bounds included and compared as signed numbers, and is
interrupt 5 otherwise (R600). That the upper bound's offset wraps modulo 2^32 is the model's choice of log entry 56. -/
def Obligations.BoundComparesSignedBounds : Prop :=
  ∀ o r ea s off w lo u hi t, Plain s → effAddr ea (markPoint s) = .ok off w →
    readMem (s.dataSeg (eaSeg ea)) off o.size.bytes w = .ok lo u →
    readMem (s.dataSeg (eaSeg ea)) (off + BitVec.ofNat 32 o.size.bytes) o.size.bytes u = .ok hi t →
    let v := (s.regs.read o.size r).toInt
    let inside := (ofWord o.size lo).toInt ≤ v ∧ v ≤ (ofWord o.size hi).toInt
    Accessed (markPoint s) t ∧
      (inside → Completes (.bound o r ea) s t) ∧
      (¬inside → exec (.bound o r ea) s = deliverExc .br (markPoint s) t)

/-- ENTER pushes the frame pointer, copies the enclosing frame pointers of its level and the new one, sets the frame
pointer and makes room for its locals, and in protected mode is #SS(0) if that leaves the stack segment; LEAVE undoes it
(R770, R771). A 16-bit stack pointer leaves the upper half of a doubleword frame pointer open (the model's choice of log
entry 58). -/
def Obligations.EnterAndLeaveBuildStackFrames : Prop :=
  (∀ o n (l : BitVec 8) s t, Plain s → Mem.wf s.mem = true → l.toNat % 32 = 0 →
    push o.size (toWord o.size (s.regs.read o.size .ebp)) (markPoint s) = .ok () t →
    Pushed o.size (markPoint s) t ∧ FrameEnds (.enter o n l) o n s t.regs.esp t) ∧
  (∀ o n (l : BitVec 8) s t u w, Plain s → Mem.wf s.mem = true → l.toNat % 32 ≠ 0 →
    push o.size (toWord o.size (s.regs.read o.size .ebp)) (markPoint s) = .ok () t →
    copyFrames o.size (l.toNat % 32 - 1) s.regs.ebp t = .ok () u →
    push o.size (frameWord o s t.regs.esp u.draws) (frameDrawn o s u) = .ok () w →
    Pushed o.size (markPoint s) t ∧ FramesCopied o.size (l.toNat % 32 - 1) t u ∧ Pushed o.size (frameDrawn o s u) w ∧
      FrameEnds (.enter o n l) o n s t.regs.esp w) ∧
  ∀ o s v t, Plain s → pop o.size (atSp (markPoint s) s.regs.ebp) = .ok v t →
    Popped o.size (atSp (markPoint s) s.regs.ebp) t ∧ Completes (.leave o) s (setReg t o.size .ebp (ofWord o.size v))

/-- The fifteen string instructions on memory, once and repeated (R700 to R705, R710). -/
def Obligations.StringInstructionsRunAndRepeat : Prop :=
  ∀ a,
    StringRuns (.movsb a) a false (MovsStep a .b) ∧ StringRuns (.movsw a) a false (MovsStep a .w) ∧
    StringRuns (.movsd a) a false (MovsStep a .d) ∧
    StringRuns (.cmpsb a) a true (CmpsStep a .b) ∧ StringRuns (.cmpsw a) a true (CmpsStep a .w) ∧
    StringRuns (.cmpsd a) a true (CmpsStep a .d) ∧
    StringRuns (.stosb a) a false (StosStep a .b) ∧ StringRuns (.stosw a) a false (StosStep a .w) ∧
    StringRuns (.stosd a) a false (StosStep a .d) ∧
    StringRuns (.lodsb a) a false (LodsStep a .b) ∧ StringRuns (.lodsw a) a false (LodsStep a .w) ∧
    StringRuns (.lodsd a) a false (LodsStep a .d) ∧
    StringRuns (.scasb a) a true (ScasStep a .b) ∧ StringRuns (.scasw a) a true (ScasStep a .w) ∧
    StringRuns (.scasd a) a true (ScasStep a .d)

/-- Input and output: IN, OUT, INS and OUTS at a port whose use is permitted (R720 to R723). A word or doubleword that runs
past port FFFFH is refused (R270, D103, log entry 11). The value that a port gives is open, one for each
access (the model's choice of log entry 16). -/
def Obligations.PortInstructionsMoveTheirData : Prop :=
  (∀ i, Inputs (.inAlImm8 i) .b fun _ => i.setWidth 16) ∧
  (∀ o i, Inputs (.inAccImm8 o i) o.size fun _ => i.setWidth 16) ∧
  Inputs .inAlDx .b portDx ∧
  (∀ o, Inputs (.inAccDx o) o.size portDx) ∧
  (∀ i, Outputs (.outImm8Al i) .b fun _ => i.setWidth 16) ∧
  (∀ o i, Outputs (.outImm8Acc o i) o.size fun _ => i.setWidth 16) ∧
  Outputs .outDxAl .b portDx ∧
  (∀ o, Outputs (.outDxAcc o) o.size portDx) ∧
  ∀ a,
    StringRuns (.insb a) a false (InsStep a .b) ∧ StringRuns (.insw a) a false (InsStep a .w) ∧
    StringRuns (.insd a) a false (InsStep a .d) ∧
    StringRuns (.outsb a) a false (OutsStep a .b) ∧ StringRuns (.outsw a) a false (OutsStep a .w) ∧
    StringRuns (.outsd a) a false (OutsStep a .d) ∧
    PortRefused (.insw a) (.outsw a) a .w ∧ PortRefused (.insd a) (.outsd a) a .d

/-- What a string instruction leaves (R700 to R705, R721, R723): the element stored, for INS by the translation that was
checked before the port was read, the registers it names, and Accessed and Dirty
bits; every other byte of memory and every other register is as before. -/
def Obligations.StringElementsChangeOnlyTheirOperands : Prop :=
  ∀ a z s t, Mem.wf s.mem = true →
    (MovsStep a z s t → ∃ u w, Accessed s u ∧ Stored .es (indexOf a .edi s) z.bytes u w ∧
      t = advanced a z .edi (advanced a z .esi w)) ∧
    (CmpsStep a z s t → ∃ u f, Accessed s u ∧ t = advanced a z .edi (advanced a z .esi { u with flags := f })) ∧
    (StosStep a z s t → ∃ w, Stored .es (indexOf a .edi s) z.bytes s w ∧ t = advanced a z .edi w) ∧
    (LodsStep a z s t → ∃ u v, Accessed s u ∧ t = advanced a z .esi (setReg u z .eax v)) ∧
    (ScasStep a z s t → ∃ u f, Accessed s u ∧ t = advanced a z .edi { u with flags := f }) ∧
    (InsStep a z s t → ∃ u ts v w, Accessed s u ∧ probeMem .es (indexOf a .edi s) z.bytes u = .ok ts v ∧ Accessed u v ∧
      StoredAt (probedAt s .es (indexOf a .edi s) z.bytes ts) (portReadDone (portDx s) z v) w ∧
      t = advanced a z .edi w) ∧
    (OutsStep a z s t → ∃ u x, Accessed s u ∧ t = advanced a z .esi (portWriteDone (portDx s) z x u))

/-- CLC, CLD, CMC, STC and STD change one flag and nothing else, in every mode, and their encodings decode to them (R760,
R761, R763, R766, R767). -/
def Obligations.FlagInstructionsChangeOneFlag : Prop :=
  (∀ o a rest,
    decode o a (0xF8#8 :: rest) = .ok (.clc, rest) ∧ decode o a (0xFC#8 :: rest) = .ok (.cld, rest) ∧
    decode o a (0xF5#8 :: rest) = .ok (.cmc, rest) ∧ decode o a (0xF9#8 :: rest) = .ok (.stc, rest) ∧
    decode o a (0xFD#8 :: rest) = .ok (.std, rest)) ∧
  FlagsBecome .clc (fun f => { f with cf := false }) ∧
  FlagsBecome .cld (fun f => { f with df := false }) ∧
  FlagsBecome .cmc (fun f => { f with cf := !f.cf }) ∧
  FlagsBecome .stc (fun f => { f with cf := true }) ∧
  FlagsBecome .std (fun f => { f with df := true })

/-- SAHF loads SF, ZF, AF, PF and CF from AH and leaves OF and every other flag (R765). -/
def Obligations.SahfLoadsFiveFlags : Prop :=
  (∀ o a rest, decode o a (0x9E#8 :: rest) = .ok (.sahf, rest)) ∧
  ∀ s, Plain s →
    let ah : Byte := s.regs.eax.extractLsb' 8 8
    Completes .sahf s
      { markPoint s with
        flags :=
          { s.flags with
            sf := ah.getLsbD 7
            zf := ah.getLsbD 6
            af := ah.getLsbD 4
            pf := ah.getLsbD 2
            cf := ah.getLsbD 0 } }

/-- NOP changes nothing, and exchanging EAX with itself is the same (R780). -/
def Obligations.NopChangesNothing : Prop :=
  (∀ o a rest, decode o a (0x90#8 :: rest) = .ok (.nop, rest)) ∧
  ∀ s, Plain s →
    Completes .nop s (markPoint s) ∧ exec (.xchgEaxR32 .eax) s = exec .nop s

/-- LAHF writes AH alone: SF, ZF, AF, PF and CF at bits 7, 6, 4, 2 and 0, and bits that the spec leaves open at 5, 3 and 1
(R764, U3). -/
def Obligations.LahfStoresFiveFlags : Prop :=
  ∀ s, Plain s → ∃ ah : Byte,
    ah.getLsbD 7 = s.flags.sf ∧ ah.getLsbD 6 = s.flags.zf ∧ ah.getLsbD 4 = s.flags.af ∧
    ah.getLsbD 2 = s.flags.pf ∧ ah.getLsbD 0 = s.flags.cf ∧
    Completes .lahf s
      { markPoint s with
        regs := { s.regs with eax := s.regs.eax.extractLsb' 16 16 ++ ah ++ s.regs.eax.extractLsb' 0 8 }
        draws := s.draws + 1 }

/-- CLI and STI change IF alone where CPL is at most IOPL, and are #GP(0) elsewhere; after STI has set IF, INTR waits for
one more instruction (R762, R768, R908). -/
def Obligations.CliAndStiNeedTheIoPrivilege : Prop :=
  ∀ s, Plain s →
    (MayChangeIf s →
      Completes .cli s { markPoint s with flags := { s.flags with ie := false } } ∧
      Completes .sti s
        { markPoint s with
          flags := { s.flags with ie := true }
          latches := { s.latches with stiShadow := !s.flags.ie } }) ∧
    (¬MayChangeIf s →
      exec .cli s = deliverExc (.gp 0) (markPoint s) (markPoint s) ∧
      exec .sti s = deliverExc (.gp 0) (markPoint s) (markPoint s))

/-- The eleven prefixes are noted for the instruction that follows and change nothing else (R285, R286, R305, R710). A LOCK
prefix before an instruction or form that R790 does not list is an undefined opcode, in every mode (R287, R790). A repeat
prefix before an instruction that is no string instruction is refused, unless LOCK makes it an undefined opcode or the
reserved opcode is refused by its own name (R287, R352, D93). That of F2 and F3 before one instruction the last is noted is
the model's choice of log entry 72. -/
def Obligations.PrefixesAreNoted : Prop :=
  (Notes .lock (fun c => { c with lock := true }) ∧
   Notes .repne (fun c => { c with rep := some .repne }) ∧
   Notes .rep (fun c => { c with rep := some .repe }) ∧
   Notes .segEs (fun c => { c with seg := some .es }) ∧
   Notes .segCs (fun c => { c with seg := some .cs }) ∧
   Notes .segSs (fun c => { c with seg := some .ss }) ∧
   Notes .segDs (fun c => { c with seg := some .ds }) ∧
   Notes .segFs (fun c => { c with seg := some .fs }) ∧
   Notes .segGs (fun c => { c with seg := some .gs }) ∧
   Notes .opsize (fun c => { c with osz := true }) ∧
   Notes .adsize (fun c => { c with asz := true })) ∧
  (∀ i s, s.cur.lock = true → lockAllowed i = false → isPrefix i = false → isReserved i = false →
    exec i s = deliverExc .ud (markPoint s) s) ∧
  ∀ i s, s.cur.rep ≠ none → s.cur.lock = false ∨ lockAllowed i = true → isString i = false → isPrefix i = false →
    isReserved i = false → exec i s = .refused .repeatPrefix

/-- ESC raises coprocessor not available when EM or TS is set, and WAIT when TS and MP are; WAIT waits while BUSY# is
active, reports ERROR# as exception 16, and otherwise changes nothing (R795, R796, R925). ESC with EM and TS clear reaches
the coprocessor, and the reserved opcodes have no effect that the spec gives: both are refused (D64, R351, D91, log entries
28 and 29). That a reserved opcode is refused under LOCK too, and that each step of a waiting WAIT ends with EIP at the WAIT
itself, are the model's choices of log entries 66 and 22. -/
def Obligations.CoprocessorAndReservedOpcodes : Prop :=
  (∀ n rm, Escapes (.escD8 n rm) rm ∧ Escapes (.escD9 n rm) rm ∧ Escapes (.escDA n rm) rm ∧ Escapes (.escDB n rm) rm ∧
    Escapes (.escDC n rm) rm ∧ Escapes (.escDD n rm) rm ∧ Escapes (.escDE n rm) rm ∧ Escapes (.escDF n rm) rm) ∧
  (∀ s, Plain s →
    (s.sys.cr0.ts = true ∧ s.sys.cr0.mp = true →
      exec .wait s = deliverExc .nm (markPoint s) (markPoint s)) ∧
    (¬(s.sys.cr0.ts = true ∧ s.sys.cr0.mp = true) →
      (s.now.busy = false → s.now.error = false → Completes .wait s (markPoint s)) ∧
      (s.now.busy = false → s.now.error = true → exec .wait s = deliverExc .mf (markPoint s) (markPoint s)) ∧
      (s.now.busy = true →
        Completes .wait s
          { markPoint s with
            eip := s.cur.start
            cur := { (markPoint s).cur with again := true, soft := true } }))) ∧
  ∀ i s, isReserved i = true → exec i s = .refused .reservedOpcode

/-- CLTS clears CR0.TS and HLT halts, at CPL 0, and neither changes anything else (R821, R822). A HLT executed with TF set is
refused, since whether its trap comes at once or after the halt is not described (R1012, D102, log entry 10). -/
def Obligations.ClearTaskSwitchedAndHalt : Prop :=
  ∀ s, Plain s → s.curCpl = 0 →
    Completes .clts s
      { markPoint s with sys := { s.sys with cr0 := { s.sys.cr0 with ts := false } } } ∧
    (s.flags.tf = false →
      Completes .hlt s
        { markPoint s with latches := { s.latches with halted := true }, io := .halt :: s.io }) ∧
    (s.flags.tf = true → exec .hlt s = .refused .haltTraced)

/-- SGDT, SIDT, LGDT and LIDT store and load a limit and a base; SMSW, SLDT and STR store sixteen bits whatever the operand
size (R824, R831 to R834). That the base's offset in memory wraps modulo 2^32 is the model's choice of log entry 56. -/
def Obligations.TableRegistersAreStoredAndLoaded : Prop :=
  (∀ o ea, StoresTable (.sgdt o ea) o ea fun s => s.sys.gdtr) ∧
  (∀ o ea, StoresTable (.sidt o ea) o ea fun s => s.sys.idtr) ∧
  (∀ o ea, LoadsTable (.lgdt o ea) o ea fun g t => { g with gdtr := t }) ∧
  (∀ o ea, LoadsTable (.lidt o ea) o ea fun g t => { g with idtr := t }) ∧
  (∀ o rm, Stores (.smsw o rm) .w rm fun s => s.sys.cr0.image.setWidth 16) ∧
  (∀ o rm, StoresSys (.sldt o rm) rm fun s => s.sys.ldtr.sel) ∧
  (∀ o rm, StoresSys (.str o rm) rm fun s => s.sys.tr.sel) ∧
  ∀ c : Cr0, c.image.getLsbD 0 = c.pe ∧ c.image.getLsbD 1 = c.mp ∧ c.image.getLsbD 2 = c.em ∧
    c.image.getLsbD 3 = c.ts ∧ c.image.getLsbD 4 = true ∧ c.image.getLsbD 31 = c.pg ∧
    ∀ k, 5 ≤ k → k < 31 → c.image.getLsbD k = false

/-- LMSW loads TS, EM and MP and can set PE but not clear it; LLDT loads LDTR from an LDT descriptor, or marks it invalid
for a null selector; LTR loads TR from an available TSS and marks that descriptor busy (R826, R827, R829). -/
def Obligations.SystemRegistersAreLoaded : Prop :=
  (∀ rm s v t, Plain s → s.curCpl = 0 → readRm .w rm (markPoint s) = .ok v t →
    Accessed (markPoint s) t ∧
      Completes (.lmsw rm) s
        (withCr0 t
          { t.sys.cr0 with
            pe := t.sys.cr0.pe || v.getLsbD 0
            mp := v.getLsbD 1
            em := v.getLsbD 2
            ts := v.getLsbD 3 })) ∧
  (∀ rm s sel t, Plain s → s.isProtected = true → s.cpl = 0 → readRm .w rm (markPoint s) = .ok sel t →
    Accessed (markPoint s) t ∧
      (selNull sel = true →
        Completes (.lldt rm) s
          { t with sys := { t.sys with ldtr := { t.sys.ldtr with sel := sel, valid := false } } }) ∧
      ∀ lin d u, selNull sel = false → selTi sel = false →
        fetchDesc sel (.gp (selCode sel false)) t = .ok (lin, d) u → d.dt = false → d.typ = 2 → d.present = true →
        Accessed t u ∧
          Completes (.lldt rm) s
            { u with
              sys := { u.sys with ldtr := { sel := sel, base := d.base, limit := d.limit, valid := true } } }) ∧
  ∀ rm s sel t lin d u w, Plain s → Mem.wf s.mem = true → s.isProtected = true → s.cpl = 0 →
    readRm .w rm (markPoint s) = .ok sel t → selNull sel = false → selTi sel = false →
    fetchDesc sel (.gp (selCode sel false)) t = .ok (lin, d) u → d.dt = false → (d.typ = 1 ∨ d.typ = 9) →
    d.present = true → setBusy lin true u = .ok () w →
    Accessed (markPoint s) u ∧ (∃ x, Accessed u x ∧ SysStored (lin + 5) 1 x w) ∧
      Completes (.ltr rm) s
        { w with sys := { w.sys with tr := { sel := sel, base := d.base, limit := d.limit, typ := d.typ } } }

/-- LAR, LSL, VERR and VERW set ZF if the selector names a descriptor of a kind they accept that is visible at CPL and the
selector's RPL, and clear it otherwise; LAR and LSL then load the access rights, with bits 19:16 open, or the limit
(R823, R828, R835). ARPL raises the RPL of its destination to that of its source (R820). That a descriptor which is not
present is inspected like any other is, for LAR and LSL, the model's choice of log entry 67. -/
def Obligations.SelectorInspectionSetsZf : Prop :=
  (∀ o r rm, Inspects (.lar o r rm) o r rm
    (fun d => d.dt = true ∨ (d.typ ≠ 0 ∧ d.typ ≠ 8 ∧ d.typ ≠ 10 ∧ d.typ ≠ 13)) 1
    fun t d => (d.hi &&& 0x00F0FF00) ||| (((Config.freeWord t.draws).setWidth 4).setWidth 32 <<< 16)) ∧
  (∀ o r rm, Inspects (.lsl o r rm) o r rm
    (fun d => d.dt = true ∨ d.typ = 1 ∨ d.typ = 2 ∨ d.typ = 3 ∨ d.typ = 9 ∨ d.typ = 11) 0
    fun _ d => d.limit) ∧
  (∀ rm, Verifies (.verr rm) rm (fun d => d.readable = true) Desc.conforming) ∧
  (∀ rm, Verifies (.verw rm) rm (fun d => d.writable = true) fun _ => false) ∧
  ∀ rm r s p u v t, Plain s → Mem.wf s.mem = true → s.isProtected = true → place rm (markPoint s) = .ok p u →
    p.readRmw .w u = .ok v t →
    let b : Half := s.regs.read .w r
    u = markPoint s ∧ Accessed u t ∧
      ((rpl b).toNat ≤ (rpl v).toNat → Completes (.arpl rm r) s (zfIs t false)) ∧
      ((rpl v).toNat < (rpl b).toNat → ∀ w, p.write .w (withRpl v (rpl b)) t = .ok () w →
        Written .w p (withRpl v (rpl b)) t w ∧ Completes (.arpl rm r) s (zfIs w true))

/-- MOV to and from CR0, CR2, CR3 and the debug registers moves the register whole, at CPL 0, and leaves the six status
flags undefined. CR0 refuses PG without PE; a load of CR3 keeps its page and empties the TLB; reserved bits of DR6 and DR7
read as open values; while in-circuit emulation uses the debug registers the move is a debug fault (R830, R245, R1010, D56,
log entry 26). -/
def Obligations.ControlAndDebugRegisterMoves : Prop :=
  ∀ s, Plain s → s.curCpl = 0 →
    (∀ r, Completes (.movR32Cr r .cr0) s (statusLost (setReg (markPoint s) .d r s.sys.cr0.image))) ∧
    (∀ r, Completes (.movR32Cr r .cr2) s (statusLost (setReg (markPoint s) .d r s.sys.cr2))) ∧
    (∀ r, Completes (.movR32Cr r .cr3) s (statusLost (setReg (markPoint s) .d r s.sys.cr3))) ∧
    (∀ r, let v : Word := s.regs.get r
      (v.getLsbD 31 = false ∨ v.getLsbD 0 = true →
        Completes (.movCrR32 .cr0 r) s (statusLost (withCr0 (markPoint s) (cr0Of v)))) ∧
      (v.getLsbD 31 = true ∧ v.getLsbD 0 = false →
        exec (.movCrR32 .cr0 r) s = deliverExc (.gp 0) (markPoint s) (markPoint s))) ∧
    (∀ r, Completes (.movCrR32 .cr2 r) s
      (statusLost { markPoint s with sys := { s.sys with cr2 := s.regs.get r } })) ∧
    (∀ r, Completes (.movCrR32 .cr3 r) s
      (statusLost
        { markPoint s with
          sys := { s.sys with cr3 := s.regs.get r &&& 0xFFFFF000 }
          tlb :=
            { s.tlb with
              entries := s.tlb.entries.map fun e => { e with valid := false }
              flushed := true } })) ∧
    (s.now.ice = false →
      (∀ dr r, Completes (.movDrR32 dr r) s
        (statusLost { markPoint s with dbg := s.dbg.put dr (s.regs.get r) })) ∧
      ∀ dr r, Completes (.movR32Dr r dr) s
        (statusLost
          { setReg (markPoint s) .d r (openBits s (s.dbg.get dr) (drReserved dr)) with draws := s.draws + 1 })) ∧
    (s.now.ice = true →
      ∀ dr r,
        exec (.movDrR32 dr r) s
            = deliverExc .db (markPoint (setDr6 (detectBits s) s)) (markPoint (setDr6 (detectBits s) s)) ∧
          exec (.movR32Dr r dr) s
            = deliverExc .db (markPoint (setDr6 (detectBits s) s)) (markPoint (setDr6 (detectBits s) s)))

/-- MOV to and from the TLB test registers, at CPL 0 (R248, R249, R830). TR7 is loaded as it is; a write of TR6 with the
command bit clear puts a translation with complementary attribute pairs into the block that TR7 names; with it set the one
matching entry of a fully known set, after what the processor drops, shows in TR6 and TR7, and PL is clear after a miss;
every write completes. -/
def Obligations.TestRegisterMovesReachTheTlb : Prop :=
  ∀ s, Plain s → s.curCpl = 0 →
    (∀ r, Completes (.movTrR32 .tr7 r) s
      (statusLost { markPoint s with tlb := { s.tlb with tr7 := s.regs.get r } })) ∧
    (∀ r, Completes (.movR32Tr r .tr7) s
      (statusLost { setReg (markPoint s) .d r (openBits s s.tlb.tr7 0xFF000FE3) with draws := s.draws + 1 })) ∧
    (∀ r, Completes (.movR32Tr r .tr6) s
      (statusLost { setReg (markPoint s) .d r (openBits s s.tlb.tr6 0x0000001E) with draws := s.draws + 1 })) ∧
    ∀ r, let v : Word := s.regs.get r
      (∃ es t6 t7 choices d, Completes (.movTrR32 .tr6 r) s
        (statusLost
          { markPoint s with
            tlb := { s.tlb with entries := es, tr6 := t6, tr7 := t7 }
            now := { s.now with pages := choices }
            draws := d })) ∧
      (v.getLsbD 0 = false → s.tlb.tr7.getLsbD 4 = true →
        v.getLsbD 10 ≠ v.getLsbD 9 → v.getLsbD 8 ≠ v.getLsbD 7 → v.getLsbD 6 ≠ v.getLsbD 5 →
        Completes (.movTrR32 .tr6 r) s
          (statusLost
            { markPoint s with
              tlb :=
                { s.tlb with
                  tr6 := v
                  entries :=
                    tlbPut s.tlb.entries
                      { block := s.tlb.tr7.extractLsb' 2 2
                        set := Config.tlbSet (v.extractLsb' 12 20)
                        page := v.extractLsb' 12 20
                        valid := v.getLsbD 11
                        dirty := v.getLsbD 10
                        user := v.getLsbD 8
                        writable := v.getLsbD 6
                        frame := s.tlb.tr7.extractLsb' 12 12 } }
              draws := s.draws + 1 })) ∧
      ∀ c m, v.getLsbD 0 = true → nextChoice (markPoint s) = .ok c m → tlbUnknown m.tlb v = false →
        (m.tlb.entries.filter (tlbMatches v) = [] →
          ∃ t7 : Word, t7.getLsbD 4 = false ∧
            Completes (.movTrR32 .tr6 r) s
              (statusLost { m with tlb := { m.tlb with tr6 := v, tr7 := t7 }, draws := m.draws + 1 })) ∧
        ∀ e, m.tlb.entries.filter (tlbMatches v) = [e] →
          ∃ t6 t7 : Word, t6.extractLsb' 11 21 = v.extractLsb' 11 21 ∧
            t6.getLsbD 10 = e.dirty ∧ t6.getLsbD 9 = !e.dirty ∧ t6.getLsbD 8 = e.user ∧ t6.getLsbD 7 = !e.user ∧
            t6.getLsbD 6 = e.writable ∧ t6.getLsbD 5 = !e.writable ∧
            t7.getLsbD 4 = true ∧ t7.extractLsb' 2 2 = e.block ∧ t7.extractLsb' 12 12 = e.frame ∧
            Completes (.movTrR32 .tr6 r) s
              (statusLost { m with tlb := { m.tlb with tr6 := t6, tr7 := t7 }, draws := m.draws + 1 })

/-- The privileged instructions are #GP(0) outside CPL 0, and so at every level of virtual-8086 mode; LLDT and LTR are so in
protected mode (R821, R822, R824, R826, R827, R829, R830). ARPL, LAR, LSL, VERR, VERW, SLDT, STR, LLDT and LTR are undefined
opcodes outside protected mode (R820, R823, R828, R832, R834, R835). -/
def Obligations.PrivilegedInstructionsNeedLevelZero : Prop :=
  ((∀ i s, Plain s → isPrivileged i = true → s.curCpl ≠ 0 →
     exec i s = deliverExc (.gp 0) (markPoint s) (markPoint s)) ∧
   ∀ rm s, Plain s → s.isProtected = true → s.cpl ≠ 0 →
     exec (.lldt rm) s = deliverExc (.gp 0) (markPoint s) (markPoint s) ∧
       exec (.ltr rm) s = deliverExc (.gp 0) (markPoint s) (markPoint s)) ∧
  ∀ i s, Plain s → onlyProtected i = true → s.isProtected = false →
    exec i s = deliverExc .ud (markPoint s) (markPoint s)

/-- IRET and IRETD restore EIP, CS and the flags that may change (R72, R613 to R616): outside protected mode from three
items of the stack; in protected mode to the same privilege level, to an outer level with its stack, from level 0 to
virtual-8086 mode with its segments, and with NT set to the task of the back link. NMI is accepted again (R906). In
virtual-8086 mode they need IOPL 3. Clauses that rest on the model's choices name their log entries where they are
defined: ReturnsOuter (60) and ReturnsToTask (57, 61). -/
def Obligations.InterruptReturnsRestoreTheirFrame : Prop :=
  (∀ s v, loadedFlags s v = flagsLoaded s false v) ∧
  Returns8086 .iret .w ∧ Returns8086 .iretd .d ∧
  ReturnsSame .iret .w ∧ ReturnsSame .iretd .d ∧
  ReturnsOuter .iret .w ∧ ReturnsOuter .iretd .d ∧ ReturnsToV86 ∧ ReturnsToTask .iret ∧ ReturnsToTask .iretd ∧
  ∀ s, Plain s → s.isV86 = true → s.flags.iopl ≠ 3 →
    exec .iret s = deliverExc (.gp 0) (markPoint s) (markPoint s) ∧
      exec .iretd s = deliverExc (.gp 0) (markPoint s) (markPoint s)

/-- Taking an event in real-address mode (R950): FLAGS, CS and IP are pushed, IF and TF are cleared, and CS and IP come from
the event's four bytes of the vector table; an entry outside the table's limit is a double fault. -/
def Obligations.RealModeEntryPushesFlagsCsAndIp : Prop :=
  ∀ ev s, s.isReal = true →
    let n := ev.vec.toNat * 4
    let entry := s.sys.idtr.base + BitVec.ofNat 32 n
    let quiet : State → State := fun a => { a with flags := { s.flags with ie := false, tf := false } }
    (s.sys.idtr.limit.toNat < n + 3 → enter ev s = .error (.exc .df) s) ∧
    ∀ a b c ip d cs t, Mem.wf s.mem = true → n + 3 ≤ s.sys.idtr.limit.toNat →
      push .w (s.flags.low.setWidth 32) s = .ok () a → push .w (s.segs.cs.sel.setWidth 32) (quiet a) = .ok () b →
      push .w s.eip b = .ok () c → sysRead entry 2 c = .ok ip d → sysRead (entry + 2) 2 d = .ok cs t →
      Pushed .w s a ∧ Pushed .w (quiet a) b ∧ Pushed .w b c ∧ Accessed c t ∧
        enter ev s
          = .ok ()
              (awake
                (goFar t
                  { s.segs.cs with sel := cs.setWidth 16, base := ((cs.setWidth 16 : Half).setWidth 32 : Word) <<< 4 }
                  ip))

/-- Taking an event in protected mode through an interrupt or trap gate (R951 to R955, R957): to code of the same privilege
level, EFLAGS, CS and EIP are pushed, then CS and EIP are loaded, and the error code is pushed; to code of an inner level,
and from virtual-8086 mode to level 0, the same on the stack of that level, under the old stack pointer and, from
virtual-8086 mode, the old data segments; TF, NT, RF and, by an interrupt gate, IF are cleared. Through a task gate the task is
switched, and the error code is pushed on its stack (R956). A vector outside the IDT, an entry that is no gate, and a software
interrupt below the gate's level are #GP, a gate that is not present is #NP, each with the entry's error code (R930). The
model's choices among this: an inner stack with B = 0 takes SP alone (log entry 60), the offset test on entry from
virtual-8086 mode (59), RF of a task that an event enters (64), and that task's trap before the test of its EIP (61). -/
def Obligations.ProtectedEntryUsesTheGate : Prop :=
  ∀ ev s, s.isReal = false →
    let n := ev.vec.toNat * 8
    let code := idtCode ev.vec ev.ext
    (s.sys.idtr.limit.toNat < n + 7 → enter ev s = .error (.exc (.gp code)) s) ∧
    ∀ gate u, n + 7 ≤ s.sys.idtr.limit.toNat → readDesc (s.sys.idtr.base + BitVec.ofNat 32 n) s = .ok gate u →
      Accessed s u ∧
      (gate.isIdtGate = false → enter ev s = .error (.exc (.gp code)) u) ∧
      (gate.isIdtGate = true → ev.kind = .soft → gate.dpl.toNat < s.curCpl.toNat →
        enter ev s = .error (.exc (.gp code)) u) ∧
      (gate.isIdtGate = true → (ev.kind = .soft → s.curCpl.toNat ≤ gate.dpl.toNat) →
        (gate.present = false → enter ev s = .error (.exc (.np code)) u) ∧
        (gate.present = true → gate.typ = 5 → EntersTask ev gate s u) ∧
        ∀ lin d v, gate.present = true → gate.typ ≠ 5 → selNull gate.gateSel = false →
          fetchDesc gate.gateSel (.gp (selCode gate.gateSel ev.ext)) u = .ok (lin, d) v →
          d.isCode = true → d.present = true →
          Accessed u v ∧ EntersSame ev gate lin d s v ∧ EntersInner ev gate lin d s v ∧ EntersFromV86 ev gate lin d s v)

/-- Delivery always ends with a next state (R918, R948): the event taken, in the mode that CR0.PE says, or what its delivery
raises taken in its place; two exceptions that the table combines become a double fault, any other exception is taken itself,
the double fault of a real-mode vector table that is too short among them (R946), and an exception during the delivery of a
double fault shuts the processor down. -/
def Obligations.DeliveryFollowsTheDoubleFaultTable : Prop :=
  (∀ ev s, ∃ t, deliver ev s = .next t) ∧
  (∀ ev s t, enter ev (markPoint (currentMode s)) = .ok () t → deliver ev s = .next t) ∧
  (∀ v, vecClass v = vectorClass v) ∧
  (∀ ev : Event, ev.cls = if ev.kind = .exception then vectorClass ev.vec else .benign) ∧
  ∀ ev s e t, enter ev (markPoint (currentMode s)) = .error (.exc e) t →
    let b := afterExc (markPoint (currentMode s)) t
    (ev.cls = .double → deliver ev s = .next (enterShutdown b)) ∧
    ((ev.cls = .contributory ∧ vecClass e.vec = .contributory) ∨
        (ev.cls = .page ∧ (vecClass e.vec = .contributory ∨ vecClass e.vec = .page)) →
      deliver ev s = deliver (.ofExc .df) b) ∧
    (ev.cls = .benign ∨ (ev.cls = .contributory ∧ vecClass e.vec ≠ .contributory) ∨
        (ev.cls = .page ∧ (vecClass e.vec = .benign ∨ vecClass e.vec = .double)) →
      deliver ev s = deliver (.ofExc e) b)

/-- Every well-formed instruction is read back from its encoding, whatever bytes follow, under the size attributes that it
can be encoded under (R300 to R341). -/
def Obligations.EncodedInstructionDecodesBack : Prop :=
  ∀ (i : Instr) (o : OSize) (a : ASize) (rest : List Byte), i.wf = true → i.fits o a = true →
    decode o a (encode i ++ rest) = .ok (i, rest)

/-- A few encodings of the spec, byte for byte. -/
def Obligations.SpecWordsDecode : Prop :=
  decode .o32 .a32 [0x05, 0x78, 0x56, 0x34, 0x12] = .ok (.add (.eaxImm32 0x12345678), []) ∧
  decode .o16 .a16 [0x8B, 0x46, 0xFE] = .ok (.movRvRmv .o16 .eax (.mem (.m16 .bp (.d8 0xFE))), []) ∧
  decode .o32 .a32 [0x8B, 0x44, 0x8B, 0x10] = .ok (.movRvRmv .o32 .eax (.mem (.sib 2 .ecx .ebx (.d8 0x10))), []) ∧
  decode .o16 .a16 [0xD1, 0xE0] = .ok (.shl (.rmvOne .o16 (.reg .eax)), []) ∧
  decode .o16 .a16 [0x74, 0xFE] = .ok (.je (.rel8 .o16 0xFE), []) ∧
  decode .o16 .a16 [0xEA, 0x5B, 0xE0, 0x00, 0xF0] = .ok (.jmpPtr16 0xF000 0xE05B, []) ∧
  decode .o32 .a32 [0x0F, 0x22, 0xC0] = .ok (.movCrR32 .cr0 .eax, []) ∧
  decode .o16 .a16 [0x0F, 0xBA, 0xE9, 0x03] = .ok (.btsRmvImm8 .o16 (.reg .ecx) 3, []) ∧
  decode .o16 .a16 [0x8E, 0xC8] = .error .badSegment ∧
  decode .o16 .a16 [0x0F, 0x0B] = .error .undefinedOpcode

/-- A step runs the decoded instruction: when nothing comes before it and the bytes at CS:EIP decode to `i`, the step is
`exec` of `i` after those bytes and the prefetch, and then the end of the instruction, or the next item if `i` was a prefix;
a JMP runs in the mode that CR0.PE says (R1060). Bytes that are no instruction are #UD once the decoder has read
what shows it (R350, R940), for an undefined digit the whole operand of the ModR/M byte (the model's choice of log entry 70);
but #GP(0) where they name a control, debug or test register that does not exist outside CPL 0 (R830); two kinds of them are
refused (R310, R352). A byte that is needed and cannot be fetched raises what its fetch raises (R203). -/
def Obligations.StepRunsDecodedInstruction : Prop :=
  ∀ s, NothingPending (latchNmi (takeTick s)) →
    let b := ready s
    let fetched := (fetchAhead 16 b).1
    let bytes := fetched.map Prod.fst
    (∀ i rest, decode b.osize b.asize bytes = .ok (i, rest) →
      let n := bytes.length - rest.length
      step s = endStep (afterItem b (bytes.take n) (exec i (forJmp i (prefetch (afterBytes b fetched n)))))) ∧
    (decode b.osize b.asize bytes = .error .aamAadBase → step s = .refused .aamAadBase) ∧
    (decode b.osize b.asize bytes = .error .specialMod → step s = .refused .specialMod) ∧
    (∀ e, decode b.osize b.asize bytes = .error e → e ≠ .truncated → e ≠ .aamAadBase → e ≠ .specialMod →
      ∃ k ≤ 16, step s = endStep
        (deliverExc (if e = .badSpecial ∧ b.curCpl ≠ 0 then .gp 0 else .ud) (markPoint b) (afterBytes b fetched k))) ∧
    ∀ e t, decode b.osize b.asize bytes = .error .truncated → (fetchAhead 16 b).2 = some (.exc e, t) →
      step s = endStep (deliverExc e (markPoint b) t)

/-- After RESET# (R1050): the values of the table. Memory and the platform stay as they are (R1070). A RESET# that comes
during a step leaves in memory what the bus events before it wrote (D12, the model's choice of log entry 63). -/
def Obligations.ResetLoadsTheTableOfInitialValues : Prop :=
  ∀ s x rest, s.inputs = x :: rest →
    (x.reset = some 0 → ∃ t, step s = .next t ∧ ResetValues t ∧
      t.mem = s.mem ∧ t.regions = s.regions ∧ t.io = s.io ∧ t.inputs = rest) ∧
    ∀ n u, x.reset = some (n + 1) → boundary (latchNmi (takeTick s)) = .next u →
      let events := ((newEvents s u).reverse).take (n + 1)
      ∃ t, step s = .next t ∧ ResetValues t ∧
        t.mem = Mem.after s.regions events s.mem ∧ t.regions = s.regions ∧ t.io = events.reverse ++ s.io ∧
        t.inputs = rest

/-- The state after reset is legal (the invariant of EveryStepKeepsTheInvariant). -/
def Obligations.ResetMeetsTheInvariant : Prop := Legal State.reset

/-- Every step from a legal state leaves a legal state: memory in its canonical form, CR3 aligned, paging only with
protection, level 0 in real-address mode, nothing in progress. And no step changes the memory map, a byte outside RAM, the
inputs to come or what has passed on the bus, and the new events on the bus account for every change of memory (R81, R100,
R102, R262, R271, R1070). -/
def Obligations.EveryStepKeepsTheInvariant : Prop :=
  ∀ s t, Legal s → step s = .next t → Legal t ∧ Outside { s with inputs := s.inputs.tail } t

/-- A data access (R140, R141, R143, R144, R170, R171, R200 to R202, R240): with paging off it reads or stores its bytes at the
base plus the offset, truncated to 24 bits, and with paging on each byte at the frame of its page joined with the low twelve
bits of its address, after the translation of its pages has set Accessed and Dirty (PageWalksTranslateAndProtect); the least
significant byte first, and no other byte. In protected mode the segment must be valid and of a type that admits the access,
and in every mode the bytes must lie within its limit, expand-down segments included; else it is #SS(0) for SS and #GP(0) for
the others, and changes nothing. That a store is one event on the bus is the model's choice of log entry 62. -/
def Obligations.AccessesReachTheirBytes : Prop :=
  (∀ s r off n, s.sys.cr0.pg = false → 1 ≤ n → n ≤ 4 →
    (∀ i, i < n → regionAt s.regions (physAt (s.linear r off) i) ≠ .unmapped) →
    segCheck s r off n false = true →
    ∃ v t, readMem r off n s = .ok v t ∧ Recorded s t ∧ v.toNat < 2 ^ (8 * n) ∧
      ∀ i, i < n → byteOf v i = Mem.read s.mem (physAt (s.linear r off) i)) ∧
  (∀ s r off n v, s.sys.cr0.pg = false → 1 ≤ n → n ≤ 4 → Mem.wf s.mem = true →
    (∀ i, i < n → regionAt s.regions (physAt (s.linear r off) i) = .ram) →
    segCheck s r off n true = true →
    let cells := (List.range n).map fun i => (physAt (s.linear r off) i, byteOf v i)
    ∃ t m, writeMem r off n v s = .ok () { t with mem := m, io := .memWrite cells :: t.io } ∧ Recorded s t ∧
      (∀ i, i < n → Mem.read m (physAt (s.linear r off) i) = byteOf v i) ∧
      ∀ a, (∀ i, i < n → a ≠ physAt (s.linear r off) i) → Mem.read m a = Mem.read s.mem a) ∧
  (∀ s r off n v,
    (segCheck s r off n false = false →
      readMem r off n s = .error (.exc (if r = .ss then .ss 0 else .gp 0)) s) ∧
    (segCheck s r off n true = false →
      writeMem r off n v s = .error (.exc (if r = .ss then .ss 0 else .gp 0)) s)) ∧
  (∀ s r off n w, segCheck s r off n w = true ↔ SegmentAdmits s r off n w) ∧
  (∀ s r off n a t1 t2 u, 1 ≤ n → n ≤ 4 → segCheck s r off n false = true →
    let lin := s.linear r off
    recordHits lin n false s = .ok () a → PagesReached lin n (s.access false) t1 t2 a u →
    (∀ i, i < n → regionAt u.regions (pagedAt lin t1 t2 i) ≠ .unmapped) →
    ∃ v, readMem r off n s = .ok v u ∧ v.toNat < 2 ^ (8 * n) ∧
      ∀ i, i < n → byteOf v i = Mem.read u.mem (pagedAt lin t1 t2 i)) ∧
  ∀ s r off n v a t1 t2 u, 1 ≤ n → n ≤ 4 → segCheck s r off n true = true → Mem.wf u.mem = true →
    let lin := s.linear r off
    recordHits lin n true s = .ok () a → PagesReached lin n (s.access true) t1 t2 a u →
    (∀ i, i < n → regionAt u.regions (pagedAt lin t1 t2 i) = .ram) →
    let cells := (List.range n).map fun i => (pagedAt lin t1 t2 i, byteOf v i)
    ∃ m, writeMem r off n v s = .ok () { u with mem := m, io := .memWrite cells :: u.io } ∧
      (∀ i, i < n → Mem.read m (pagedAt lin t1 t2 i) = byteOf v i) ∧
      ∀ a, (∀ i, i < n → a ≠ pagedAt lin t1 t2 i) → Mem.read m a = Mem.read u.mem a

/-- A page walk (R240 to R242, R924): the directory entry lies at CR3's page plus four times bits 31:22 of the linear
address, the table entry at its page plus four times bits 21:12; a page that is not present, or whose two entries do not
both admit a user-level access, is a page fault with the linear address in CR2 and P, W and U in the error code; a TLB
entry that serves the page stands for the two entries (R244). An access sets Accessed in both entries, and Dirty in the table
entry when it writes, and the TLB may then keep the translation; one that a protection fault stops sets nothing (R241). A
write through a TLB entry whose Dirty bit is clear sets it there and in memory (R246), in the table entry that the current CR3
leads to (the model's choice of log entry 55). Whether a walk touches the directory entry's Dirty bit, and its Accessed bit
when the table entry is not present, is open: the choice made at the translation says it (U25, D87). -/
def Obligations.PageWalksTranslateAndProtect : Prop :=
  (∀ cr3 lin : Word, pdeAddr cr3 (pageOf lin) = cr3.extractLsb' 12 12 ++ lin.extractLsb' 22 10 ++ 0#2) ∧
  (∀ pde lin : Word, pteAddr pde (pageOf lin) = pde.extractLsb' 12 12 ++ lin.extractLsb' 12 10 ++ 0#2) ∧
  (∀ (acc : Access) p, (pfBits acc p).getLsbD 0 = p ∧ (pfBits acc p).getLsbD 1 = acc.write ∧
    (pfBits acc p).getLsbD 2 = acc.user) ∧
  (∀ s lin acc c m, s.sys.cr0.pg = true → nextChoice s = .ok c m →
    (∀ e, tlbLookup m c.use (pageOf lin) = some e →
      (EntryAllows acc e → translate lin acc s = .ok (.cached e c) m) ∧
      (¬EntryAllows acc e → translate lin acc s = .error (.exc (.pf (pfBits acc true))) (withCr2 m lin))) ∧
    ∀ pde u, tlbLookup m c.use (pageOf lin) = none → readEntry (pdeAddr m.sys.cr3 (pageOf lin)) m = .ok pde u →
      (pde.getLsbD 0 = false →
        translate lin acc s = .error (.exc (.pf (pfBits acc false))) (withCr2 u lin)) ∧
      ∀ pte w, pde.getLsbD 0 = true → readEntry (pteAddr pde (pageOf lin)) u = .ok pte w →
        (pte.getLsbD 0 = false → ∃ x,
          (if c.pdeAccessed = true then physSetBits (pdeAddr m.sys.cr3 (pageOf lin)) 0x20 w = .ok () x else x = w) ∧
            translate lin acc s = .error (.exc (.pf (pfBits acc false))) (withCr2 x lin)) ∧
        (pte.getLsbD 0 = true →
          (EntriesAllow acc pde pte →
            translate lin acc s
              = .ok
                  (.walked (pte.extractLsb' 12 12) (pdeAddr m.sys.cr3 (pageOf lin)) (pteAddr pde (pageOf lin))
                    (pde.getLsbD 2 && pte.getLsbD 2) (pde.getLsbD 1 && pte.getLsbD 1) (pte.getLsbD 6) c)
                  w) ∧
          (¬EntriesAllow acc pde pte →
            translate lin acc s = .error (.exc (.pf (pfBits acc true))) (withCr2 w lin)))) ∧
  (∀ a s v t, readEntry a s = .ok v t → t.mem = s.mem ∧ t.io = s.io) ∧
  (∀ s r off n v b t, readMem r off n s = .error (.exc (.pf b)) t ∨ writeMem r off n v s = .error (.exc (.pf b)) t →
    b.getLsbD 0 = true → t.mem = s.mem ∧ t.io = s.io) ∧
  (∀ page acc f pa ta us wr dirty c s, Mem.wf s.mem = true → pa ≠ ta → regionAt s.regions pa.toNat = .ram →
    regionAt s.regions ta.toNat = .ram →
    ∃ t, touchPage page acc (.walked f pa ta us wr dirty c) s = .ok () t ∧
      Mem.read t.mem pa.toNat = Mem.read s.mem pa.toNat ||| (if c.pdeDirty then 0x60 else 0x20) ∧
      Mem.read t.mem ta.toNat = Mem.read s.mem ta.toNat ||| (if acc.write then 0x60 else 0x20) ∧
      (∀ a, a ≠ pa.toNat → a ≠ ta.toNat → Mem.read t.mem a = Mem.read s.mem a) ∧
      (c.fill = none → t.tlb = s.tlb) ∧
      ∀ k, c.fill = some k →
        t.tlb = { s.tlb with entries := tlbPut s.tlb.entries (walkedEntry page k f us wr (dirty || acc.write)) }) ∧
  (∀ page acc e c s, acc.write = false ∨ e.dirty = true → touchPage page acc (.cached e c) s = .ok () s) ∧
  ∀ page user e c s pde u, e.dirty = false → Mem.wf s.mem = true →
    readEntry (pdeAddr s.sys.cr3 page) s = .ok pde u →
    let pa := (pdeAddr s.sys.cr3 page).toNat
    let ta := (pteAddr pde page).toNat
    pa ≠ ta → regionAt s.regions pa = .ram → regionAt s.regions ta = .ram →
    ∃ t, touchPage page ⟨true, user⟩ (.cached e c) s = .ok () t ∧
      Mem.read t.mem ta = Mem.read s.mem ta ||| 0x40 ∧
      Mem.read t.mem pa = Mem.read s.mem pa ||| (if c.pdeDirty then 0x40 else 0) ∧
      (∀ a, a ≠ pa → a ≠ ta → Mem.read t.mem a = Mem.read s.mem a) ∧
      t.tlb = { u.tlb with entries := tlbPut u.tlb.entries { e with dirty := true } }

/-- The loads of a data or stack segment register (R150, R151, R161 to R163, R165): by the selector alone outside protected
mode; in protected mode from a descriptor that passes the checks, after which it is marked accessed, else #GP or, for a
segment that is not present, #SS or #NP, with the selector; a null selector is #GP(0) for SS and makes the others
unusable. A descriptor lies at its table's base plus the selector without its low three bits, within the table's limit, and is
fetched as two doublewords, whose fields are those of the formats, the limit scaled by its granularity (R82, R83, R160, R170,
R961). -/
def Obligations.SegmentLoadsCheckTheirDescriptor : Prop :=
  DescriptorPlace ∧ DescriptorFetch ∧ DescriptorFields ∧
  (∀ s r sel, s.isReal = true →
    loadSeg r sel s = .ok () (withSeg s r { s.seg r with sel := sel, base := (sel.setWidth 32 : Word) <<< 4 })) ∧
  (∀ s r sel, s.isV86 = true →
    ∃ g : SegReg, g.sel = sel ∧ g.base = (sel.setWidth 32 : Word) <<< 4 ∧ g.limit = 0xFFFF ∧
    g.dpl = 3 ∧ g.db = false ∧ g.valid = true ∧ g.isCode = false ∧ g.rw = true ∧ g.expandDown = false ∧
    loadSeg r sel s = .ok () (withSeg s r g)) ∧
  (∀ s sel, s.isProtected = true → selNull sel = true → loadSeg .ss sel s = .error (.exc (.gp 0)) s) ∧
  (∀ s r sel, s.isProtected = true → r ≠ .ss → selNull sel = true →
    loadSeg r sel s = .ok () (withSeg s r { s.seg r with sel := sel, valid := false })) ∧
  (∀ s r sel, s.isProtected = true → selNull sel = false → descAddr s sel = none →
    loadSeg r sel s = .error (.exc (.gp (selCode sel false))) s) ∧
  (∀ s sel lin d u, s.isProtected = true → selNull sel = false →
    fetchDesc sel (.gp (selCode sel false)) s = .ok (lin, d) u →
    (¬SsFits s sel d → loadSeg .ss sel s = .error (.exc (.gp (selCode sel false))) u) ∧
    (SsFits s sel d → d.present = false → loadSeg .ss sel s = .error (.exc (.ss (selCode sel false))) u) ∧
    (SsFits s sel d → d.present = true → ∀ t, markAccessed lin d u = .ok () t →
      loadSeg .ss sel s = .ok () (withSeg t .ss (d.accessed.toSeg sel)))) ∧
  ∀ s r sel lin d u, s.isProtected = true → r ≠ .ss → selNull sel = false →
    fetchDesc sel (.gp (selCode sel false)) s = .ok (lin, d) u →
    (¬DataFits s sel d → loadSeg r sel s = .error (.exc (.gp (selCode sel false))) u) ∧
    (DataFits s sel d → d.present = false → loadSeg r sel s = .error (.exc (.np (selCode sel false))) u) ∧
    (DataFits s sel d → d.present = true → ∀ t, markAccessed lin d u = .ok () t →
      loadSeg r sel s = .ok () (withSeg t r (d.accessed.toSeg sel)))

/-- What is taken at a boundary (R903, R904, R906 to R909, R1090): NMI before INTR, each only if nothing before it waits,
NMI not while one is being serviced, INTR only with IF set, neither right after a load of SS; a legal state that is shut
down, or halted with interrupts disabled, stays as it is through every step whose input carries no RESET# and no NMI, and
takes no INTR. In shutdown an NMI that would be accepted is refused: what it would find is not described (log entry 33). -/
def Obligations.BoundariesTakeEventsByPriority : Prop :=
  (∀ s, s.latches.shutdown = true → s.latches.nmiPending = true → s.latches.nmiBlocked = false →
    s.latches.inhibit = false → boundary s = .refused .shutdownNmi) ∧
  (∀ s, Legal s → Idle s → (∀ x, s.inputs.head? = some x → x.reset = none ∧ x.nmi = false) →
    step s = .next { s with inputs := s.inputs.tail }) ∧
  (∀ s, s.latches.shutdown = false → takesTrap s = false → takesBreakpoint s = false →
    s.latches.nmiPending = true → s.latches.nmiBlocked = false → s.latches.inhibit = false →
    boundary s
      = deliver (.external 2)
          { s with latches := { s.latches with nmiPending := false, nmiBlocked := true } }) ∧
  (∀ s n, s.latches.shutdown = false → takesTrap s = false → takesBreakpoint s = false →
    (s.latches.nmiPending = false ∨ s.latches.nmiBlocked = true) →
    s.now.intr = some n → s.flags.ie = true → s.latches.inhibit = false → s.latches.stiShadow = false →
    boundary s = deliver (.external n) { s with io := .intAck n :: s.io }) ∧
  ∀ s, s.latches.shutdown = false → s.latches.halted = false → takesTrap s = false → takesBreakpoint s = false →
    (s.latches.inhibit = true ∨
      ((s.latches.nmiPending = false ∨ s.latches.nmiBlocked = true) ∧
        (s.flags.ie = false ∨ s.latches.stiShadow = true ∨ s.now.intr = none))) →
    boundary s = runInstr s

/-- The results and flags of the arithmetic, the logic, the rotates and the shifts are those of exact arithmetic (R450 to R456,
R464, R465, R522, R530 to R539, R541 to R544): CF is the carry or borrow out, OF says that the signed result does not fit, AF
is the carry out of bit 3, ZF, SF and PF describe the result; AND, OR, XOR and TEST clear CF and OF; a rotate moves every bit
by its count, RCL and RCR with CF as one more bit; SHL multiplies, SHR and SAR divide by a power of two, and CF is the last
bit shifted out; SHLD and SHRD fill from the source. Where OF or AF is undefined it is the free value. -/
def Obligations.ArithmeticIsExact : Prop :=
  AddsExactly ∧ SubtractsExactly ∧ OperationsAreExact ∧ RotatesMoveBits ∧ ShiftsAreExact ∧ DoubleShiftsAreExact

/-- The I/O permission check (R719): none in real-address mode or at a level that IOPL admits; else #GP(0) unless the
current TSS is a 386 SX TSS, both map bytes lie within its limit, and the bit of every port byte is clear. That a TSS whose
limit is below 67H, and so does not hold where its map begins, permits no port is the model's choice of log entry 57. -/
def Obligations.PortsNeedPermission : Prop :=
  (∀ s port n, ¬(s.pe = true ∧ (s.flags.vm = true ∨ s.flags.iopl.toNat < s.cpl.toNat)) →
    checkPort port n s = .ok () s) ∧
  ∀ s port n, s.pe = true → (s.flags.vm = true ∨ s.flags.iopl.toNat < s.cpl.toNat) → n = 1 ∨ n = 2 ∨ n = 4 →
    (s.sys.tr.typ = 1 ∨ s.sys.tr.typ = 3 → checkPort port n s = .error (.exc (.gp 0)) s) ∧
    (s.sys.tr.typ = 9 ∨ s.sys.tr.typ = 11 → s.sys.tr.limit.toNat < 0x67 →
      checkPort port n s = .error (.exc (.gp 0)) s) ∧
    (s.sys.tr.typ = 9 ∨ s.sys.tr.typ = 11 → 0x67 ≤ s.sys.tr.limit.toNat →
      ∀ ptr u, sysRead (s.sys.tr.base + 0x66) 2 s = .ok ptr u →
      let addr := port.toNat / 8 + ptr.toNat
      (s.sys.tr.limit.toNat < addr + 1 → checkPort port n s = .error (.exc (.gp 0)) u) ∧
      ∀ bits t, addr + 1 ≤ s.sys.tr.limit.toNat → sysRead (s.sys.tr.base + BitVec.ofNat 32 addr) 2 u = .ok bits t →
        ((∀ k, k < n → bits.getLsbD (port.toNat % 8 + k) = false) → checkPort port n s = .ok () t) ∧
        (¬(∀ k, k < n → bits.getLsbD (port.toNat % 8 + k) = false) →
          checkPort port n s = .error (.exc (.gp 0)) t))

/-- Debug exceptions (R943, R1006, R1007, R1012, R1014): an enabled instruction breakpoint is a fault before the
instruction unless RF is set; after a completed instruction that began with TF set comes the single-step trap with DR6.BS,
and after one that met an enabled exact data breakpoint a trap with that breakpoint's bit, and each shows in DR6 every
condition that the instruction met and every instruction breakpoint that matches at the boundary, enabled or not;
otherwise the instruction ends with RF clear, unless it keeps it, and no exception. That the breakpoint condition of the
instruction's own address shows, whatever RF was, is the model's choice of log entry 69. -/
def Obligations.DebugExceptionsFollowTheirCauses : Prop :=
  (∀ s, s.latches.shutdown = false → takesTrap s = false → takesBreakpoint s = true →
    ∃ t, boundary s = deliver (.ofExc .db) t ∧ t.eip = s.eip ∧
      t.dbg.dr6 = s.dbg.dr6 ||| (instrHits s).setWidth 32 ||| s.latches.deferred.setWidth 32) ∧
  (∀ s, s.latches.shutdown = false → takesTrap s = true →
    ∃ t, boundary s = deliver .debugTrap t ∧ t.eip = s.eip ∧ t.latches.trap = 0 ∧
      t.dbg.dr6 = s.dbg.dr6 ||| (s.latches.trap ||| (instrHits s).setWidth 32) ||| s.latches.deferred.setWidth 32) ∧
  (∀ s, s.flags.rf = true → takesBreakpoint s = false) ∧
  (∀ s bytes t, t.cur.stage = .completed → t.latches.inhibit = false → t.cur.soft = false → s.flags.tf = true →
    ∃ u, finish s bytes t = deliver .debugTrap u ∧ u.dbg.dr6.getLsbD 14 = true ∧ ShowsHits t u ∧
      u.eip = t.eip ∧ u.regs = t.regs) ∧
  (∀ s bytes t (i : Fin 4), t.cur.stage = .completed → t.latches.inhibit = false → t.cur.soft = false →
    t.cur.hits.getLsbD i = true → (s.dbg.dr7.getLsbD (2 * i) = true ∨ s.dbg.dr7.getLsbD (2 * i + 1) = true) →
    (s.dbg.dr7.getLsbD 8 = true ∨ s.dbg.dr7.getLsbD 9 = true) →
    ∃ u, finish s bytes t = deliver .debugTrap u ∧ u.dbg.dr6.getLsbD i = true ∧ ShowsHits t u ∧
      u.eip = t.eip ∧ u.regs = t.regs) ∧
  ∀ s bytes t, t.cur.stage = .completed → t.latches.inhibit = false → t.cur.soft = false → s.flags.tf = false →
    t.cur.hits = 0 → t.latches.late = 0 → t.latches.trap = 0 → t.cur.again = false →
    finish s bytes t = .next { t with flags := { t.flags with rf := t.flags.rf && t.cur.keepRf } }

/-- A task switch that completes (R990): the old task is saved, the link and the Busy bits are written, TR names the new TSS
and CR0.TS is set, and from the state that this leaves the new TSS is read; the general registers, EIP, the selectors and
the flags are those of the new TSS, NT is set for a nested switch and clear after a jump, the local breakpoint enables are
cleared, and nothing prefetched is left. A 386 SX TSS gives each field from the bytes at its offset (R230), and its T bit is
read last, after the segments are loaded: a set one leaves the debug trap waiting. A TSS that is too short is #TS, with nothing changed. That the old TSS must hold the fields saved
in it within the limit of TR, and its descriptor lie within the limit of the GDT for its Busy bit to be cleared, else #TS with
the selector of TR, is the model's choice of log entry 57. -/
def Obligations.TaskSwitchLoadsTheNewTask : Prop :=
  (∀ kind sel lin d rf ext s t, switchTask kind sel lin d rf ext s = .ok () t →
    t.sys.tr = { sel := sel, base := d.base, limit := d.limit, typ := d.typ ||| 2 } ∧ t.sys.cr0.ts = true ∧
    (∃ u img v w, SwitchedOut kind sel lin d rf ext s u ∧ readTask d u = .ok img v ∧ RunsTask img w ∧ RunsTask img t ∧
      TrapWaits d s w t ∧
      t.flags = { flagsOf img.eflags with
        rf := img.rf
        nt := if kind = .jmp then false else if kind = .call then true else img.eflags.getLsbD 14 }) ∧
    t.dbg.dr7 = s.dbg.dr7 &&& ~~~0x155#32 ∧ t.queue = []) ∧
  (∀ d u img v, d.typ.getLsbD 3 = true → u.sys.cr0.pg = false →
    (∀ k, k < 0x68 → regionAt u.regions (physAt d.base k) ≠ .unmapped) → readTask d u = .ok img v →
    (∀ x ∈ tssDwords img, ∀ k, k < 4 → byteOf x.2 k = Mem.read u.mem (physAt (d.base + BitVec.ofNat 32 x.1) k)) ∧
    (∀ x ∈ tssWords img, ∀ k, k < 2 →
      x.2.extractLsb' (8 * k) 8 = Mem.read u.mem (physAt (d.base + BitVec.ofNat 32 x.1) k)) ∧
    img.rf = img.eflags.getLsbD 16) ∧
  (∀ (d : Desc) s w t, d.typ.getLsbD 3 = true → w.sys.cr0.pg = false →
    (∀ k, k < 2 → regionAt w.regions (physAt (d.base + 0x64) k) ≠ .unmapped) → TrapWaits d s w t →
    t.latches.trap
      = if (Mem.read w.mem (physAt (d.base + 0x64) 0)).getLsbD 0 then s.latches.trap ||| 0x8000 else s.latches.trap) ∧
  (∀ kind sel lin d rf ext s, d.limit.toNat < (if d.typ.getLsbD 3 then 0x67 else 0x2B) →
    switchTask kind sel lin d rf ext s = .error (.exc (.ts (selCode sel ext))) s) ∧
  ∀ kind sel lin d rf ext s, (if d.typ.getLsbD 3 then 0x67 else 0x2B) ≤ d.limit.toNat →
    let old := Exc.ts (selCode s.sys.tr.sel ext)
    (kind ≠ .call → descAddr s (s.sys.tr.sel &&& 0xFFF8) = none →
      switchTask kind sel lin d rf ext s = .error (.exc old) s) ∧
    ∀ a, (if kind = .call then a = s else OldNotBusy s a) → s.sys.tr.limit.toNat < savedEnd s.sys.tr.typ →
      switchTask kind sel lin d rf ext s = .error (.exc old) a
end

