-- ==== Sys2Proof/Laws/Memory.lean ====
section
/-! SUPPORT. The laws of the memory list: reads after writes, and the canonical form. -/

namespace Sys2Proof.Machine

theorem mem_read_below {lo : Nat} {m : List Host.Cell} (h : Mem.wfFrom lo m = true) {a : Nat} (ha : a < lo) :
    Mem.read m a = Config.unwritten := by
  induction m generalizing lo with
  | nil => rfl
  | cons x rest ih =>
    obtain ⟨b, v⟩ := x
    simp only [Mem.wfFrom, Bool.and_eq_true, decide_eq_true_eq] at h
    simp only [Mem.read]
    rw [if_neg (by omega)]
    exact ih h.2 (by omega)

/-- Reading a byte after storing it gives the byte stored. -/
theorem mem_read_write_same {lo : Nat} {m : List Host.Cell} (h : Mem.wfFrom lo m = true) (a : Nat) (v : Byte) :
    Mem.read (Mem.write m a v) a = v := by
  induction m generalizing lo with
  | nil =>
    simp only [Mem.write]
    split
    · simp [Mem.read, *]
    · simp [Mem.read]
  | cons x rest ih =>
    obtain ⟨b, w⟩ := x
    have h' := h
    simp only [Mem.wfFrom, Bool.and_eq_true, decide_eq_true_eq] at h
    simp only [Mem.write]
    split
    · rename_i hab
      split
      · rename_i hv
        subst hv
        simp only [Mem.read]
        rw [if_neg (by omega)]
        exact mem_read_below h.2 (by omega)
      · simp [Mem.read]
    · split
      · rename_i hab
        split
        · rename_i hv
          subst hv
          exact mem_read_below h.2 (by omega)
        · simp [Mem.read]
      · simp only [Mem.read]
        rw [if_neg (by omega)]
        exact ih h.2

/-- A store leaves every other byte alone. -/
theorem mem_read_write_other {lo : Nat} {m : List Host.Cell} (h : Mem.wfFrom lo m = true) {a b : Nat} (v : Byte)
    (hab : a ≠ b) : Mem.read (Mem.write m a v) b = Mem.read m b := by
  induction m generalizing lo with
  | nil =>
    simp only [Mem.write]
    split
    · rfl
    · simp [Mem.read, hab]
  | cons x rest ih =>
    obtain ⟨c, w⟩ := x
    simp only [Mem.wfFrom, Bool.and_eq_true, decide_eq_true_eq] at h
    simp only [Mem.write]
    split
    · split
      · rfl
      · simp [Mem.read, hab]
    · split
      · rename_i hac
        subst hac
        split
        · simp [Mem.read, hab]
        · simp [Mem.read, hab]
      · simp only [Mem.read]
        split
        · rfl
        · exact ih h.2

theorem mem_wfFrom_mono {lo lo' : Nat} {m : List Host.Cell} (h : Mem.wfFrom lo m = true) (hl : lo' ≤ lo) :
    Mem.wfFrom lo' m = true := by
  cases m with
  | nil => rfl
  | cons x rest =>
    obtain ⟨b, v⟩ := x
    simp only [Mem.wfFrom, Bool.and_eq_true, decide_eq_true_eq] at h ⊢
    exact ⟨⟨⟨by omega, h.1.1.2⟩, h.1.2⟩, h.2⟩

theorem mem_wfFrom_write {lo : Nat} {m : List Host.Cell} (h : Mem.wfFrom lo m = true) {a : Nat} (v : Byte)
    (hlo : lo ≤ a) (ha : a < 2 ^ 24) : Mem.wfFrom lo (Mem.write m a v) = true := by
  induction m generalizing lo with
  | nil =>
    simp only [Mem.write]
    split
    · rfl
    · rename_i hv
      simp only [Mem.wfFrom, Bool.and_eq_true, decide_eq_true_eq, bne_iff_ne]
      exact ⟨⟨⟨hlo, ha⟩, hv⟩, trivial⟩
  | cons x rest ih =>
    obtain ⟨b, w⟩ := x
    have h' := h
    simp only [Mem.wfFrom, Bool.and_eq_true, decide_eq_true_eq] at h
    simp only [Mem.write]
    split
    · split
      · exact h'
      · rename_i hab hv
        simp only [Mem.wfFrom, Bool.and_eq_true, decide_eq_true_eq]
        exact ⟨⟨⟨hlo, ha⟩, by simpa using hv⟩, ⟨⟨⟨by omega, h.1.1.2⟩, h.1.2⟩, h.2⟩⟩
    · split
      · split
        · exact mem_wfFrom_mono h.2 (by omega)
        · rename_i hab hv
          subst hab
          simp only [Mem.wfFrom, Bool.and_eq_true, decide_eq_true_eq]
          exact ⟨⟨⟨hlo, ha⟩, by simpa using hv⟩, h.2⟩
      · simp only [Mem.wfFrom, Bool.and_eq_true, decide_eq_true_eq]
        exact ⟨h.1, ih h.2 (by omega)⟩

theorem mem_wf_store {rs : List Region} {m : List Host.Cell} (h : Mem.wf m = true) {a : Nat} (ha : a < 2 ^ 24) (v : Byte) :
    Mem.wf (Mem.store rs m a v) = true := by
  unfold Mem.store
  split
  · exact mem_wfFrom_write h v (Nat.zero_le _) ha
  · exact h
  · exact h

/-- A store leaves every other byte alone, and every byte outside RAM. -/
theorem mem_read_store {rs : List Region} {m : List Host.Cell} (h : Mem.wf m = true) {a b : Nat} (v : Byte)
    (hb : a ≠ b ∨ regionAt rs b ≠ .ram) : Mem.read (Mem.store rs m a v) b = Mem.read m b := by
  unfold Mem.store
  split
  · rename_i hr
    exact mem_read_write_other h v (hb.elim id fun hn hab => hn (hab ▸ hr))
  · rfl
  · rfl

/-- The addresses that a bus event writes lie in memory. -/
def IoEvent.inRange (e : IoEvent) : Prop :=
  match e with
  | .memWrite cells => ∀ c ∈ cells, c.1 < 2 ^ 24
  | .memSet a _ => a < 2 ^ 24
  | .portRead _ _ _ => True
  | .portWrite _ _ _ => True
  | .intAck _ => True
  | .halt => True
  | .shutdown => True

theorem cells_inRange (as : List (BitVec 24)) (bs : List Byte) :
    ∀ c ∈ (as.map BitVec.toNat).zip bs, c.1 < 2 ^ 24 := by
  intro c hc
  obtain ⟨a, -, ha⟩ := List.mem_map.mp (List.of_mem_zip hc).1
  exact ha ▸ a.isLt

theorem mem_wf_storeAll {rs : List Region} {cells : List (Nat × Byte)} {m : List Host.Cell} (h : Mem.wf m = true)
    (hc : ∀ c ∈ cells, c.1 < 2 ^ 24) : Mem.wf (Mem.storeAll rs cells m) = true := by
  induction cells generalizing m with
  | nil => exact h
  | cons c rest ih =>
    exact ih (mem_wf_store h (hc c List.mem_cons_self) _) fun d hd => hc d (List.mem_cons_of_mem _ hd)

/-- Stored bytes change memory at their addresses alone, and nothing outside RAM. -/
theorem mem_read_storeAll {rs : List Region} {cells : List (Nat × Byte)} {m : List Host.Cell} (h : Mem.wf m = true)
    (hc : ∀ c ∈ cells, c.1 < 2 ^ 24) {b : Nat} (hb : b ∉ cells.map Prod.fst ∨ regionAt rs b ≠ .ram) :
    Mem.read (Mem.storeAll rs cells m) b = Mem.read m b := by
  induction cells generalizing m with
  | nil => rfl
  | cons c rest ih =>
    have hb' : c.1 ≠ b ∨ regionAt rs b ≠ .ram :=
      hb.imp_left fun hn e => hn (e ▸ List.mem_map_of_mem List.mem_cons_self)
    refine (ih (mem_wf_store h (hc c List.mem_cons_self) _) (fun d hd => hc d (List.mem_cons_of_mem _ hd)) ?_).trans
      (mem_read_store h _ hb')
    exact hb.imp_left fun hn hm => hn (List.mem_cons_of_mem _ hm)

theorem mem_after_append (rs : List Region) (l l' : List IoEvent) (m : List Host.Cell) :
    Mem.after rs (l ++ l') m = Mem.after rs l' (Mem.after rs l m) := by
  induction l generalizing m with
  | nil => rfl
  | cons e rest ih => cases e <;> exact ih _

/-- Bus events keep the canonical form. -/
theorem mem_wf_after {rs : List Region} {l : List IoEvent} {m : List Host.Cell} (h : Mem.wf m = true)
    (hl : ∀ e ∈ l, e.inRange) : Mem.wf (Mem.after rs l m) = true := by
  induction l generalizing m with
  | nil => exact h
  | cons e rest ih =>
    have he := hl e List.mem_cons_self
    have hr : ∀ e ∈ rest, e.inRange := fun d hd => hl d (List.mem_cons_of_mem _ hd)
    cases e with
    | memWrite cells => exact ih (mem_wf_storeAll h he) hr
    | memSet a mask => exact ih (mem_wf_store h he _) hr
    | portRead p n v => exact ih h hr
    | portWrite p n v => exact ih h hr
    | intAck v => exact ih h hr
    | halt => exact ih h hr
    | shutdown => exact ih h hr

/-- Bus events change nothing outside RAM. -/
theorem mem_read_after {rs : List Region} {l : List IoEvent} {m : List Host.Cell} (h : Mem.wf m = true)
    (hl : ∀ e ∈ l, e.inRange) {b : Nat} (hb : regionAt rs b ≠ .ram) :
    Mem.read (Mem.after rs l m) b = Mem.read m b := by
  induction l generalizing m with
  | nil => rfl
  | cons e rest ih =>
    have he := hl e List.mem_cons_self
    have hr : ∀ e ∈ rest, e.inRange := fun d hd => hl d (List.mem_cons_of_mem _ hd)
    cases e with
    | memWrite cells => exact (ih (mem_wf_storeAll h he) hr).trans (mem_read_storeAll h he (.inr hb))
    | memSet a mask => exact (ih (mem_wf_store h he _) hr).trans (mem_read_store h _ (.inr hb))
    | portRead p n v => exact ih h hr
    | portWrite p n v => exact ih h hr
    | intAck v => exact ih h hr
    | halt => exact ih h hr
    | shutdown => exact ih h hr

/-- Equal bytes everywhere are equal memories: the form is canonical. -/
theorem mem_ext {lo : Nat} {m m' : List Host.Cell} (h : Mem.wfFrom lo m = true) (h' : Mem.wfFrom lo m' = true)
    (e : ∀ a, Mem.read m a = Mem.read m' a) : m = m' := by
  induction m generalizing lo m' with
  | nil =>
    cases m' with
    | nil => rfl
    | cons y rest' =>
      obtain ⟨c, w⟩ := y
      simp only [Mem.wfFrom, Bool.and_eq_true, bne_iff_ne] at h'
      have := e c
      simp only [Mem.read, if_true] at this
      exact absurd this.symm h'.1.2
  | cons x rest ih =>
    obtain ⟨b, v⟩ := x
    have hb := h
    simp only [Mem.wfFrom, Bool.and_eq_true, bne_iff_ne, decide_eq_true_eq] at h
    cases m' with
    | nil =>
      have := e b
      simp only [Mem.read, if_true] at this
      exact absurd this h.1.2
    | cons y rest' =>
      obtain ⟨c, w⟩ := y
      have hc := h'
      simp only [Mem.wfFrom, Bool.and_eq_true, bne_iff_ne, decide_eq_true_eq] at h'
      have hbc : b = c := by
        rcases Nat.lt_trichotomy b c with hlt | heq | hgt
        · have := e b
          simp only [Mem.read, if_true] at this
          rw [if_neg (by omega), mem_read_below h'.2 (by omega)] at this
          exact absurd this h.1.2
        · exact heq
        · have := e c
          simp only [Mem.read, if_true] at this
          rw [if_neg (by omega), mem_read_below h.2 (by omega)] at this
          exact absurd this.symm h'.1.2
      subst hbc
      have hv : v = w := by
        have := e b
        simpa only [Mem.read, if_true] using this
      subst hv
      have : rest = rest' := by
        refine ih h.2 h'.2 fun a => ?_
        by_cases hab : b = a
        · subst hab
          rw [mem_read_below h.2 (by omega), mem_read_below h'.2 (by omega)]
        · have := e a
          simpa only [Mem.read, if_neg hab] using this
      rw [this]

/-- The value of the bytes of a value is its low bytes. -/
theorem leValue_leBytes (v : Word) : leValue (leBytes 4 v) = v := by
  simp only [leBytes, leValue]
  apply BitVec.eq_of_getLsbD_eq
  intro i hi
  simp only [BitVec.getLsbD_or, BitVec.getLsbD_setWidth, BitVec.getLsbD_shiftLeft, BitVec.getLsbD_ushiftRight]
  interval_cases i <;> simp

end Sys2Proof.Machine
end

