-- ==== Sys2Proof/Laws/Monad.lean ====
section
/-! SUPPORT. How the step monad computes: one lemma for each primitive, and the composition of relations between the state
in which a computation starts and the one in which it ends. -/

namespace Sys2Proof.Machine

@[simp] theorem run_pure {α : Type} (a : α) (s : State) : (pure a : M α) s = .ok a s := rfl

theorem run_bind {α β : Type} (m : M α) (f : α → M β) (s : State) :
    (m >>= f) s = match m s with
      | .ok a s' => f a s'
      | .error e s' => .error e s' := by
  show EStateM.bind m f s = _
  unfold EStateM.bind
  cases m s <;> rfl

theorem run_bind_ok {α β : Type} {m : M α} {f : α → M β} {s s' : State} {a : α} (h : m s = .ok a s') :
    (m >>= f) s = f a s' := by rw [run_bind, h]

theorem run_bind_error {α β : Type} {m : M α} {f : α → M β} {s s' : State} {e : Err} (h : m s = .error e s') :
    (m >>= f) s = .error e s' := by rw [run_bind, h]

/-- A computation that completes: its first part completed, and the rest after it. -/
theorem bind_ok {α β : Type} {m : M α} {f : α → M β} {s t : State} {b : β} (h : (m >>= f) s = .ok b t) :
    ∃ a u, m s = .ok a u ∧ f a u = .ok b t := by
  rw [run_bind] at h
  cases e : m s with
  | ok a u =>
    rw [e] at h
    exact ⟨a, u, rfl, h⟩
  | error x u =>
    rw [e] at h
    cases h

/-- A requirement that completes held, and changed nothing. -/
theorem require_ok {c : Bool} {e : Exc} {s t : State} {x : Unit} (h : require c e s = .ok x t) : c = true ∧ t = s := by
  cases c with
  | false => cases h
  | true =>
    cases h
    exact ⟨rfl, rfl⟩

/-- A requirement before a computation that completes held. -/
theorem require_bind_ok {β : Type} {c : Bool} {e : Exc} {f : Unit → M β} {s t : State} {b : β}
    (h : (require c e >>= f) s = .ok b t) : c = true ∧ f () s = .ok b t := by
  cases c with
  | false => cases h
  | true => exact ⟨rfl, h⟩

/-- A requirement that holds does nothing. -/
theorem require_bind {β : Type} {c : Bool} {e : Exc} {f : Unit → M β} {s : State} (h : c = true) :
    (require c e >>= f) s = f () s := by
  subst h
  rfl

@[simp] theorem run_get_bind {β : Type} (f : State → M β) (s : State) : ((get : M State) >>= f) s = f s s := rfl

@[simp] theorem run_modify_bind {β : Type} (g : State → State) (f : Unit → M β) (s : State) :
    ((modify g : M Unit) >>= f) s = f () (g s) := rfl

@[simp] theorem run_modify (g : State → State) (s : State) : (modify g : M Unit) s = .ok () (g s) := rfl

@[simp] theorem run_pure_bind {α β : Type} (a : α) (f : α → M β) (s : State) :
    ((pure a : M α) >>= f) s = f a s := rfl

@[simp] theorem run_gets {α : Type} (g : State → α) (s : State) : gets g s = .ok (g s) s := rfl

@[simp] theorem run_raise {α : Type} (e : Exc) (s : State) : (raise e : M α) s = .error (.exc e) s := rfl

@[simp] theorem run_refuse {α : Type} (r : Refusal) (s : State) : (refuse r : M α) s = .error (.refuse r) s := rfl

@[simp] theorem run_require_true (e : Exc) (s : State) : require true e s = .ok () s := rfl

@[simp] theorem run_require_false (e : Exc) (s : State) : require false e s = .error (.exc e) s := rfl

@[simp] theorem run_readReg (z : Size) (r : Reg) (s : State) : readReg z r s = .ok (s.regs.read z r) s := rfl

@[simp] theorem run_writeReg (z : Size) (r : Reg) (v : z.Val) (s : State) :
    writeReg z r v s = .ok () { s with regs := s.regs.write z r v } := rfl

@[simp] theorem run_setFlags (f : Flags) (s : State) : setFlags f s = .ok () { s with flags := f } := rfl

@[simp] theorem run_setSeg (r : SReg) (v : SegReg) (s : State) :
    setSeg r v s = .ok () { s with segs := s.segs.put r v } := rfl

@[simp] theorem run_setSp (v : Word) (s : State) :
    setSp v s = .ok () { s with regs := { s.regs with esp := withSp s.stackSize s.regs.esp v } } := rfl

@[simp] theorem run_freeBit (s : State) :
    freeBit s = .ok (Config.freeBit s.draws) { s with draws := s.draws + 1 } := rfl

@[simp] theorem run_freeBits (n : Nat) (s : State) :
    freeBits n s = .ok ((Config.freeWord s.draws).setWidth n) { s with draws := s.draws + 1 } := rfl

/-- Wherever a computation starts, its start and its end are related: by `R` if it completes, by `E` if it stops. -/
structure Ends {α : Type} (R E : State → State → Prop) (m : M α) : Prop where
  run : ∀ s,
    match m s with
    | .ok _ t => R s t
    | .error _ t => E s t

/-- Relations that can be composed along a computation. -/
structure Composes (R E : State → State → Prop) : Prop where
  refl : ∀ s, R s s
  stop : ∀ s, E s s
  trans : ∀ s t u, R s t → R t u → R s u
  transStop : ∀ s t u, R s t → E t u → E s u

section
variable {α β : Type} {R E : State → State → Prop}

theorem Ends.ok {m : M α} {s t : State} {a : α} (h : Ends R E m) (e : m s = .ok a t) : R s t := by
  have := h.run s
  rwa [e] at this

theorem Ends.error {m : M α} {s t : State} {x : Err} (h : Ends R E m) (e : m s = .error x t) : E s t := by
  have := h.run s
  rwa [e] at this

theorem ends_of {m : M α} (h1 : ∀ s a t, m s = .ok a t → R s t) (h2 : ∀ s x t, m s = .error x t → E s t) :
    Ends R E m := by
  constructor
  intro s
  cases e : m s with
  | ok a t => exact h1 s a t e
  | error x t => exact h2 s x t e

theorem ends_bind (hR : Composes R E) {m : M α} {f : α → M β} (hm : Ends R E m) (hf : ∀ a, Ends R E (f a)) :
    Ends R E (m >>= f) := by
  constructor
  intro s
  rw [run_bind]
  cases e : m s with
  | ok a t =>
    have h1 := hm.ok e
    simp only
    cases e2 : f a t with
    | ok b u => exact hR.trans _ _ _ h1 ((hf a).ok e2)
    | error x u => exact hR.transStop _ _ _ h1 ((hf a).error e2)
  | error x t => exact hm.error e

/-- After `get` the value read is the state itself. -/
theorem ends_get_bind {f : State → M β}
    (hf : ∀ s, match f s s with
      | .ok _ t => R s t
      | .error _ t => E s t) : Ends R E ((get : M State) >>= f) := ⟨hf⟩

theorem ends_pure (hR : Composes R E) (a : α) : Ends R E (pure a : M α) := ⟨fun s => hR.refl s⟩

theorem ends_get (hR : Composes R E) : Ends R E (get : M State) := ⟨fun s => hR.refl s⟩

theorem ends_gets (hR : Composes R E) (g : State → α) : Ends R E (gets g) := ⟨fun s => hR.refl s⟩

theorem ends_raise (hR : Composes R E) (e : Exc) : Ends R E (raise e : M α) := ⟨fun s => hR.stop s⟩

theorem ends_refuse (hR : Composes R E) (r : Refusal) : Ends R E (refuse r : M α) := ⟨fun s => hR.stop s⟩

theorem ends_require (hR : Composes R E) (c : Bool) (e : Exc) : Ends R E (require c e) := by
  cases c
  · exact ⟨fun s => hR.stop s⟩
  · exact ⟨fun s => hR.refl s⟩

theorem ends_modify {g : State → State} (h : ∀ s, R s (g s)) : Ends R E (modify g : M Unit) := ⟨h⟩

theorem ends_ite {c : Prop} [Decidable c] {a b : M α} (ha : Ends R E a) (hb : Ends R E b) :
    Ends R E (if c then a else b) := by
  by_cases h : c
  · rw [if_pos h]
    exact ha
  · rw [if_neg h]
    exact hb

end

end Sys2Proof.Machine
end

