-- ==== Sys2Proof/Laws/Access.lean ====
section
/-! SUPPORT. What the accesses to memory leave: one lemma for each operation between a linear address and an operand. -/

namespace Sys2Proof.Machine

theorem accessBits_nil : AccessBits [] := fun _ h => absurd h List.not_mem_nil

theorem accessBits_append {l l' : List (Nat × Byte)} (h : AccessBits l) (h' : AccessBits l') :
    AccessBits (l ++ l') := by
  intro x hx
  rcases List.mem_append.mp hx with hx | hx
  · exact h x hx
  · exact h' x hx

theorem accessBits_single {a : BitVec 24} {mask : Byte} (h : mask &&& 0x9E#8 = 0#8) :
    AccessBits [(a.toNat, mask)] := by
  intro x hx
  rw [List.mem_singleton] at hx
  subst hx
  exact ⟨a.isLt, h⟩

/-- The trace of an access that has done nothing yet. -/
def noTrace (s : State) : Trace := ⟨[], s.tlb.entries, s.now.pages, s.draws, s.cur.hits⟩

theorem touched_nil (s : State) : touched s (noTrace s) = s := rfl

/-- One access after another is one access. -/
theorem touched_touched (s : State) (x y : Trace) :
    touched (touched s x) y = touched s { y with sets := y.sets ++ x.sets } := by
  simp only [touched, settings, List.map_append, List.reverse_append, mem_after_append, List.append_assoc]

theorem composes_accessed : Composes Accessed AccessedStop where
  refl s := ⟨noTrace s, accessBits_nil, rfl⟩
  stop s := ⟨noTrace s, s.sys.cr2, accessBits_nil, rfl⟩
  trans s t u := by
    rintro ⟨x, hx, rfl⟩ ⟨y, hy, rfl⟩
    exact ⟨{ y with sets := y.sets ++ x.sets }, accessBits_append hy hx, touched_touched ..⟩
  transStop s t u := by
    rintro ⟨x, hx, rfl⟩ ⟨y, c, hy, rfl⟩
    exact ⟨{ y with sets := y.sets ++ x.sets }, c, accessBits_append hy hx, by rw [touched_touched]; rfl⟩

theorem accessed_draws (s : State) (d : Nat) : Accessed s { s with draws := d } :=
  ⟨{ noTrace s with draws := d }, accessBits_nil, rfl⟩

theorem accessed_entries (s : State) (es : List TlbEntry) :
    Accessed s { s with tlb := { s.tlb with entries := es } } :=
  ⟨{ noTrace s with entries := es }, accessBits_nil, rfl⟩

theorem accessed_recordHits (lin : Word) (n : Nat) (write : Bool) : Ends Accessed AccessedStop (recordHits lin n write) := by
  apply ends_modify
  intro s
  exact ⟨⟨[], s.tlb.entries, s.now.pages, s.draws + 1, _⟩, accessBits_nil, rfl⟩

theorem accessed_physRead (a : BitVec 24) : Ends Accessed AccessedStop (physRead a) := by
  constructor
  intro s
  simp only [physRead]
  cases regionAt s.regions a.toNat
  · exact composes_accessed.refl s
  · exact composes_accessed.refl s
  · exact accessed_draws s _

theorem accessed_physSetBits {a : BitVec 24} {mask : Byte} (h : mask &&& 0x9E#8 = 0#8) :
    Ends Accessed AccessedStop (physSetBits a mask) :=
  ends_modify fun s => ⟨{ noTrace s with sets := [(a.toNat, mask)] }, accessBits_single h, rfl⟩

theorem accessed_nextChoice : Ends Accessed AccessedStop nextChoice := by
  constructor
  intro s
  simp only [nextChoice]
  cases s.now.pages with
  | nil => exact composes_accessed.refl s
  | cons c rest => exact ⟨⟨[], _, rest, s.draws, s.cur.hits⟩, accessBits_nil, rfl⟩

theorem accessed_fillTlb (fill : Option (BitVec 2)) (page : BitVec 20) (frame : BitVec 12) (u w d : Bool) :
    Ends Accessed AccessedStop (modify (fillTlb fill page frame u w d)) := by
  refine ends_modify fun s => ?_
  cases fill with
  | none => exact composes_accessed.refl s
  | some b => exact accessed_entries s _

theorem accessed_physReadAll (as : List (BitVec 24)) : Ends Accessed AccessedStop (physReadAll as) := by
  induction as with
  | nil => exact ends_pure composes_accessed _
  | cons a rest ih =>
    exact ends_bind composes_accessed (accessed_physRead a) fun b =>
      ends_bind composes_accessed ih fun bs => ends_pure composes_accessed _

theorem accessed_readEntry (a : BitVec 24) : Ends Accessed AccessedStop (readEntry a) :=
  ends_bind composes_accessed (accessed_physReadAll _) fun _ => ends_pure composes_accessed _

theorem accessed_pageFault {α : Type} (lin : Word) (acc : Access) (p : Bool) :
    Ends Accessed AccessedStop (pageFault lin acc p : M α) :=
  ⟨fun s => ⟨noTrace s, lin, accessBits_nil, rfl⟩⟩

theorem ends_get_any {β : Type} {R E : State → State → Prop} {f : State → M β} (hf : ∀ x, Ends R E (f x)) :
    Ends R E ((get : M State) >>= f) := ⟨fun s => (hf s).run s⟩

theorem accessed_walk (lin : Word) (acc : Access) (c : PageChoice) :
    Ends Accessed AccessedStop (walk lin acc c) := by
  unfold walk
  refine ends_get_any fun s => ?_
  refine ends_bind composes_accessed (accessed_readEntry _) fun pde => ?_
  refine ends_ite (accessed_pageFault ..) ?_
  refine ends_bind composes_accessed (accessed_readEntry _) fun pte => ?_
  refine ends_ite ?_ ?_
  · refine ends_ite ?_ (accessed_pageFault ..)
    exact ends_bind composes_accessed (accessed_physSetBits (by decide)) fun _ => accessed_pageFault ..
  · exact ends_ite (ends_pure composes_accessed _) (accessed_pageFault ..)

theorem accessed_translate (lin : Word) (acc : Access) : Ends Accessed AccessedStop (translate lin acc) := by
  unfold translate
  refine ends_get_any fun s => ends_ite ?_ (ends_pure composes_accessed _)
  refine ends_bind composes_accessed accessed_nextChoice fun c => ends_get_any fun s => ?_
  cases tlbLookup s c.use (pageOf lin) with
  | none => exact accessed_walk ..
  | some e => exact ends_ite (ends_pure composes_accessed _) (accessed_pageFault ..)

theorem accessed_touchPage (page : BitVec 20) (acc : Access) (t : Trans) :
    Ends Accessed AccessedStop (touchPage page acc t) := by
  cases t with
  | direct f => exact ends_pure composes_accessed _
  | walked frame pa ta user writable dirty c =>
    unfold touchPage
    refine ends_bind composes_accessed (accessed_physSetBits ?_) fun _ => ?_
    · split <;> decide
    refine ends_bind composes_accessed (accessed_physSetBits ?_) fun _ => ?_
    · split <;> decide
    exact accessed_fillTlb ..
  | cached e c =>
    unfold touchPage
    refine ends_ite ?_ (ends_pure composes_accessed _)
    refine ends_get_any fun s => ?_
    refine ends_bind composes_accessed (accessed_readEntry _) fun pde => ?_
    refine ends_ite (ends_bind composes_accessed (accessed_physSetBits (by decide)) fun _ => ?_) ?_ <;>
      refine ends_bind composes_accessed (accessed_physSetBits (by decide)) fun _ => ?_ <;>
      exact ends_modify fun s => accessed_entries s _

theorem accessed_translateBoth (lin : Word) (n : Nat) (acc : Access) :
    Ends Accessed AccessedStop (translateBoth lin n acc) := by
  unfold translateBoth
  refine ends_bind composes_accessed (accessed_translate ..) fun t1 => ends_ite (ends_pure composes_accessed _) ?_
  exact ends_bind composes_accessed (accessed_translate ..) fun t2 => ends_pure composes_accessed _

theorem accessed_physFrom (lin : Word) (n : Nat) (acc : Access) (ts : Trans × Trans) :
    Ends Accessed AccessedStop (physFrom lin n acc ts) := by
  unfold physFrom
  refine ends_bind composes_accessed (accessed_touchPage ..) fun _ => ?_
  refine ends_ite ?_ (ends_pure composes_accessed _)
  exact ends_bind composes_accessed (accessed_touchPage ..) fun _ => ends_pure composes_accessed _

theorem accessed_physOf (lin : Word) (n : Nat) (acc : Access) : Ends Accessed AccessedStop (physOf lin n acc) :=
  ends_bind composes_accessed (accessed_translateBoth ..) fun _ => accessed_physFrom ..

theorem accessed_linRead (lin : Word) (n : Nat) (acc : Access) : Ends Accessed AccessedStop (linRead lin n acc) :=
  ends_bind composes_accessed (accessed_physOf ..) fun _ =>
    ends_bind composes_accessed (accessed_physReadAll _) fun _ => ends_pure composes_accessed _

theorem accessed_sysRead (lin : Word) (n : Nat) : Ends Accessed AccessedStop (sysRead lin n) := accessed_linRead ..

theorem accessed_readDesc (lin : Word) : Ends Accessed AccessedStop (readDesc lin) :=
  ends_bind composes_accessed (accessed_sysRead ..) fun _ =>
    ends_bind composes_accessed (accessed_sysRead ..) fun _ => ends_pure composes_accessed _

theorem accessed_fetchDesc (sel : Half) (e : Exc) : Ends Accessed AccessedStop (fetchDesc sel e) := by
  unfold fetchDesc
  refine ends_get_any fun s => ?_
  cases descAddr s sel with
  | none => exact ends_raise composes_accessed _
  | some lin => exact ends_bind composes_accessed (accessed_readDesc _) fun d => ends_pure composes_accessed _

theorem accessed_dataPhys (r : SReg) (off : Word) (n : Nat) (write : Bool) :
    Ends Accessed AccessedStop (dataPhys r off n write) := by
  unfold dataPhys
  refine ends_get_any fun s => ?_
  refine ends_bind composes_accessed (ends_require composes_accessed _ _) fun _ => ?_
  exact ends_bind composes_accessed (accessed_recordHits ..) fun _ => accessed_physOf ..

/-- A data read leaves everything as it was but for Accessed and Dirty bits. -/
theorem accessed_readMem (r : SReg) (off : Word) (n : Nat) : Ends Accessed AccessedStop (readMem r off n) :=
  ends_bind composes_accessed (accessed_dataPhys ..) fun _ =>
    ends_bind composes_accessed (accessed_physReadAll _) fun _ => ends_pure composes_accessed _

theorem accessed_probeMem (r : SReg) (off : Word) (n : Nat) : Ends Accessed AccessedStop (probeMem r off n) := by
  unfold probeMem
  refine ends_get_any fun s => ?_
  exact ends_bind composes_accessed (ends_require composes_accessed _ _) fun _ => accessed_translateBoth ..

theorem accessed_freeBits (n : Nat) : Ends Accessed AccessedStop (freeBits n) := ⟨fun s => accessed_draws s _⟩

theorem accessed_effAddr (e : Ea) : Ends Accessed AccessedStop (effAddr e) :=
  ends_ite (ends_refuse composes_accessed _) (ends_gets composes_accessed _)

theorem accessed_place (rm : Rm) : Ends Accessed AccessedStop (place rm) := by
  cases rm with
  | reg r => exact ends_pure composes_accessed _
  | mem e =>
    exact ends_bind composes_accessed (accessed_effAddr e) fun off =>
      ends_get_any fun s => ends_pure composes_accessed _

/-- An effective address that is computed is the one of the rules, and computing it changes nothing. -/
theorem effAddr_ok {e : Ea} {s t : State} {v : Word} (h : effAddr e s = .ok v t) :
    eaUndefined e = false ∧ v = eaVal s.regs e ∧ t = s := by
  simp only [effAddr] at h
  cases hu : eaUndefined e with
  | true =>
    rw [hu, if_pos rfl] at h
    cases h
  | false =>
    rw [hu, if_neg (by decide)] at h
    cases h
    exact ⟨rfl, rfl, rfl⟩

/-- Computing the place of an operand changes nothing. -/
theorem place_same {rm : Rm} {s t : State} {p : Place} (h : place rm s = .ok p t) : t = s := by
  cases rm with
  | reg r =>
    cases h
    rfl
  | mem e =>
    obtain ⟨off, u, h1, h⟩ := bind_ok h
    cases h
    exact (effAddr_ok h1).2.2

theorem accessed_read (z : Size) (p : Place) : Ends Accessed AccessedStop (p.read z) := by
  cases p with
  | reg r => exact ends_gets composes_accessed _
  | mem sr off => exact ends_bind composes_accessed (accessed_readMem ..) fun _ => ends_pure composes_accessed _

theorem accessed_readRmw (z : Size) (p : Place) : Ends Accessed AccessedStop (p.readRmw z) := by
  cases p with
  | reg r => exact ends_gets composes_accessed _
  | mem sr off =>
    exact ends_bind composes_accessed (accessed_probeMem ..) fun _ =>
      ends_bind composes_accessed (accessed_readMem ..) fun _ => ends_pure composes_accessed _

theorem accessed_readRm (z : Size) (rm : Rm) : Ends Accessed AccessedStop (readRm z rm) :=
  ends_bind composes_accessed (accessed_place rm) fun p => accessed_read z p

theorem settings_inRange {l : List (Nat × Byte)} (h : AccessBits l) : ∀ e ∈ (settings l).reverse, e.inRange := by
  intro e he
  obtain ⟨x, hx, rfl⟩ := List.mem_map.mp (List.mem_reverse.mp he)
  exact (h x hx).1

theorem accessed_wf {s t : State} (h : Accessed s t) (hwf : Mem.wf s.mem = true) : Mem.wf t.mem = true := by
  obtain ⟨x, hx, rfl⟩ := h
  exact mem_wf_after hwf (settings_inRange hx)

theorem length_leBytes (n : Nat) (v : Word) : (leBytes n v).length = n := by
  induction n generalizing v with
  | zero => rfl
  | succ n ih => simp only [leBytes, List.length_cons, ih]

/-- The physical addresses of an access whose pages have been translated. -/
theorem physFrom_ok {lin : Word} {n : Nat} {acc : Access} {ts : Trans × Trans} {s t : State}
    {as : List (BitVec 24)} (h : physFrom lin n acc ts s = .ok as t) : as = (List.range n).map (byteAddr lin ts.1 ts.2) := by
  obtain ⟨-, v, -, h⟩ := bind_ok h
  dsimp only at h
  split at h
  · obtain ⟨-, w, -, h⟩ := bind_ok h
    cases h
    rfl
  · cases h
    rfl

/-- The physical addresses of an access are as many as its bytes. -/
theorem physFrom_length {lin : Word} {n : Nat} {acc : Access} {ts : Trans × Trans} {s t : State}
    {as : List (BitVec 24)} (h : physFrom lin n acc ts s = .ok as t) : as.length = n := by
  simp [physFrom_ok h]

theorem physOf_length {lin : Word} {n : Nat} {acc : Access} {s t : State} {as : List (BitVec 24)}
    (h : physOf lin n acc s = .ok as t) : as.length = n := by
  obtain ⟨ts, u, -, h⟩ := bind_ok h
  exact physFrom_length h

theorem dataPhys_length {r : SReg} {off : Word} {n : Nat} {w : Bool} {s t : State} {as : List (BitVec 24)}
    (h : dataPhys r off n w s = .ok as t) : as.length = n := by
  simp only [dataPhys, run_get_bind] at h
  obtain ⟨-, h⟩ := require_bind_ok h
  obtain ⟨-, u, -, h⟩ := bind_ok h
  exact physOf_length h

/-- A store of bytes at the physical addresses that an access found. -/
theorem physWriteAll_stored {as : List (BitVec 24)} {n : Nat} {v : Word} {s u t : State} (hwf : Mem.wf s.mem = true)
    (hacc : Accessed s u) (hn : as.length = n) (h : physWriteAll as (leBytes n v) u = .ok () t) :
    StoredAt (as.map BitVec.toNat) s t ∧ Mem.wf t.mem = true := by
  have hu := accessed_wf hacc hwf
  obtain ⟨x, hx, rfl⟩ := hacc
  cases h
  have hc := cells_inRange as (leBytes n v)
  have hm : ((as.map BitVec.toNat).zip (leBytes n v)).map Prod.fst = as.map BitVec.toNat := by
    rw [List.map_fst_zip]
    rw [List.length_map, length_leBytes, hn]
  refine ⟨⟨x, _, hx, hm, rfl, fun a ha => ?_⟩, mem_wf_storeAll hu hc⟩
  exact mem_read_storeAll hu hc (.inl (by rw [hm]; exact ha))

/-- A data write stores its bytes and leaves everything else as an access does. -/
theorem writeMem_stored {r : SReg} {off : Word} {n : Nat} {v : Word} {s t : State} (hwf : Mem.wf s.mem = true)
    (h : writeMem r off n v s = .ok () t) : Stored r off n s t ∧ Mem.wf t.mem = true := by
  obtain ⟨as, u, e, h⟩ := bind_ok h
  have h1 := physWriteAll_stored hwf ((accessed_dataPhys r off n true).ok e) (dataPhys_length e) h
  simpa only [Stored, storedAt, e] using h1

/-- A write whose checks have been made stores its bytes where the translation put them, and leaves everything else as an
access does. -/
theorem writeProbed_stored {r : SReg} {off : Word} {n : Nat} {ts : Trans × Trans} {v : Word} {s t : State}
    (hwf : Mem.wf s.mem = true) (h : writeProbed r off n ts v s = .ok () t) :
    StoredAt ((List.range n).map fun i => (byteAddr (s.linear r off) ts.1 ts.2 i).toNat) s t ∧ Mem.wf t.mem = true := by
  simp only [writeProbed, run_get_bind] at h
  obtain ⟨_, u, h1, h⟩ := bind_ok h
  obtain ⟨as, w, h2, h⟩ := bind_ok h
  have h3 := physWriteAll_stored hwf
    (composes_accessed.trans _ _ _ ((accessed_recordHits _ _ _).ok h1) ((accessed_physFrom _ _ _ _).ok h2))
    (physFrom_length h2) h
  rw [physFrom_ok h2, List.map_map] at h3
  exact h3

/-- A write of an operand changes that operand alone. -/
theorem write_written {z : Size} {p : Place} {v : z.Val} {s t : State} (hwf : Mem.wf s.mem = true)
    (h : p.write z v s = .ok () t) : Written z p v s t ∧ Mem.wf t.mem = true := by
  cases p with
  | reg r =>
    cases h
    exact ⟨rfl, hwf⟩
  | mem sr off => exact writeMem_stored hwf h

end Sys2Proof.Machine
end

