-- ==== Sys2Proof/Laws/Encoding.lean ====
section
/-! SUPPORT. The readers of the decoder take back what the encoder wrote: immediates, offsets and ModR/M operands. -/

namespace Sys2Proof

/-- Two bytes written are read back (R320). -/
theorem half_halfBytes (d : BitVec 16) (rest : List Byte) : half (halfBytes d ++ rest) = .ok (d, rest) := by
  have h : ((d.extractLsb' 8 8 ++ d.extractLsb' 0 8) : BitVec 16) = d := by
    apply BitVec.eq_of_getLsbD_eq
    intro i hi
    simp only [BitVec.getLsbD_append]
    interval_cases i <;> simp
  show Except.ok (((d.extractLsb' 8 8 ++ d.extractLsb' 0 8) : BitVec 16), rest) = _
  rw [h]

/-- Four bytes written are read back (R320). -/
theorem word_wordBytes (d : BitVec 32) (rest : List Byte) : word (wordBytes d ++ rest) = .ok (d, rest) := by
  have h : ((d.extractLsb' 24 8 ++ d.extractLsb' 16 8 ++ d.extractLsb' 8 8 ++ d.extractLsb' 0 8) : BitVec 32) = d := by
    apply BitVec.eq_of_getLsbD_eq
    intro i hi
    simp only [BitVec.getLsbD_append]
    interval_cases i <;> simp
  show Except.ok (((d.extractLsb' 24 8 ++ d.extractLsb' 16 8 ++ d.extractLsb' 8 8 ++ d.extractLsb' 0 8) : BitVec 32),
    rest) = _
  rw [h]

/-- A moffs written under its address size is read back (R320). -/
theorem moffs_encMoffs {a : ASize} {p : Moffs} (h : p.fits a = true) (rest : List Byte) :
    moffs a (encMoffs p ++ rest) = .ok (p, rest) := by
  cases p with
  | p16 off =>
    obtain rfl : a = .a16 := by simpa [Moffs.fits] using h
    show (Moffs.p16 <$> half) (halfBytes off ++ rest) = _
    simp only [Functor.map, StateT.map, bind, Except.bind, half_halfBytes, pure, Except.pure]
  | p32 off =>
    obtain rfl : a = .a32 := by simpa [Moffs.fits] using h
    show (Moffs.p32 <$> word) (wordBytes off ++ rest) = _
    simp only [Functor.map, StateT.map, bind, Except.bind, word_wordBytes, pure, Except.pure]

/-- The three fields of a ModR/M or SIB byte (R310). -/
theorem modRmByte_fields (md : BitVec 2) (k l : BitVec 3) :
    (modRmByte md k l).extractLsb' 6 2 = md ∧ (modRmByte md k l).extractLsb' 3 3 = k ∧
      (modRmByte md k l).extractLsb' 0 3 = l := by
  revert md k l
  decide

/-- A register's number names it (R311). -/
@[simp] theorem regOf_num (r : Reg) : regOf r.num = r := by cases r <;> rfl

/-- A 16-bit base's number names it (R312). -/
@[simp] theorem base16Of_num (b : Base16) : base16Of b.num = b := by cases b <;> rfl

/-- The reader of a ModR/M byte with a memory operand, for the displacement reader of its address size (R310). -/
theorem modRm_mem {a : ASize} {md : BitVec 2} {k low : BitVec 3} {ea : Ea} {rest rest' : List Byte} (hm : md ≠ 3#2)
    (h16 : a = .a16 → ea16 (md.setWidth 3) low rest = .ok (ea, rest'))
    (h32 : a = .a32 → ea32 (md.setWidth 3) low rest = .ok (ea, rest')) :
    modRm a (modRmByte md k low :: rest) = .ok (⟨k, .mem ea⟩, rest') := by
  obtain ⟨h1, h2, h3⟩ := modRmByte_fields md k low
  unfold modRm
  simp only [bind, StateT.bind, byte, Except.bind, h1, h2, h3]
  rw [if_neg hm]
  cases a
  · show ((Rm.mem <$> ea16 (md.setWidth 3) low).bind _) rest = _
    simp only [Functor.map, StateT.map, StateT.bind, bind, Except.bind, h16 rfl, pure, StateT.pure, Except.pure]
  · show ((Rm.mem <$> ea32 (md.setWidth 3) low).bind _) rest = _
    simp only [Functor.map, StateT.map, StateT.bind, bind, Except.bind, h32 rfl, pure, StateT.pure, Except.pure]

/-- The reader of a ModR/M byte with a register operand (R310). -/
theorem modRm_reg (a : ASize) (k : BitVec 3) (r : Reg) (rest : List Byte) :
    modRm a (modRmByte 3 k r.num :: rest) = .ok (⟨k, .reg r⟩, rest) := by
  obtain ⟨h1, h2, h3⟩ := modRmByte_fields 3 k r.num
  unfold modRm
  simp only [bind, StateT.bind, byte, Except.bind, h1, h2, h3]
  show Except.ok _ = _
  rw [regOf_num]

/-- The reader of a SIB byte whose fields are known (R315). -/
theorem eaSib_modRmByte (md : BitVec 3) (ss : BitVec 2) (x b : BitVec 3) (l : List Byte) :
    eaSib md (modRmByte ss x b :: l) =
      (match md with
        | 0#3 => if b = 5#3 then .sibAbs ss (regOf x) <$> word else pure (.sib ss (regOf x) (regOf b) .none)
        | 1#3 => (fun d => .sib ss (regOf x) (regOf b) (.d8 d)) <$> byte
        | _ => (fun d => .sib ss (regOf x) (regOf b) (.d32 d)) <$> word : Dec Ea) l := by
  obtain ⟨h1, h2, h3⟩ := modRmByte_fields ss x b
  unfold eaSib
  simp only [bind, StateT.bind, byte, Except.bind, h1, h2, h3] <;> rfl

section
variable {k : BitVec 3} {rest : List Byte}

theorem modRm_m16 {b : Base16} {d : Disp16} (h : (Ea.m16 b d).wf = true) :
    modRm .a16 (encRm k (.mem (.m16 b d)) ++ rest) = .ok (⟨k, .mem (.m16 b d)⟩, rest) := by
  cases d with
  | none => exact modRm_mem (md := 0) (by decide) (fun _ => by cases b <;> first | rfl | exact absurd h (by decide)) nofun
  | d8 d => exact modRm_mem (md := 1) (by decide) (fun _ => by cases b <;> rfl) nofun
  | d16 d =>
    refine modRm_mem (md := 2) (by decide) (fun _ => ?_) nofun
    show ((fun d => Ea.m16 (base16Of b.num) (.d16 d)) <$> half) (halfBytes d ++ rest) = _
    simp only [Functor.map, StateT.map, bind, Except.bind, half_halfBytes, pure, Except.pure, base16Of_num]

theorem modRm_abs16 {d : BitVec 16} :
    modRm .a16 (encRm k (.mem (.abs16 d)) ++ rest) = .ok (⟨k, .mem (.abs16 d)⟩, rest) := by
  refine modRm_mem (md := 0) (by decide) (fun _ => ?_) nofun
  show (Ea.abs16 <$> half) (halfBytes d ++ rest) = _
  simp only [Functor.map, StateT.map, bind, Except.bind, half_halfBytes, pure, Except.pure]

theorem modRm_m32 {b : Reg} {d : Disp32} (h : (Ea.m32 b d).wf = true) :
    modRm .a32 (encRm k (.mem (.m32 b d)) ++ rest) = .ok (⟨k, .mem (.m32 b d)⟩, rest) := by
  have hb : b.num ≠ 4#3 := by cases b <;> first | decide | exact absurd h (by simp [Ea.wf])
  cases d with
  | none => exact modRm_mem (md := 0) (by decide) nofun fun _ => by cases b <;> first | rfl | exact absurd h (by decide)
  | d8 d =>
    refine modRm_mem (md := 1) (by decide) nofun fun _ => ?_
    cases b <;> first | rfl | exact absurd rfl hb
  | d32 d =>
    refine modRm_mem (md := 2) (by decide) nofun fun _ => ?_
    show (if b.num = 4#3 then eaSib 2 else ((fun d => Ea.m32 (regOf b.num) (.d32 d)) <$> word)) (wordBytes d ++ rest) = _
    rw [if_neg hb]
    simp only [Functor.map, StateT.map, bind, Except.bind, word_wordBytes, pure, Except.pure, regOf_num]

theorem modRm_abs32 {d : BitVec 32} :
    modRm .a32 (encRm k (.mem (.abs32 d)) ++ rest) = .ok (⟨k, .mem (.abs32 d)⟩, rest) := by
  refine modRm_mem (md := 0) (by decide) nofun fun _ => ?_
  show (Ea.abs32 <$> word) (wordBytes d ++ rest) = _
  simp only [Functor.map, StateT.map, bind, Except.bind, word_wordBytes, pure, Except.pure]

theorem modRm_sib {ss : BitVec 2} {x b : Reg} {d : Disp32} (h : (Ea.sib ss x b d).wf = true) :
    modRm .a32 (encRm k (.mem (.sib ss x b d)) ++ rest) = .ok (⟨k, .mem (.sib ss x b d)⟩, rest) := by
  cases d with
  | none =>
    refine modRm_mem (md := 0) (by decide) nofun fun _ => ?_
    show eaSib 0 (modRmByte ss x.num b.num :: rest) = _
    rw [eaSib_modRmByte, regOf_num, regOf_num]
    cases b <;> first | rfl | exact absurd h (by simp [Ea.wf])
  | d8 d =>
    refine modRm_mem (md := 1) (by decide) nofun fun _ => ?_
    show eaSib 1 (modRmByte ss x.num b.num :: d :: rest) = _
    rw [eaSib_modRmByte, regOf_num, regOf_num]
    rfl
  | d32 d =>
    refine modRm_mem (md := 2) (by decide) nofun fun _ => ?_
    show eaSib 2 (modRmByte ss x.num b.num :: (wordBytes d ++ rest)) = _
    rw [eaSib_modRmByte, regOf_num, regOf_num]
    show ((fun d => Ea.sib ss x b (.d32 d)) <$> word) (wordBytes d ++ rest) = _
    simp only [Functor.map, StateT.map, bind, Except.bind, word_wordBytes, pure, Except.pure]

theorem modRm_sibAbs {ss : BitVec 2} {x : Reg} {d : BitVec 32} :
    modRm .a32 (encRm k (.mem (.sibAbs ss x d)) ++ rest) = .ok (⟨k, .mem (.sibAbs ss x d)⟩, rest) := by
  refine modRm_mem (md := 0) (by decide) nofun fun _ => ?_
  show eaSib 0 (modRmByte ss x.num 5 :: (wordBytes d ++ rest)) = _
  rw [eaSib_modRmByte, regOf_num]
  show (Ea.sibAbs ss x <$> word) (wordBytes d ++ rest) = _
  simp only [Functor.map, StateT.map, bind, Except.bind, word_wordBytes, pure, Except.pure]

end

/-- A well-formed ModR/M operand written under its address size is read back with its reg field (R310 to R315). -/
theorem modRm_encRm {a : ASize} {rm : Rm} (h : rm.wf = true) (hf : rm.fits a = true) (k : BitVec 3) (rest : List Byte) :
    modRm a (encRm k rm ++ rest) = .ok (⟨k, rm⟩, rest) := by
  cases rm with
  | reg r => exact modRm_reg a k r rest
  | mem e =>
    obtain rfl : e.asize = a := by simpa [Rm.fits] using hf
    cases e with
    | m16 b d => exact modRm_m16 h
    | abs16 d => exact modRm_abs16
    | m32 b d => exact modRm_m32 h
    | abs32 d => exact modRm_abs32
    | sib ss x b d => exact modRm_sib h
    | sibAbs ss x d => exact modRm_sibAbs

end Sys2Proof
end

