-- ==== Sys2Proof/Laws/Keeps.lean ====
section
/-! SUPPORT. What every shared operation keeps: the canonical form of memory, the legal form of the control registers, and
all that lies outside the processor's reach; and that every change of memory is on record. -/

namespace Sys2Proof.Machine

/-- The form of the state during a step. -/
structure Good (s : State) : Prop where
  canonical : Mem.wf s.mem = true
  directory : s.sys.cr3 &&& 0xFFF = 0
  paging : s.sys.cr0.pg = true → s.sys.cr0.pe = true

/-- A step from `s` to `t` put events on record that write within memory, changed memory as they say, and left the map and
the inputs to come. -/
structure OnRecord (s t : State) (l : List IoEvent) : Prop where
  map : t.regions = s.regions
  inputs : t.inputs = s.inputs
  io : t.io = l ++ s.io
  mem : t.mem = Mem.after s.regions l.reverse s.mem
  range : ∀ e ∈ l, e.inRange

/-- A step that keeps the form of the state, and records what it does to memory. -/
def Keep (s t : State) : Prop := Good s → Good t ∧ ∃ l, OnRecord s t l

theorem onRecord_refl (s : State) : OnRecord s s [] :=
  ⟨rfl, rfl, rfl, rfl, fun _ h => absurd h List.not_mem_nil⟩

theorem onRecord_trans {s t u : State} {l l' : List IoEvent} (h : OnRecord s t l) (h' : OnRecord t u l') :
    OnRecord s u (l' ++ l) := by
  refine ⟨h'.map.trans h.map, h'.inputs.trans h.inputs, ?_, ?_, fun e he => ?_⟩
  · rw [h'.io, h.io, List.append_assoc]
  · rw [h'.mem, h.map, h.mem, List.reverse_append, mem_after_append]
  · exact (List.mem_append.mp he).elim (h'.range e) (h.range e)

/-- What a step records says what it leaves of memory. -/
theorem onRecord_outside {s t : State} {l : List IoEvent} (h : OnRecord s t l) (hwf : Mem.wf s.mem = true) :
    Outside s t := by
  refine ⟨h.map, h.inputs, ⟨l, h.io, h.mem⟩, fun a ha => ?_⟩
  rw [h.mem]
  exact mem_read_after hwf (fun e he => h.range e (List.mem_reverse.mp he)) ha

/-- Memory stays canonical under what a step records. -/
theorem onRecord_wf {s t : State} {l : List IoEvent} (h : OnRecord s t l) (hwf : Mem.wf s.mem = true) :
    Mem.wf t.mem = true := by
  rw [h.mem]
  exact mem_wf_after hwf fun e he => h.range e (List.mem_reverse.mp he)

theorem keep_refl (s : State) : Keep s s := fun g => ⟨g, [], onRecord_refl s⟩

theorem keep_trans {s t u : State} (h : Keep s t) (h' : Keep t u) : Keep s u := fun g =>
  have ⟨g1, _, r1⟩ := h g
  have ⟨g2, _, r2⟩ := h' g1
  ⟨g2, _, onRecord_trans r1 r2⟩

theorem composes_keep : Composes Keep Keep :=
  ⟨keep_refl, keep_refl, fun _ _ _ => keep_trans, fun _ _ _ => keep_trans⟩

/-- A computation that keeps the form of the state, however it ends. -/
abbrev Keeps {α : Type} (m : M α) : Prop := Ends Keep Keep m

section
variable {α β : Type}

@[simp] theorem keeps_bind {m : M α} {f : α → M β} (hm : Keeps m) (hf : ∀ a, Keeps (f a)) : Keeps (m >>= f) :=
  ends_bind composes_keep hm hf

@[simp] theorem keeps_pure (a : α) : Keeps (pure a : M α) := ends_pure composes_keep a

@[simp] theorem keeps_map {f : α → β} {m : M α} (hm : Keeps m) : Keeps (f <$> m) := by
  rw [← bind_pure_comp]
  exact keeps_bind hm fun a => keeps_pure _

@[simp] theorem keeps_get : Keeps (get : M State) := ends_get composes_keep

@[simp] theorem keeps_gets (f : State → α) : Keeps (gets f) := ends_gets composes_keep f

@[simp] theorem keeps_raise (e : Exc) : Keeps (raise e : M α) := ends_raise composes_keep e

@[simp] theorem keeps_refuse (r : Refusal) : Keeps (refuse r : M α) := ends_refuse composes_keep r

@[simp] theorem keeps_require (c : Bool) (e : Exc) : Keeps (require c e) := ends_require composes_keep c e

@[simp] theorem keeps_ite {c : Prop} [Decidable c] {a b : M α} (ha : Keeps a) (hb : Keeps b) :
    Keeps (if c then a else b) := ends_ite ha hb

end

/-- A change that leaves memory, the map, the bus record, CR0 and CR3 as they are. -/
theorem keep_same {s t : State} (m : t.mem = s.mem) (r : t.regions = s.regions) (i : t.inputs = s.inputs)
    (o : t.io = s.io) (c : t.sys.cr0 = s.sys.cr0) (c3 : t.sys.cr3 = s.sys.cr3) : Keep s t := fun g =>
  ⟨⟨by rw [m]; exact g.canonical, by rw [c3]; exact g.directory, by rw [c]; exact g.paging⟩, [],
    ⟨r, i, o, m, fun _ h => absurd h List.not_mem_nil⟩⟩

/-- An event on the bus that writes nothing. -/
theorem keep_event {s t : State} {e : IoEvent} (m : Mem.after s.regions [e] s.mem = t.mem) (r : t.regions = s.regions)
    (i : t.inputs = s.inputs) (o : t.io = e :: s.io) (c : t.sys.cr0 = s.sys.cr0) (c3 : t.sys.cr3 = s.sys.cr3)
    (h : e.inRange) : Keep s t := fun g =>
  have k : OnRecord s t [e] := ⟨r, i, o, m.symm, fun x hx => (List.mem_singleton.mp hx) ▸ h⟩
  ⟨⟨onRecord_wf k g.canonical, by rw [c3]; exact g.directory, by rw [c]; exact g.paging⟩, _, k⟩

theorem keeps_modify {g : State → State} (h : ∀ s, Keep s (g s)) : Keeps (modify g : M Unit) := ends_modify h

@[simp] theorem keeps_setFlags (f : Flags) : Keeps (setFlags f) :=
  keeps_modify fun _ => keep_same rfl rfl rfl rfl rfl rfl

@[simp] theorem keeps_setSeg (r : SReg) (v : SegReg) : Keeps (setSeg r v) :=
  keeps_modify fun _ => keep_same rfl rfl rfl rfl rfl rfl

@[simp] theorem keeps_setSp (v : Word) : Keeps (setSp v) :=
  keeps_modify fun _ => keep_same rfl rfl rfl rfl rfl rfl

@[simp] theorem keeps_loadSp (b : Bool) (v : Word) : Keeps (loadSp b v) :=
  keeps_modify fun _ => keep_same rfl rfl rfl rfl rfl rfl

@[simp] theorem keeps_setEip (v : Word) : Keeps (setEip v) :=
  keeps_modify fun _ => keep_same rfl rfl rfl rfl rfl rfl

@[simp] theorem keeps_writeReg (z : Size) (r : Reg) (v : z.Val) : Keeps (writeReg z r v) :=
  keeps_modify fun _ => keep_same rfl rfl rfl rfl rfl rfl

@[simp] theorem keeps_readReg (z : Size) (r : Reg) : Keeps (readReg z r) := keeps_gets _

@[simp] theorem keeps_freeBit : Keeps freeBit := ⟨fun _ => keep_same rfl rfl rfl rfl rfl rfl⟩

@[simp] theorem keeps_freeBits (n : Nat) : Keeps (freeBits n) :=
  ⟨fun _ => keep_same rfl rfl rfl rfl rfl rfl⟩

@[simp] theorem keeps_freeStatus : Keeps freeStatus := ⟨fun _ => keep_same rfl rfl rfl rfl rfl rfl⟩

@[simp] theorem keeps_physRead (a : BitVec 24) : Keeps (physRead a) := by
  constructor
  intro s
  simp only [physRead]
  cases regionAt s.regions a.toNat
  · exact keep_refl s
  · exact keep_refl s
  · exact keep_same rfl rfl rfl rfl rfl rfl

@[simp] theorem keeps_physSetBits (a : BitVec 24) (v : Byte) : Keeps (physSetBits a v) :=
  keeps_modify fun _ => keep_event rfl rfl rfl rfl rfl rfl a.isLt

@[simp] theorem keeps_physReadAll (as : List (BitVec 24)) : Keeps (physReadAll as) := by
  induction as with
  | nil => exact keeps_pure _
  | cons a rest ih => exact keeps_bind (keeps_physRead a) fun _ => keeps_bind ih fun _ => keeps_pure _

@[simp] theorem keeps_physWriteAll (as : List (BitVec 24)) (bs : List Byte) : Keeps (physWriteAll as bs) :=
  keeps_modify fun _ => keep_event rfl rfl rfl rfl rfl rfl (cells_inRange as bs)

@[simp] theorem keeps_readEntry (a : BitVec 24) : Keeps (readEntry a) := by simp [readEntry]

@[simp] theorem keeps_pageFault {α : Type} (lin : Word) (acc : Access) (p : Bool) :
    Keeps (pageFault lin acc p : M α) :=
  keeps_bind (keeps_modify fun _ => keep_same rfl rfl rfl rfl rfl rfl) fun _ => keeps_raise _

theorem keep_fillTlb (fill : Option (BitVec 2)) (page : BitVec 20) (frame : BitVec 12) (u w d : Bool) (s : State) :
    Keep s (fillTlb fill page frame u w d s) := by
  cases fill with
  | none => exact keep_refl s
  | some b => exact keep_same rfl rfl rfl rfl rfl rfl

@[simp] theorem keeps_fillTlb (fill : Option (BitVec 2)) (page : BitVec 20) (frame : BitVec 12) (u w d : Bool) :
    Keeps (modify (fillTlb fill page frame u w d) : M Unit) := keeps_modify fun s => keep_fillTlb _ _ _ _ _ _ s

@[simp] theorem keeps_nextChoice : Keeps nextChoice := by
  constructor
  intro s
  simp only [nextChoice]
  cases s.now.pages with
  | nil => exact keep_refl s
  | cons c rest => exact keep_same rfl rfl rfl rfl rfl rfl

@[simp] theorem keeps_walk (lin : Word) (acc : Access) (c : PageChoice) : Keeps (walk lin acc c) := by
  unfold walk
  repeat' first | (simp; done) | refine keeps_bind ?_ fun _ => ?_ | refine keeps_ite ?_ ?_

@[simp] theorem keeps_translate (lin : Word) (acc : Access) : Keeps (translate lin acc) := by
  unfold translate
  refine keeps_bind keeps_get fun s => keeps_ite ?_ (keeps_pure _)
  refine keeps_bind keeps_nextChoice fun c => keeps_bind keeps_get fun s => ?_
  cases tlbLookup s c.use (pageOf lin) <;> simp

@[simp] theorem keeps_touchPage (page : BitVec 20) (acc : Access) (t : Trans) : Keeps (touchPage page acc t) := by
  cases t with
  | direct f => exact keeps_pure _
  | walked frame pa ta user writable dirty c =>
    simp [touchPage]
  | cached e c =>
    unfold touchPage
    refine keeps_ite ?_ (keeps_pure _)
    refine keeps_bind keeps_get fun s => keeps_bind (by simp) fun _ => ?_
    refine keeps_ite (keeps_bind (by simp) fun _ => ?_) ?_ <;>
      refine keeps_bind (by simp) fun _ => ?_ <;>
      exact keeps_modify fun _ => keep_same rfl rfl rfl rfl rfl rfl

@[simp] theorem keeps_translateBoth (lin : Word) (n : Nat) (acc : Access) : Keeps (translateBoth lin n acc) := by
  unfold translateBoth
  repeat' first | (simp; done) | refine keeps_bind ?_ fun _ => ?_ | refine keeps_ite ?_ ?_

@[simp] theorem keeps_physFrom (lin : Word) (n : Nat) (acc : Access) (ts : Trans × Trans) :
    Keeps (physFrom lin n acc ts) := by
  unfold physFrom
  repeat' first | (simp; done) | refine keeps_bind ?_ fun _ => ?_ | refine keeps_ite ?_ ?_

@[simp] theorem keeps_physOf (lin : Word) (n : Nat) (acc : Access) : Keeps (physOf lin n acc) := by simp [physOf]

@[simp] theorem keeps_linRead (lin : Word) (n : Nat) (acc : Access) : Keeps (linRead lin n acc) := by simp [linRead]

@[simp] theorem keeps_linWrite (lin : Word) (n : Nat) (v : Word) (acc : Access) : Keeps (linWrite lin n v acc) := by
  simp [linWrite]

@[simp] theorem keeps_sysRead (lin : Word) (n : Nat) : Keeps (sysRead lin n) := keeps_linRead ..

@[simp] theorem keeps_sysWrite (lin : Word) (n : Nat) (v : Word) : Keeps (sysWrite lin n v) := keeps_linWrite ..

@[simp] theorem keeps_sysSetBits (lin : Word) (mask : Byte) : Keeps (sysSetBits lin mask) := by
  unfold sysSetBits
  refine keeps_bind (by simp) fun as => ?_
  cases as <;> simp

@[simp] theorem keeps_recordHits (lin : Word) (n : Nat) (w : Bool) : Keeps (recordHits lin n w) := by
  exact keeps_modify fun s => keep_same rfl rfl rfl rfl rfl rfl

@[simp] theorem keeps_dataPhys (r : SReg) (off : Word) (n : Nat) (w : Bool) : Keeps (dataPhys r off n w) := by
  unfold dataPhys
  repeat' first | (simp; done) | refine keeps_bind ?_ fun _ => ?_ | refine keeps_ite ?_ ?_

@[simp] theorem keeps_readMem (r : SReg) (off : Word) (n : Nat) : Keeps (readMem r off n) := by simp [readMem]

@[simp] theorem keeps_writeMem (r : SReg) (off : Word) (n : Nat) (v : Word) : Keeps (writeMem r off n v) := by
  simp [writeMem]

@[simp] theorem keeps_probeMem (r : SReg) (off : Word) (n : Nat) : Keeps (probeMem r off n) := by simp [probeMem]

@[simp] theorem keeps_writeProbed (r : SReg) (off : Word) (n : Nat) (ts : Trans × Trans) (v : Word) :
    Keeps (writeProbed r off n ts v) := by
  unfold writeProbed
  repeat' first | (simp; done) | refine keeps_bind ?_ fun _ => ?_

@[simp] theorem keeps_readDesc (lin : Word) : Keeps (readDesc lin) := by simp [readDesc]

@[simp] theorem keeps_fetchDesc (sel : Half) (e : Exc) : Keeps (fetchDesc sel e) := by
  unfold fetchDesc
  refine keeps_bind keeps_get fun s => ?_
  cases descAddr s sel <;> simp

@[simp] theorem keeps_markAccessed (lin : Word) (d : Desc) : Keeps (markAccessed lin d) := by simp [markAccessed]

@[simp] theorem keeps_loadFromDesc (r : SReg) (sel : Half) (lin : Word) (d : Desc) : Keeps (loadFromDesc r sel lin d) := by
  simp [loadFromDesc]

@[simp] theorem keeps_loadSs (sel : Half) : Keeps (loadSs sel) := by
  unfold loadSs
  repeat' first | (simp; done) | refine keeps_bind ?_ fun _ => ?_ | refine keeps_ite ?_ ?_

@[simp] theorem keeps_loadData (r : SReg) (sel : Half) : Keeps (loadData r sel) := by
  unfold loadData
  repeat' first | (simp; done) | refine keeps_bind ?_ fun _ => ?_ | refine keeps_ite ?_ ?_

@[simp] theorem keeps_loadSeg (r : SReg) (sel : Half) : Keeps (loadSeg r sel) := by simp [loadSeg]

end Sys2Proof.Machine
end

