-- ==== Sys2Proof/Laws/KeepsOps.lean ====
section
/-! SUPPORT. What the stack, the task switch, the taking of an event and its delivery keep (see Laws/Keeps.lean). -/

namespace Sys2Proof.Machine

/-- A change of CR3 alone. -/
theorem keep_cr3 {s : State} {v : Word} (h : v &&& 0xFFF = 0) :
    Keep s { s with sys := { s.sys with cr3 := v } } := fun g =>
  ⟨⟨g.canonical, h, g.paging⟩, [], ⟨rfl, rfl, rfl, rfl, fun _ h => absurd h List.not_mem_nil⟩⟩

@[simp] theorem keeps_push (z : Size) (v : Word) : Keeps (push z v) := by
  simp [push]

@[simp] theorem keeps_pop (z : Size) : Keeps (pop z) := by
  unfold pop
  repeat' first | (simp; done) | refine keeps_bind ?_ fun _ => ?_

@[simp] theorem keeps_peekStack (z : Size) (k : Nat) : Keeps (peekStack z k) := by simp [peekStack]

@[simp] theorem keeps_needRoom (n : Nat) : Keeps (needRoom n) := by simp [needRoom]

@[simp] theorem keeps_needTop (k n : Nat) : Keeps (needTop k n) := by simp [needTop]

@[simp] theorem keeps_padSel (n : Nat) (sel : Half) : Keeps (padSel n sel) := by simp [padSel]

@[simp] theorem keeps_eflagsImage (f : Flags) : Keeps (eflagsImage f) := by simp [eflagsImage]

@[simp] theorem keeps_pushSel (z : Size) (sel : Half) : Keeps (pushSel z sel) := by simp [pushSel]

@[simp] theorem keeps_pushReturn (z : Size) (f : Word) (cs : Half) (eip : Word) : Keeps (pushReturn z f cs eip) := by
  simp [pushReturn]

@[simp] theorem keeps_pushCode (z : Size) (c : Option ErrCode) : Keeps (pushCode z c) := by
  unfold pushCode
  rcases c with _ | _ | _ <;> simp

@[simp] theorem keeps_effAddr (e : Ea) : Keeps (effAddr e) := by simp [effAddr]

@[simp] theorem keeps_place (rm : Rm) : Keeps (place rm) := by
  cases rm <;> simp [place, eaPlace]

@[simp] theorem keeps_moffsPlace (p : Moffs) : Keeps (moffsPlace p) := by simp [moffsPlace]

@[simp] theorem keeps_placeRead (z : Size) (p : Place) : Keeps (p.read z) := by
  cases p <;> simp [Place.read]

@[simp] theorem keeps_placeWrite (z : Size) (p : Place) (v : z.Val) : Keeps (p.write z v) := by
  cases p <;> simp [Place.write]

@[simp] theorem keeps_placeReadRmw (z : Size) (p : Place) : Keeps (p.readRmw z) := by
  cases p <;> simp [Place.readRmw]

@[simp] theorem keeps_readRm (z : Size) (rm : Rm) : Keeps (readRm z rm) := by simp [readRm]

@[simp] theorem keeps_writeRm (z : Size) (rm : Rm) (v : z.Val) : Keeps (writeRm z rm v) := by simp [writeRm]

@[simp] theorem keeps_addrReg (a : ASize) (r : Reg) : Keeps (addrReg a r) := by simp [addrReg]

@[simp] theorem keeps_setAddrReg (a : ASize) (r : Reg) (v : Word) : Keeps (setAddrReg a r v) := by simp [setAddrReg]

/-! The task switch. -/

@[simp] theorem keeps_setBusy (lin : Word) (b : Bool) : Keeps (setBusy lin b) := by simp [setBusy]

@[simp] theorem keeps_saveRegs (lin : Word) (n : Nat) (rs : List Reg) : Keeps (saveRegs lin n rs) := by
  induction rs generalizing lin with
  | nil => exact keeps_pure _
  | cons r rest ih =>
    exact keeps_bind keeps_get fun s => keeps_bind (keeps_sysWrite ..) fun _ => ih _

@[simp] theorem keeps_saveSels (lin : Word) (n : Nat) (rs : List SReg) : Keeps (saveSels lin n rs) := by
  induction rs generalizing lin with
  | nil => exact keeps_pure _
  | cons r rest ih =>
    exact keeps_bind keeps_get fun s => keeps_bind (keeps_padSel ..) fun _ => keeps_bind (keeps_sysWrite ..) fun _ => ih _

@[simp] theorem keeps_saveTask (f : Flags) (ext : Bool) : Keeps (saveTask f ext) := by
  unfold saveTask
  repeat' first | (simp; done) | refine keeps_bind ?_ fun _ => ?_ | refine keeps_ite ?_ ?_

@[simp] theorem keeps_clearOldBusy (ext : Bool) : Keeps (clearOldBusy ext) := by
  unfold clearOldBusy
  refine keeps_bind keeps_get fun s => ?_
  cases descAddr s (s.sys.tr.sel &&& 0xFFF8) <;> simp

@[simp] theorem keeps_readTask32 (base : Word) : Keeps (readTask32 base) := by
  unfold readTask32
  repeat' first | (simp; done) | refine keeps_bind ?_ fun _ => ?_

@[simp] theorem keeps_readHalfReg (lin : Word) : Keeps (readHalfReg lin) := by simp [readHalfReg]

@[simp] theorem keeps_readTask16 (base : Word) : Keeps (readTask16 base) := by
  unfold readTask16
  repeat' first | (simp; done) | refine keeps_bind ?_ fun _ => ?_

theorem keep_flushTlb (s : State) : Keep s (flushTlb s) := keep_same rfl rfl rfl rfl rfl rfl

theorem aligned_and (v : Word) : v &&& 0xFFFFF000 &&& 0xFFF = 0 := by
  rw [BitVec.and_assoc, show ((0xFFFFF000 : Word) &&& 0xFFF) = 0 by decide]
  exact BitVec.and_zero

@[simp] theorem keeps_switchCr3 (base : Word) : Keeps (switchCr3 base) := by
  unfold switchCr3
  refine keeps_bind keeps_get fun s => keeps_ite ?_ (keeps_pure _)
  refine keeps_bind (keeps_sysRead ..) fun v => keeps_ite ?_ (keeps_pure _)
  exact keeps_modify fun s => keep_trans (keep_cr3 (aligned_and v)) (keep_flushTlb _)

@[simp] theorem keeps_readTask (d : Desc) : Keeps (readTask d) := by
  simp [readTask]

theorem keep_scrambleTask (s : State) : Keep s (scrambleTask s) :=
  keep_same rfl rfl rfl rfl rfl rfl

@[simp] theorem keeps_installTask (k : TaskKind) (t : TaskImage) : Keeps (modify (installTask k t) : M Unit) :=
  keeps_modify fun _ => keep_same rfl rfl rfl rfl rfl rfl

@[simp] theorem keeps_onExc {α : Type} {m : M α} (hm : Keeps m) : Keeps (onExc m scrambleTask) := by
  constructor
  intro s
  have h := hm.run s
  revert h
  simp only [onExc]
  cases m s with
  | ok a t => exact id
  | error e t =>
    cases e with
    | exc e => exact fun h => keep_trans h (keep_scrambleTask t)
    | refuse r => exact id

@[simp] theorem keeps_switchLdt (sel : Half) (ext : Bool) : Keeps (switchLdt sel ext) := by
  unfold switchLdt
  refine keeps_ite (keeps_pure _) ?_
  refine keeps_bind (by simp) fun _ => keeps_bind (by simp) fun _ => keeps_bind (by simp) fun _ => ?_
  exact keeps_modify fun _ => keep_same rfl rfl rfl rfl rfl rfl

@[simp] theorem keeps_switchCs (sel : Half) (ext : Bool) : Keeps (switchCs sel ext) := by
  unfold switchCs
  repeat' first | (simp; done) | exact keeps_modify fun _ => keep_same rfl rfl rfl rfl rfl rfl | refine keeps_bind ?_ fun _ => ?_

@[simp] theorem keeps_switchSs (sel : Half) (ext : Bool) : Keeps (switchSs sel ext) := by
  unfold switchSs
  repeat' first | (simp; done) | refine keeps_bind ?_ fun _ => ?_

@[simp] theorem keeps_switchData (ext : Bool) (r : SReg) (sel : Half) : Keeps (switchData ext r sel) := by
  unfold switchData
  repeat' first | (simp; done) | refine keeps_bind ?_ fun _ => ?_ | refine keeps_ite ?_ ?_

@[simp] theorem keeps_loadTaskSegs (t : TaskImage) (ext : Bool) : Keeps (loadTaskSegs t ext) := by
  unfold loadTaskSegs
  refine keeps_bind (by simp) fun _ => keeps_bind (by simp) fun s => keeps_ite ?_ ?_
  · refine keeps_modify fun s => ?_
    exact keep_same rfl rfl rfl rfl rfl rfl
  · repeat' first | (simp; done) | refine keeps_bind ?_ fun _ => ?_

@[simp] theorem keeps_commitTask (sel : Half) (d : Desc) : Keeps (commitTask sel d) :=
  keeps_modify fun _ g => ⟨⟨g.canonical, g.directory, g.paging⟩, [],
    ⟨rfl, rfl, rfl, rfl, fun _ h => absurd h List.not_mem_nil⟩⟩

@[simp] theorem keeps_raiseTrap (d : Desc) : Keeps (raiseTrap d) := by
  unfold raiseTrap
  refine keeps_ite (keeps_bind (by simp) fun t => keeps_ite (keeps_modify fun s => ?_) (by simp)) (by simp)
  exact keep_same rfl rfl rfl rfl rfl rfl

@[simp] theorem keeps_switchTask (k : TaskKind) (sel : Half) (lin : Word) (d : Desc) (rf ext : Bool) :
    Keeps (switchTask k sel lin d rf ext) := by
  unfold switchTask
  repeat' first
    | (simp; done)
    | refine keeps_bind ?_ fun _ => ?_
    | refine keeps_ite ?_ ?_

@[simp] theorem keeps_checkNewEip : Keeps checkNewEip := by simp [checkNewEip]

@[simp] theorem keeps_innerStack (l : BitVec 2) (ext : Bool) : Keeps (innerStack l ext) := by
  unfold innerStack
  repeat' first | (simp; done) | refine keeps_bind ?_ fun _ => ?_ | refine keeps_ite ?_ ?_

/-! Taking an event. -/

@[simp] theorem keeps_enterReal (ev : Event) : Keeps (enterReal ev) := by
  unfold enterReal
  repeat' first | (simp; done) | refine keeps_bind ?_ fun _ => ?_

@[simp] theorem keeps_setCpl (level : BitVec 2) : Keeps (setCpl level) :=
  keeps_modify fun _ => keep_same rfl rfl rfl rfl rfl rfl

@[simp] theorem keeps_loadGateTarget (sel : Half) (l : BitVec 2) (lin : Word) (d : Desc) (off : Word) :
    Keeps (loadGateTarget sel l lin d off) := by
  unfold loadGateTarget
  repeat' first | (simp; done) | refine keeps_bind ?_ fun _ => ?_

@[simp] theorem keeps_checkInnerSs (ss : Half) (l : BitVec 2) (ext : Bool) : Keeps (checkInnerSs ss l ext) := by
  unfold checkInnerSs
  repeat' first | (simp; done) | refine keeps_bind ?_ fun _ => ?_

@[simp] theorem keeps_enterSame (ev : Event) (gate : Desc) (sel : Half) (lin : Word) (d : Desc) (v : Word) :
    Keeps (enterSame ev gate sel lin d v) := by
  unfold enterSame
  repeat' first | (simp; done) | refine keeps_bind ?_ fun _ => ?_

@[simp] theorem keeps_enterInner (ev : Event) (gate : Desc) (sel : Half) (lin : Word) (d : Desc) (v : Word) :
    Keeps (enterInner ev gate sel lin d v) := by
  unfold enterInner
  repeat' first | (simp; done) | refine keeps_bind ?_ fun _ => ?_

@[simp] theorem keeps_enterV86 (ev : Event) (gate : Desc) (sel : Half) (lin : Word) (d : Desc) (v : Word) :
    Keeps (enterV86 ev gate sel lin d v) := by
  unfold enterV86
  repeat' first | (simp; done) | refine keeps_bind ?_ fun _ => ?_

@[simp] theorem keeps_enterCode (ev : Event) (gate : Desc) : Keeps (enterCode ev gate) := by
  unfold enterCode
  repeat' first | (simp; done) | refine keeps_bind ?_ fun _ => ?_ | refine keeps_ite ?_ ?_

@[simp] theorem keeps_enterTask (ev : Event) (gate : Desc) : Keeps (enterTask ev gate) := by
  unfold enterTask
  repeat' first | (simp; done) | exact keeps_modify fun _ => keep_same rfl rfl rfl rfl rfl rfl | refine keeps_bind ?_ fun _ => ?_ | refine keeps_ite ?_ ?_

@[simp] theorem keeps_enterGate (ev : Event) : Keeps (enterGate ev) := by
  unfold enterGate
  repeat' first | (simp; done) | refine keeps_bind ?_ fun _ => ?_ | refine keeps_ite ?_ ?_

@[simp] theorem keeps_enter (ev : Event) : Keeps (enter ev) := by
  unfold enter
  refine keeps_bind (by simp) fun s => keeps_ite ?_ ?_ <;>
    exact keeps_bind (by simp) fun _ => keeps_modify fun _ => keep_same rfl rfl rfl rfl rfl rfl

/-! Delivery, and the end of an instruction. -/

theorem keep_markPoint (s : State) : Keep s (markPoint s) := keep_same rfl rfl rfl rfl rfl rfl

theorem keep_currentMode (s : State) : Keep s (currentMode s) := keep_same rfl rfl rfl rfl rfl rfl

theorem keep_enterShutdown (s : State) : Keep s (enterShutdown s) := keep_event rfl rfl rfl rfl rfl rfl trivial

/-- The events between two states are the ones put on record. -/
theorem newEvents_eq {s t : State} {l : List IoEvent} (h : t.io = l ++ s.io) : newEvents s t = l := by
  unfold newEvents
  rw [h, List.length_append, Nat.add_sub_cancel, List.take_left']
  rfl

/-- The state a fault leaves. -/
theorem keep_afterExc {before after : State} (h : Keep before after) : Keep before (afterExc before after) := by
  intro g
  obtain ⟨ga, l, r⟩ := h g
  unfold afterExc
  split
  · exact ⟨⟨ga.canonical, ga.directory, ga.paging⟩, l, ⟨r.map, r.inputs, r.io, r.mem, r.range⟩⟩
  · have hk : ∀ e ∈ keptEvents before after, e.inRange := by
      intro e he
      unfold keptEvents at he
      rw [newEvents_eq r.io] at he
      exact r.range e (List.mem_filter.mp he).1
    have k : OnRecord before (rollback before after) (keptEvents before after) := ⟨rfl, rfl, rfl, rfl, hk⟩
    exact ⟨⟨onRecord_wf k g.canonical, g.directory, g.paging⟩, _, k⟩

/-- What a step's outcome keeps. -/
def OutKeep (s : State) (o : StepOut) : Prop := ∀ t, o = .next t → Keep s t

theorem outKeep_next {s t : State} (h : Keep s t) : OutKeep s (.next t) := by
  intro u e
  cases e
  exact h

theorem outKeep_refused {s : State} (r : Refusal) : OutKeep s (.refused r) := fun _ e => nomatch e

theorem outKeep_trans {s t : State} {o : StepOut} (h : Keep s t) (h' : OutKeep t o) : OutKeep s o := fun u e =>
  keep_trans h (h' u e)

theorem keep_deliverN (fuel : Nat) (ev : Event) (s : State) : OutKeep s (deliverN fuel ev s) := by
  induction fuel generalizing ev s with
  | zero => exact outKeep_next (keep_enterShutdown s)
  | succ n ih =>
    have h := (keeps_enter ev).run (markPoint (currentMode s))
    refine outKeep_trans (keep_trans (keep_currentMode s) (keep_markPoint _)) ?_
    unfold deliverN
    simp only
    revert h
    cases enter ev (markPoint (currentMode s)) with
    | ok a t => exact fun h => outKeep_next h
    | error e t =>
      intro h
      cases e with
      | refuse r => exact outKeep_refused r
      | exc e =>
        refine outKeep_trans (keep_afterExc h) ?_
        simp only
        cases escalate ev e with
        | none => exact outKeep_next (keep_enterShutdown _)
        | some ev' => exact ih ev' _

theorem keep_deliver (ev : Event) (s : State) : OutKeep s (deliver ev s) := keep_deliverN 6 ev s

theorem keep_deliverExc {e : Exc} {before after : State} (h : Keep before after) :
    OutKeep before (deliverExc e before after) := by
  unfold deliverExc
  have h1 : Keep before { before with eip := before.cur.start } := keep_same rfl rfl rfl rfl rfl rfl
  have h2 : Keep { before with eip := before.cur.start } after :=
    keep_trans (keep_same (s := { before with eip := before.cur.start }) (t := before) rfl rfl rfl rfl rfl rfl) h
  refine outKeep_trans h1 (outKeep_trans (keep_afterExc h2) ?_)
  refine outKeep_trans ?_ (keep_deliver _ _)
  exact keep_same rfl rfl rfl rfl rfl rfl

theorem keep_runBody {body : M Unit} (h : Keeps body) (s : State) : OutKeep s (runBody body s) := by
  have k := h.run (markPoint s)
  refine outKeep_trans (keep_markPoint s) ?_
  unfold runBody
  revert k
  cases body (markPoint s) with
  | ok a t => exact fun k => outKeep_next (keep_trans k (keep_same rfl rfl rfl rfl rfl rfl))
  | error e t =>
    intro k
    cases e with
    | refuse r => exact outKeep_refused r
    | exc e => exact keep_deliverExc k

theorem keep_unlocked {out : State → StepOut} {s : State} (h : OutKeep s (out s)) : OutKeep s (unlocked out s) := by
  unfold unlocked
  split
  · refine outKeep_trans (keep_markPoint s) (keep_deliverExc ?_)
    exact keep_same (s := markPoint s) (t := s) rfl rfl rfl rfl rfl rfl
  · exact h

theorem keep_unrepeated {out : State → StepOut} {s : State} (h : OutKeep s (out s)) : OutKeep s (unrepeated out s) := by
  unfold unrepeated
  split
  · exact outKeep_refused _
  · exact h

theorem keep_stringInstr {body : M Unit} (h : Keeps body) (s : State) : OutKeep s (stringInstr body s) :=
  keep_unlocked (keep_runBody h s)

theorem keep_instr {body : M Unit} (h : Keeps body) (s : State) : OutKeep s (instr body s) :=
  keep_unlocked (keep_unrepeated (keep_runBody h s))

theorem keep_lockable {mem : Bool} {body : M Unit} (h : Keeps body) (s : State) :
    OutKeep s (lockable mem body s) := by
  unfold lockable
  split
  · exact keep_unrepeated (keep_runBody h s)
  · exact keep_instr h s

/-! The return from an event. -/

@[simp] theorem keeps_keepRf : Keeps keepRf :=
  keeps_modify fun _ => keep_same rfl rfl rfl rfl rfl rfl

@[simp] theorem keeps_checkReturnCs (sel : Half) : Keeps (checkReturnCs sel) := by
  unfold checkReturnCs
  repeat' first | (simp; done) | refine keeps_bind ?_ fun _ => ?_

@[simp] theorem keeps_checkReturnSs (sel : Half) (l : BitVec 2) : Keeps (checkReturnSs sel l) := by
  unfold checkReturnSs
  repeat' first | (simp; done) | refine keeps_bind ?_ fun _ => ?_

@[simp] theorem keeps_nullOuter (l : BitVec 2) : Keeps (nullOuter l) :=
  keeps_modify fun _ => keep_same rfl rfl rfl rfl rfl rfl

@[simp] theorem keeps_outerEsp (z : Size) (sd : Desc) (v : Word) : Keeps (outerEsp z sd v) := by
  unfold outerEsp
  repeat' first | (simp; done) | refine keeps_bind ?_ fun _ => ?_ | refine keeps_ite ?_ ?_

@[simp] theorem keeps_retEsp (z : Size) (sd : Desc) (v : Word) : Keeps (retEsp z sd v) := by
  unfold retEsp
  repeat' first | (simp; done) | refine keeps_bind ?_ fun _ => ?_ | refine keeps_ite ?_ ?_

@[simp] theorem keeps_returnSel (k : Nat) : Keeps (returnSel k) := by simp [returnSel]

@[simp] theorem keeps_checkTarget (d : Desc) (eip : Word) : Keeps (checkTarget d eip) := by simp [checkTarget]

@[simp] theorem keeps_iretReal (z : Size) : Keeps (iretReal z) := by
  unfold iretReal
  repeat' first | (simp; done) | refine keeps_bind ?_ fun _ => ?_

@[simp] theorem keeps_iretV86 (z : Size) : Keeps (iretV86 z) := by
  unfold iretV86
  repeat' first | (simp; done) | refine keeps_bind ?_ fun _ => ?_

@[simp] theorem keeps_iretTask : Keeps iretTask := by
  unfold iretTask
  repeat' first | (simp; done) | refine keeps_bind ?_ fun _ => ?_

@[simp] theorem keeps_iretToV86 : Keeps iretToV86 := by
  unfold iretToV86
  repeat' first | (simp; done) | refine keeps_bind ?_ fun _ => ?_
  refine keeps_modify fun s => ?_
  exact keep_same rfl rfl rfl rfl rfl rfl

@[simp] theorem keeps_iretSame (z : Size) (sel : Half) : Keeps (iretSame z sel) := by
  unfold iretSame
  repeat' first | (simp; done) | refine keeps_bind ?_ fun _ => ?_

@[simp] theorem keeps_iretOuter (z : Size) (sel : Half) : Keeps (iretOuter z sel) := by
  unfold iretOuter
  repeat' first | (simp; done) | exact keeps_modify fun _ => keep_same rfl rfl rfl rfl rfl rfl | refine keeps_bind ?_ fun _ => ?_

@[simp] theorem keeps_iretStack (z : Size) : Keeps (iretStack z) := by
  unfold iretStack
  repeat' first | (simp; done) | refine keeps_bind ?_ fun _ => ?_ | refine keeps_ite ?_ ?_

@[simp] theorem keeps_iretOp (z : Size) : Keeps (iretOp z) := by
  unfold iretOp
  repeat' first
    | (simp; done)
    | exact keeps_modify fun _ => keep_same rfl rfl rfl rfl rfl rfl
    | refine keeps_bind ?_ fun _ => ?_
    | refine keeps_ite ?_ ?_

end Sys2Proof.Machine
end

