-- ==== Sys2Proof/Laws/KeepsBodies.lean ====
section
/-! SUPPORT. What the shared bodies of the instructions keep (see Laws/Keeps.lean). -/

namespace Sys2Proof.Machine

@[simp] theorem keeps_aluTo (op : AluOp) (z : Size) (p : Place) (b : z.Val) : Keeps (aluTo op z p b) := by
  unfold aluTo
  repeat' first | (simp; done) | refine keeps_bind ?_ fun _ => ?_ | refine keeps_ite ?_ ?_

@[simp] theorem keeps_aluBody (op : AluOp) (f : AluForm) : Keeps (aluBody op f) := by
  unfold aluBody
  cases f <;> repeat' first | (simp; done) | exact keeps_readReg .. | exact keeps_readRm .. | refine keeps_bind ?_ fun _ => ?_

@[simp] theorem keeps_incTo (z : Size) (p : Place) : Keeps (incTo z p) := by
  unfold incTo
  repeat' first | (simp; done) | refine keeps_bind ?_ fun _ => ?_

@[simp] theorem keeps_decTo (z : Size) (p : Place) : Keeps (decTo z p) := by
  unfold decTo
  repeat' first | (simp; done) | refine keeps_bind ?_ fun _ => ?_

@[simp] theorem keeps_negTo (z : Size) (p : Place) : Keeps (negTo z p) := by
  unfold negTo
  repeat' first | (simp; done) | refine keeps_bind ?_ fun _ => ?_

@[simp] theorem keeps_notTo (z : Size) (p : Place) : Keeps (notTo z p) := by
  unfold notTo
  repeat' first | (simp; done) | refine keeps_bind ?_ fun _ => ?_

@[simp] theorem keeps_xchgTo (z : Size) (p : Place) (r : Reg) : Keeps (xchgTo z p r) := by
  unfold xchgTo
  repeat' first | (simp; done) | refine keeps_bind ?_ fun _ => ?_

@[simp] theorem keeps_readPair (z : Size) : Keeps (readPair z) := by
  unfold readPair
  cases z <;> repeat' first | (simp; done) | exact keeps_readReg .. | refine keeps_bind ?_ fun _ => ?_

@[simp] theorem keeps_writePair (z : Size) (hi lo : z.Val) : Keeps (writePair z hi lo) := by
  unfold writePair
  cases z <;> repeat' first | (simp; done) | exact keeps_writeReg .. | refine keeps_bind ?_ fun _ => ?_

@[simp] theorem keeps_mulBy (z : Size) (b : z.Val) : Keeps (mulBy z b) := by
  unfold mulBy
  repeat' first | (simp; done) | refine keeps_bind ?_ fun _ => ?_

@[simp] theorem keeps_imulBy (z : Size) (b : z.Val) : Keeps (imulBy z b) := by
  unfold imulBy
  repeat' first | (simp; done) | refine keeps_bind ?_ fun _ => ?_

@[simp] theorem keeps_imulTo (z : Size) (r : Reg) (a b : z.Val) : Keeps (imulTo z r a b) := by
  unfold imulTo
  repeat' first | (simp; done) | refine keeps_bind ?_ fun _ => ?_

@[simp] theorem keeps_divBy (z : Size) (b : z.Val) : Keeps (divBy z b) := by
  unfold divBy undefineFlags
  repeat' first | (simp; done) | refine keeps_bind ?_ fun _ => ?_

@[simp] theorem keeps_idivBy (z : Size) (b : z.Val) : Keeps (idivBy z b) := by
  unfold idivBy undefineFlags
  repeat' first | (simp; done) | refine keeps_bind ?_ fun _ => ?_

/-- An instruction with a body that keeps everything. -/
theorem keep_body {body : M Unit} (h : Keeps body) (s : State) : OutKeep s (instr body s) := keep_instr h s

/-- An instruction on a place that keeps everything. -/
theorem keep_unary {f : Place → M Unit} (h : ∀ p, Keeps (f p)) (rm : Rm) (s : State) : OutKeep s (unary f rm s) :=
  keep_lockable (keeps_bind (by simp) h) s

/-- An instruction that reads its r/m operand and keeps everything. -/
theorem keep_useRm {z : Size} {rm : Rm} {f : z.Val → M Unit} (h : ∀ v, Keeps (f v)) (s : State) :
    OutKeep s (useRm z rm f s) := keep_body (keeps_bind (by simp) h) s

@[simp] theorem keeps_testTo (z : Size) (p : Place) (b : z.Val) : Keeps (testTo z p b) := by
  unfold testTo
  repeat' first | (simp; done) | refine keeps_bind ?_ fun _ => ?_

@[simp] theorem keeps_bitTo (op : BitOp) (z : Size) (p : Place) (k : Nat) : Keeps (bitTo op z p k) := by
  unfold bitTo
  repeat' first | (simp; done) | refine keeps_bind ?_ fun _ => ?_ | refine keeps_ite ?_ ?_

@[simp] theorem keeps_bitPlace (z : Size) (rm : Rm) (off : z.Val) : Keeps (bitPlace z rm off) := by
  cases rm <;> simp [bitPlace]

@[simp] theorem keeps_shiftTo (op : ShiftOp) (z : Size) (p : Place) (c : Byte) : Keeps (shiftTo op z p c) := by
  unfold shiftTo
  repeat' first | (simp; done) | refine keeps_bind ?_ fun _ => ?_ | refine keeps_ite ?_ ?_

@[simp] theorem keeps_shiftBody (op : ShiftOp) (f : ShiftForm) : Keeps (shiftBody op f) := by
  unfold shiftBody
  cases f <;> repeat' first | (simp; done) | exact keeps_readReg .. | refine keeps_bind ?_ fun _ => ?_

@[simp] theorem keeps_doubleTo (l : Bool) (z : Size) (rm : Rm) (r : Reg) {c : M Byte} (hc : Keeps c) :
    Keeps (doubleTo l z rm r c) := by
  unfold doubleTo
  repeat' first | (simp; done) | exact hc | refine keeps_bind ?_ fun _ => ?_ | refine keeps_ite ?_ ?_

@[simp] theorem keeps_storeWord (o : OSize) (rm : Rm) {v : M Half} (hv : Keeps v) : Keeps (storeWord o rm v) := by
  unfold storeWord
  refine keeps_bind (by simp) fun p => keeps_bind hv fun x => ?_
  cases p <;> cases o <;> simp

@[simp] theorem keeps_inhibitAfter (sr : SReg) : Keeps (inhibitAfter sr) :=
  keeps_ite (keeps_modify fun _ => keep_same rfl rfl rfl rfl rfl rfl) (keeps_pure _)

@[simp] theorem keeps_readFarPtr (z : Size) (ea : Ea) : Keeps (readFarPtr z ea) := by
  unfold readFarPtr
  repeat' first | (simp; done) | refine keeps_bind ?_ fun _ => ?_

@[simp] theorem keeps_pushAll (z : Size) (vs : List Word) : Keeps (pushAll z vs) := by
  induction vs with
  | nil => exact keeps_pure _
  | cons v rest ih => exact keeps_bind (keeps_push z v) fun _ => ih

@[simp] theorem keeps_pushaBody (z : Size) : Keeps (pushaBody z) := by simp [pushaBody]

@[simp] theorem keeps_popaBody (z : Size) : Keeps (popaBody z) := by
  unfold popaBody
  repeat' first | (simp; done) | refine keeps_bind ?_ fun _ => ?_

@[simp] theorem keeps_needIopl3 : Keeps needIopl3 := by simp [needIopl3]

@[simp] theorem keeps_popfBody (z : Size) : Keeps (popfBody z) := by
  unfold popfBody
  refine keeps_bind (by simp) fun _ => keeps_bind (by simp) fun v => keeps_bind ?_ fun _ => keeps_keepRf
  exact keeps_modify fun _ => keep_same rfl rfl rfl rfl rfl rfl

@[simp] theorem keeps_padFrame (z : Size) (a : ASize) (v : Word) : Keeps (padFrame z a v) := by
  simp [padFrame]

@[simp] theorem keeps_copyFrames (z : Size) (n : Nat) (bp : Word) : Keeps (copyFrames z n bp) := by
  induction n generalizing bp with
  | zero => exact keeps_pure _
  | succ n ih => exact keeps_bind (keeps_readMem ..) fun _ => keeps_bind (keeps_push ..) fun _ => ih _

@[simp] theorem keeps_escBody (rm : Rm) : Keeps (escBody rm) := by
  unfold escBody
  refine keeps_bind (by simp) fun s => keeps_bind (by simp) fun _ => keeps_bind (by simp) fun _ => ?_
  refine keeps_bind (by simp) fun p => ?_
  cases p <;> simp

@[simp] theorem keeps_checkNear (v : Word) : Keeps (checkNear v) := by simp [checkNear]

@[simp] theorem keeps_jumpNear (v : Word) : Keeps (jumpNear v) := by simp [jumpNear]

@[simp] theorem keeps_jumpRel (o : OSize) (d : Word) : Keeps (jumpRel o d) := by simp [jumpRel]

@[simp] theorem keeps_callNear (o : OSize) (v : Word) : Keeps (callNear o v) := by
  unfold callNear
  repeat' first | (simp; done) | refine keeps_bind ?_ fun _ => ?_

@[simp] theorem keeps_jccBody (c : Cond) (f : JccForm) : Keeps (jccBody c f) := by
  unfold jccBody
  refine keeps_bind (by simp) fun s => ?_
  cases f <;> simp

@[simp] theorem keeps_loopBody (o : OSize) (a : ASize) (d : BitVec 8) (ok : Bool → Bool) :
    Keeps (loopBody o a d ok) := by
  unfold loopBody
  repeat' first | (simp; done) | refine keeps_bind ?_ fun _ => ?_ | refine keeps_ite ?_ ?_

@[simp] theorem keeps_dropStack (n : BitVec 16) : Keeps (dropStack n) := by simp [dropStack]

@[simp] theorem keeps_retNearBody (o : OSize) (n : BitVec 16) : Keeps (retNearBody o n) := by
  unfold retNearBody
  repeat' first | (simp; done) | refine keeps_bind ?_ fun _ => ?_

@[simp] theorem keeps_loadCsReal (sel : Half) : Keeps (loadCsReal sel) :=
  keeps_modify fun _ => keep_same rfl rfl rfl rfl rfl rfl

@[simp] theorem keeps_checkFarCode (sel : Half) (d : Desc) (l : BitVec 2) : Keeps (checkFarCode sel d l) := by
  unfold checkFarCode
  repeat' first | (simp; done) | refine keeps_bind ?_ fun _ => ?_ | refine keeps_ite ?_ ?_

@[simp] theorem keeps_checkGateDpl (sel : Half) (d : Desc) (l : BitVec 2) : Keeps (checkGateDpl sel d l) := by
  simp [checkGateDpl]

@[simp] theorem keeps_gateTarget (d : Desc) : Keeps (gateTarget d) := by
  unfold gateTarget
  repeat' first | (simp; done) | refine keeps_bind ?_ fun _ => ?_

@[simp] theorem keeps_toTss (k : TaskKind) (sel : Half) (lin : Word) (d : Desc) : Keeps (toTss k sel lin d) := by
  unfold toTss
  repeat' first | (simp; done) | refine keeps_bind ?_ fun _ => ?_

@[simp] theorem keeps_viaTaskGate (k : TaskKind) (sel : Half) (d : Desc) (l : BitVec 2) :
    Keeps (viaTaskGate k sel d l) := by
  unfold viaTaskGate
  repeat' first | (simp; done) | refine keeps_bind ?_ fun _ => ?_

@[simp] theorem keeps_viaTss (k : TaskKind) (sel : Half) (lin : Word) (d : Desc) (l : BitVec 2) :
    Keeps (viaTss k sel lin d l) := by
  unfold viaTss
  repeat' first | (simp; done) | refine keeps_bind ?_ fun _ => ?_

@[simp] theorem keeps_jmpGate (sel : Half) (d : Desc) (l : BitVec 2) : Keeps (jmpGate sel d l) := by
  unfold jmpGate
  repeat' first | (simp; done) | refine keeps_bind ?_ fun _ => ?_ | refine keeps_ite ?_ ?_

@[simp] theorem keeps_jmpFarProtected (sel : Half) (off : Word) : Keeps (jmpFarProtected sel off) := by
  unfold jmpFarProtected
  refine keeps_bind (by simp) fun _ => keeps_bind (by simp) fun s => keeps_bind (by simp) fun ⟨lin, d⟩ => ?_
  simp only
  cases d.farTarget <;> simp only <;> repeat' first | (simp; done) | refine keeps_bind ?_ fun _ => ?_

@[simp] theorem keeps_jmpFar (sel : Half) (off : Word) : Keeps (jmpFar sel off) :=
  keeps_bind (by simp) fun s => keeps_ite (by simp) (by simp)

@[simp] theorem keeps_pushFarReturn (z : Size) : Keeps (pushFarReturn z) := by simp [pushFarReturn]

@[simp] theorem keeps_callSame (z : Size) (sel : Half) (lin : Word) (d : Desc) (off : Word) (l : BitVec 2) :
    Keeps (callSame z sel lin d off l) := by
  unfold callSame
  repeat' first | (simp; done) | refine keeps_bind ?_ fun _ => ?_

@[simp] theorem keeps_peekOld (old : State) (z : Size) (k : Nat) : Keeps (peekOld old z k) := by simp [peekOld]

@[simp] theorem keeps_copyParams (old : State) (z : Size) (n : Nat) : Keeps (copyParams old z n) := by
  induction n with
  | zero => exact keeps_pure _
  | succ n ih => exact keeps_bind (keeps_peekOld ..) fun _ => keeps_bind (keeps_push ..) fun _ => ih

@[simp] theorem keeps_callInner (z : Size) (g : Desc) (sel : Half) (lin : Word) (d : Desc) :
    Keeps (callInner z g sel lin d) := by
  unfold callInner
  repeat' first | (simp; done) | refine keeps_bind ?_ fun _ => ?_

@[simp] theorem keeps_callGate (sel : Half) (g : Desc) (l : BitVec 2) : Keeps (callGate sel g l) := by
  unfold callGate
  repeat' first | (simp; done) | refine keeps_bind ?_ fun _ => ?_ | refine keeps_ite ?_ ?_

@[simp] theorem keeps_callFarProtected (o : OSize) (sel : Half) (off : Word) :
    Keeps (callFarProtected o sel off) := by
  unfold callFarProtected
  refine keeps_bind (by simp) fun _ => keeps_bind (by simp) fun s => keeps_bind (by simp) fun ⟨lin, d⟩ => ?_
  simp only
  cases d.farTarget <;> simp only <;> repeat' first | (simp; done) | refine keeps_bind ?_ fun _ => ?_

@[simp] theorem keeps_callFar (o : OSize) (sel : Half) (off : Word) : Keeps (callFar o sel off) :=
  keeps_bind (by simp) fun s => keeps_ite (by simp) (by simp)

@[simp] theorem keeps_retFarSame (z : Size) (n : BitVec 16) (sel : Half) : Keeps (retFarSame z n sel) := by
  unfold retFarSame
  repeat' first | (simp; done) | refine keeps_bind ?_ fun _ => ?_

@[simp] theorem keeps_retFarOuter (z : Size) (n : BitVec 16) (sel : Half) : Keeps (retFarOuter z n sel) := by
  unfold retFarOuter
  repeat' first
    | (simp; done)
    | exact keeps_modify fun _ => keep_same rfl rfl rfl rfl rfl rfl
    | refine keeps_bind ?_ fun _ => ?_

@[simp] theorem keeps_retFarBody (o : OSize) (n : BitVec 16) : Keeps (retFarBody o n) := by
  unfold retFarBody
  repeat' first | (simp; done) | refine keeps_bind ?_ fun _ => ?_ | refine keeps_ite ?_ ?_

@[simp] theorem keeps_softInt (n : Byte) : Keeps (softInt n) :=
  keeps_bind (by simp) fun _ => keeps_modify fun _ => keep_same rfl rfl rfl rfl rfl rfl

/-! String instructions and ports. -/

@[simp] theorem keeps_advance (a : ASize) (z : Size) (r : Reg) : Keeps (advance a z r) := by
  unfold advance
  repeat' first | (simp; done) | refine keeps_bind ?_ fun _ => ?_

@[simp] theorem keeps_readSource (a : ASize) (z : Size) : Keeps (readSource a z) := by simp [readSource]

@[simp] theorem keeps_readDest (a : ASize) (z : Size) : Keeps (readDest a z) := by simp [readDest]

@[simp] theorem keeps_writeDest (a : ASize) (z : Size) (v : Word) : Keeps (writeDest a z v) := by simp [writeDest]

@[simp] theorem keeps_repeated (a : ASize) (c : Bool) {m : M Unit} (hm : Keeps m) : Keeps (repeated a c m) := by
  unfold repeated
  refine keeps_bind keeps_get fun s => ?_
  cases s.cur.rep with
  | none => exact hm
  | some k =>
    refine keeps_bind (by simp) fun _ => keeps_ite (keeps_pure _) (keeps_bind hm fun _ => ?_)
    refine keeps_bind (by simp) fun _ => keeps_bind (by simp) fun s => keeps_ite ?_ (keeps_pure _)
    exact keeps_modify fun _ => keep_same rfl rfl rfl rfl rfl rfl

@[simp] theorem keeps_movsBody (a : ASize) (z : Size) : Keeps (movsBody a z) := by
  unfold movsBody
  repeat' first | (simp; done) | refine keeps_bind ?_ fun _ => ?_

@[simp] theorem keeps_cmpsBody (a : ASize) (z : Size) : Keeps (cmpsBody a z) := by
  unfold cmpsBody
  repeat' first | (simp; done) | refine keeps_bind ?_ fun _ => ?_

@[simp] theorem keeps_stosBody (a : ASize) (z : Size) : Keeps (stosBody a z) := by
  unfold stosBody
  repeat' first | (simp; done) | refine keeps_bind ?_ fun _ => ?_

@[simp] theorem keeps_lodsBody (a : ASize) (z : Size) : Keeps (lodsBody a z) := by
  unfold lodsBody
  repeat' first | (simp; done) | refine keeps_bind ?_ fun _ => ?_

@[simp] theorem keeps_scasBody (a : ASize) (z : Size) : Keeps (scasBody a z) := by
  unfold scasBody
  repeat' first | (simp; done) | refine keeps_bind ?_ fun _ => ?_

@[simp] theorem keeps_ioPermitted (p : Half) (n : Nat) : Keeps (ioPermitted p n) := by
  unfold ioPermitted
  repeat' first | (simp; done) | refine keeps_bind ?_ fun _ => ?_ | refine keeps_ite ?_ ?_

@[simp] theorem keeps_checkPort (p : Half) (n : Nat) : Keeps (checkPort p n) := by
  unfold checkPort
  repeat' first | (simp; done) | refine keeps_bind ?_ fun _ => ?_ | refine keeps_ite ?_ ?_

@[simp] theorem keeps_portInRange (p : Half) (n : Nat) : Keeps (portInRange p n) := by simp [portInRange]

@[simp] theorem keeps_ioRead (p : Half) (n : Nat) : Keeps (ioRead p n) := by
  unfold ioRead
  refine keeps_bind (by simp) fun _ => keeps_bind (by simp) fun s => keeps_bind ?_ fun _ => keeps_pure _
  exact keeps_modify fun _ => keep_event rfl rfl rfl rfl rfl rfl trivial

@[simp] theorem keeps_ioWrite (p : Half) (n : Nat) (v : Word) : Keeps (ioWrite p n v) :=
  keeps_bind (by simp) fun _ => keeps_modify fun _ => keep_event rfl rfl rfl rfl rfl rfl trivial

@[simp] theorem keeps_insBody (a : ASize) (z : Size) : Keeps (insBody a z) := by
  unfold insBody
  repeat' first | (simp; done) | exact keeps_readReg .. | refine keeps_bind ?_ fun _ => ?_

@[simp] theorem keeps_outsBody (a : ASize) (z : Size) : Keeps (outsBody a z) := by
  unfold outsBody
  repeat' first | (simp; done) | exact keeps_readReg .. | refine keeps_bind ?_ fun _ => ?_

@[simp] theorem keeps_inBody (z : Size) (p : Half) : Keeps (inBody z p) := by
  unfold inBody
  repeat' first | (simp; done) | refine keeps_bind ?_ fun _ => ?_

@[simp] theorem keeps_outBody (z : Size) (p : Half) : Keeps (outBody z p) := by
  unfold outBody
  repeat' first | (simp; done) | refine keeps_bind ?_ fun _ => ?_

/-! System instructions. -/

@[simp] theorem keeps_privileged : Keeps privileged := by simp [privileged]

@[simp] theorem keeps_needProtected : Keeps needProtected := by simp [needProtected]

@[simp] theorem keeps_setZf (b : Bool) : Keeps (setZf b) :=
  keeps_modify fun _ => keep_same rfl rfl rfl rfl rfl rfl

@[simp] theorem keeps_peekDesc (sel : Half) : Keeps (peekDesc sel) := by
  unfold peekDesc
  refine keeps_bind keeps_get fun s => keeps_ite (keeps_pure _) ?_
  cases descAddr s sel <;> simp

@[simp] theorem keeps_selectorOf (o : OSize) (rm : Rm) : Keeps (selectorOf o rm) := by simp [selectorOf]

@[simp] theorem keeps_verifyBody (rm : Rm) (ok ex : Desc → Bool) : Keeps (verifyBody rm ok ex) := by
  unfold verifyBody
  refine keeps_bind (by simp) fun _ => keeps_bind (keeps_readRm ..) fun _ => keeps_bind (by simp) fun d => ?_
  refine keeps_bind (by simp) fun s => ?_
  cases d <;> simp

@[simp] theorem keeps_readTable (o : OSize) (ea : Ea) : Keeps (readTable o ea) := by
  unfold readTable
  repeat' first | (simp; done) | refine keeps_bind ?_ fun _ => ?_

@[simp] theorem keeps_writeTable (o : OSize) (ea : Ea) (t : TableReg) : Keeps (writeTable o ea t) := by
  unfold writeTable
  repeat' first | (simp; done) | refine keeps_bind ?_ fun _ => ?_

@[simp] theorem keeps_storeSys (rm : Rm) {v : M Half} (hv : Keeps v) : Keeps (storeSys rm v) :=
  keeps_bind (by simp) fun _ => keeps_bind hv fun _ => keeps_placeWrite ..

@[simp] theorem keeps_exposed (v r : Word) : Keeps (exposed v r) := by simp [exposed]

@[simp] theorem keeps_undefineStatus : Keeps undefineStatus :=
  keeps_bind (by simp) fun _ => keeps_modify fun _ => keep_same rfl rfl rfl rfl rfl rfl

/-- A write of CR0 that sets PG only with PE. -/
theorem keeps_setCr0 {c : Cr0} (h : c.pg = true → c.pe = true) : Keeps (setCr0 c) :=
  ends_modify fun _ g => ⟨⟨g.canonical, g.directory, h⟩, [], ⟨rfl, rfl, rfl, rfl, fun _ h => absurd h List.not_mem_nil⟩⟩

@[simp] theorem keeps_attrWrite (x y : Bool) : Keeps (attrWrite x y) := by simp [attrWrite]

@[simp] theorem keeps_tlbWrite (v : Word) : Keeps (tlbWrite v) := by
  unfold tlbWrite
  refine keeps_bind (by simp) fun _ => keeps_bind (by simp) fun _ => keeps_bind (by simp) fun _ => ?_
  refine keeps_bind (by simp) fun _ => keeps_modify fun _ => ?_
  exact keep_same rfl rfl rfl rfl rfl rfl

@[simp] theorem keeps_tlbRead (v : Word) : Keeps (tlbRead v) := by
  unfold tlbRead
  refine keeps_bind keeps_nextChoice fun _ => keeps_bind (by simp) fun s => keeps_bind (by simp) fun x => ?_
  split <;> exact keeps_modify fun _ => keep_same rfl rfl rfl rfl rfl rfl

theorem keep_movDebug {body : M Unit} (h : Keeps body) (s : State) : OutKeep s (movDebug body s) := by
  unfold movDebug
  split
  · refine outKeep_trans (t := markPoint (setDr6 (detectBits s) s)) ?_ (keep_deliverExc (keep_refl _))
    refine keep_trans (t := setDr6 (detectBits s) s) ?_ (keep_markPoint _)
    exact keep_same rfl rfl rfl rfl rfl rfl
  · exact keep_instr h s

/-- PUSHA and PUSHAD, the shutdown before them included. -/
theorem keep_pushaOrShut (z : Size) (s : State) : OutKeep s (pushaOrShut z s) := by
  unfold pushaOrShut
  split
  · refine outKeep_next (keep_trans ?_ (keep_enterShutdown _))
    exact keep_same rfl rfl rfl rfl rfl rfl
  · exact keep_instr (keeps_pushaBody z) s

end Sys2Proof.Machine
end

