-- ==== Sys2Proof/Laws/Ops.lean ====
section
/-! SUPPORT. What the shared operations of an instruction do: its completion, the stack, the loads of segment
registers. -/

namespace Sys2Proof.Machine

/-- A body that completes is a completed instruction. -/
theorem runBody_ok {body : M Unit} {s t : State} (h : body (markPoint s) = .ok () t) :
    runBody body s = .next (completed t) := by
  simp only [runBody, h]
  rfl

/-- Without a LOCK prefix a string instruction runs its body. -/
theorem stringInstr_run {s : State} (hl : s.cur.lock = false) (body : M Unit) :
    stringInstr body s = runBody body s := by
  simp [stringInstr, unlocked, hl]

/-- Without LOCK and repeat prefixes an instruction runs its body. -/
theorem instr_run {s : State} (hl : s.cur.lock = false ∧ s.cur.rep = none) (body : M Unit) :
    instr body s = runBody body s := by
  simp [instr, unlocked, unrepeated, hl]

/-- Where LOCK may precede a memory destination. -/
theorem lockable_run {s : State} {mem : Bool} (hl : (s.cur.lock = true → mem = true) ∧ s.cur.rep = none)
    (body : M Unit) : lockable mem body s = runBody body s := by
  obtain ⟨hl, hr⟩ := hl
  unfold lockable
  split
  · simp [unrepeated, hr]
  · refine instr_run ⟨?_, hr⟩ body
    cases e : s.cur.lock with
    | false => rfl
    | true => exact absurd (hl e) ‹_›

/-- A LOCK prefix before an instruction it may not precede is #UD. -/
theorem instr_locked {body : M Unit} {s : State} (hl : s.cur.lock = true) :
    instr body s = deliverExc .ud (markPoint s) s := by
  simp [instr, unlocked, hl]

theorem stringInstr_locked {body : M Unit} {s : State} (hl : s.cur.lock = true) :
    stringInstr body s = deliverExc .ud (markPoint s) s := by
  simp [stringInstr, unlocked, hl]

/-- A repeat prefix before an instruction that is no string instruction is refused. -/
theorem instr_repeated {body : M Unit} {s : State} (hl : s.cur.lock = false) (hr : s.cur.rep.isSome = true) :
    instr body s = .refused .repeatPrefix := by
  simp [instr, unlocked, unrepeated, hl, hr]

theorem lockable_repeated {mem : Bool} {body : M Unit} {s : State} (hl : s.cur.lock = false ∨ mem = true)
    (hr : s.cur.rep.isSome = true) : lockable mem body s = .refused .repeatPrefix := by
  cases mem with
  | true => simp [lockable, unrepeated, hr]
  | false => exact instr_repeated (hl.resolve_right (by decide)) hr

/-- A body that completes is a completed instruction. -/
theorem instr_ok {body : M Unit} {s t : State} (hl : s.cur.lock = false ∧ s.cur.rep = none)
    (h : body (markPoint s) = .ok () t) : instr body s = .next (completed t) :=
  (instr_run hl body).trans (runBody_ok h)

/-- A body that raises an exception has it delivered from the state before the instruction. -/
theorem instr_exc {body : M Unit} {s t : State} {e : Exc} (hl : s.cur.lock = false ∧ s.cur.rep = none)
    (h : body (markPoint s) = .error (.exc e) t) : instr body s = deliverExc e (markPoint s) t := by
  simp only [instr_run hl, runBody, h]

theorem instr_refused {body : M Unit} {s t : State} {r : Refusal} (hl : s.cur.lock = false ∧ s.cur.rep = none)
    (h : body (markPoint s) = .error (.refuse r) t) : instr body s = .refused r := by
  simp only [instr_run hl, runBody, h]

/-- As `instr_ok`, for a string instruction. -/
theorem stringInstr_ok {body : M Unit} {s t : State} (hl : s.cur.lock = false) (h : body (markPoint s) = .ok () t) :
    stringInstr body s = .next (completed t) :=
  (stringInstr_run hl body).trans (runBody_ok h)

theorem stringInstr_refused {body : M Unit} {s t : State} {r : Refusal} (hl : s.cur.lock = false)
    (h : body (markPoint s) = .error (.refuse r) t) : stringInstr body s = .refused r := by
  simp only [stringInstr_run hl, runBody, h]

/-- As `instr_ok`, where LOCK may precede a memory destination. -/
theorem lockable_ok {mem : Bool} {body : M Unit} {s t : State}
    (hl : (s.cur.lock = true → mem = true) ∧ s.cur.rep = none) (h : body (markPoint s) = .ok () t) :
    lockable mem body s = .next (completed t) :=
  (lockable_run hl body).trans (runBody_ok h)

/-- An instruction that uses a readable r/m operand. -/
theorem useRm_ok {z : Size} {rm : Rm} {f : z.Val → M Unit} {s u t : State} {v : z.Val}
    (hl : s.cur.lock = false ∧ s.cur.rep = none)
    (hr : readRm z rm (markPoint s) = .ok v u) (h : f v u = .ok () t) : useRm z rm f s = .next (completed t) :=
  instr_ok hl (by rw [run_bind_ok hr, h])

theorem readRm_accessed {z : Size} {rm : Rm} {s t : State} {v : z.Val} (h : readRm z rm s = .ok v t) : Accessed s t :=
  (accessed_readRm z rm).ok h

/-- A push stores its value below the top and moves the stack pointer there (R405). -/
theorem push_pushed {z : Size} {v : Word} {s t : State} (hwf : Mem.wf s.mem = true) (h : push z v s = .ok () t) :
    Pushed z s t ∧ Mem.wf t.mem = true := by
  simp only [push, run_get_bind] at h
  rw [run_bind] at h
  cases e : writeMem .ss (stackOff s.stackSize (s.regs.esp - BitVec.ofNat 32 z.bytes)) z.bytes v s with
  | error x u =>
    rw [e] at h
    cases h
  | ok a u =>
    rw [e] at h
    obtain ⟨h1, h2⟩ := writeMem_stored hwf e
    cases h
    exact ⟨⟨u, h1, rfl⟩, h2⟩

/-- A pop reads the item at the top and moves the stack pointer above it (R405). -/
theorem pop_popped {z : Size} {v : Word} {s t : State} (h : pop z s = .ok v t) : Popped z s t := by
  simp only [pop, run_get_bind] at h
  rw [run_bind] at h
  cases e : readMem .ss (stackOff s.stackSize s.regs.esp) z.bytes s with
  | error x u =>
    rw [e] at h
    cases h
  | ok a u =>
    rw [e] at h
    have h1 := (accessed_readMem _ _ _).ok e
    cases h
    exact ⟨u, h1, rfl⟩

theorem accessed_sysSetBits {lin : Word} {mask : Byte} (h : mask &&& 0x9E#8 = 0#8) :
    Ends Accessed AccessedStop (sysSetBits lin mask) := by
  unfold sysSetBits
  refine ends_bind composes_accessed (accessed_physOf ..) fun as => ?_
  cases as with
  | nil => exact ends_pure composes_accessed _
  | cons a rest => exact accessed_physSetBits h

theorem accessed_markAccessed (lin : Word) (d : Desc) : Ends Accessed AccessedStop (markAccessed lin d) :=
  ends_ite (accessed_sysSetBits (by decide)) (ends_pure composes_accessed _)

/-- A segment register loaded from a checked descriptor. -/
theorem loadFromDesc_loaded {r : SReg} {sel : Half} {lin : Word} {d : Desc} {s t : State}
    (h : loadFromDesc r sel lin d s = .ok () t) : SegLoaded r s t := by
  simp only [loadFromDesc] at h
  rw [run_bind] at h
  cases e : markAccessed lin d s with
  | error x u =>
    rw [e] at h
    cases h
  | ok a u =>
    rw [e] at h
    have h1 := (accessed_markAccessed _ _).ok e
    cases h
    exact ⟨u, _, h1, rfl⟩

theorem segLoaded_put (r : SReg) (g : SegReg) (s : State) : SegLoaded r s { s with segs := s.segs.put r g } :=
  ⟨s, g, composes_accessed.refl s, rfl⟩

theorem segLoaded_after {r : SReg} {s u t : State} (h : Accessed s u) (h' : SegLoaded r u t) : SegLoaded r s t := by
  obtain ⟨v, g, hv, rfl⟩ := h'
  exact ⟨v, g, composes_accessed.trans _ _ _ h hv, rfl⟩

/-- A load of SS that completes changes SS and Accessed bits (R161). -/
theorem loadSs_loaded {sel : Half} {s t : State} (h : loadSs sel s = .ok () t) : SegLoaded .ss s t := by
  simp only [loadSs, run_get_bind] at h
  split at h
  · cases h
    exact segLoaded_put ..
  split at h
  · cases h
    exact segLoaded_put ..
  obtain ⟨-, h⟩ := require_bind_ok h
  obtain ⟨⟨lin, d⟩, u, e, h⟩ := bind_ok h
  refine segLoaded_after ((accessed_fetchDesc _ _).ok e) ?_
  iterate 4 obtain ⟨-, h⟩ := require_bind_ok h
  exact loadFromDesc_loaded h

/-- A load of DS, ES, FS or GS that completes changes that register and Accessed bits (R162, R163). -/
theorem loadData_loaded {r : SReg} {sel : Half} {s t : State} (h : loadData r sel s = .ok () t) : SegLoaded r s t := by
  simp only [loadData, run_get_bind] at h
  split at h
  · cases h
    exact segLoaded_put ..
  split at h
  · cases h
    exact segLoaded_put ..
  split at h
  · cases h
    exact segLoaded_put ..
  obtain ⟨⟨lin, d⟩, u, e, h⟩ := bind_ok h
  refine segLoaded_after ((accessed_fetchDesc _ _).ok e) ?_
  iterate 3 obtain ⟨-, h⟩ := require_bind_ok h
  exact loadFromDesc_loaded h

/-- A load of a segment register that completes changes that register and Accessed bits. -/
theorem loadSeg_loaded {r : SReg} {sel : Half} {s t : State} (h : loadSeg r sel s = .ok () t) : SegLoaded r s t := by
  unfold loadSeg at h
  split at h
  · rename_i hr
    subst hr
    exact loadSs_loaded h
  · exact loadData_loaded h

end Sys2Proof.Machine
end

