-- ==== Sys2Proof/Laws/Raises.lean ====
section
/-! SUPPORT. Which errors a computation can end with: no delivery of an event refuses, and every exception that it raises
is contributory, a page fault or a double fault. -/

namespace Sys2Proof.Machine

/-- Every error of a computation has a property. -/
structure Raises {α : Type} (P : Err → Prop) (m : M α) : Prop where
  run : ∀ s e t, m s = .error e t → P e

section
variable {α β : Type} {P : Err → Prop}

theorem raises_of {m : M α} (h : ∀ s, ∃ a t, m s = .ok a t) : Raises P m := by
  constructor
  intro s e t he
  obtain ⟨a, u, h⟩ := h s
  rw [h] at he
  cases he

theorem raises_bind {m : M α} {f : α → M β} (hm : Raises P m) (hf : ∀ a, Raises P (f a)) : Raises P (m >>= f) := by
  constructor
  intro s e t h
  rw [run_bind] at h
  cases e1 : m s with
  | ok a u =>
    rw [e1] at h
    exact (hf a).run _ _ _ h
  | error x u =>
    rw [e1] at h
    cases h
    exact hm.run _ _ _ e1

theorem raises_pure (a : α) : Raises P (pure a : M α) := raises_of fun s => ⟨a, s, rfl⟩

theorem raises_get : Raises P (get : M State) := raises_of fun s => ⟨s, s, rfl⟩

theorem raises_modify (g : State → State) : Raises P (modify g : M Unit) := raises_of fun s => ⟨(), g s, rfl⟩

theorem raises_gets (g : State → α) : Raises P (gets g) := raises_of fun s => ⟨g s, s, rfl⟩

theorem raises_exc {e : Exc} (h : P (.exc e)) : Raises P (raise e : M α) := by
  constructor
  intro s x t hx
  cases hx
  exact h

theorem raises_require {c : Bool} {e : Exc} (h : P (.exc e)) : Raises P (require c e) := by
  cases c
  · exact raises_exc h
  · exact raises_pure ()

theorem raises_ite {c : Prop} [Decidable c] {a b : M α} (ha : Raises P a) (hb : Raises P b) :
    Raises P (if c then a else b) := by
  by_cases h : c
  · rw [if_pos h]
    exact ha
  · rw [if_neg h]
    exact hb

theorem raises_onExc {m : M α} {h : State → State} (hm : Raises P m) : Raises P (onExc m h) := by
  constructor
  intro s e t he
  simp only [onExc] at he
  cases e1 : m s with
  | ok a u =>
    rw [e1] at he
    cases he
  | error x u =>
    rw [e1] at he
    have := hm.run _ _ _ e1
    cases x <;> cases he <;> exact this

end

/-- An error that the delivery of an event can end with: an exception that the double-fault table classes as contributory,
as a page fault or as a double fault (R918). -/
def Serious (e : Err) : Prop := ∃ x : Exc, e = .exc x ∧ vecClass x.vec ≠ .benign

theorem serious_gp (c : Half) : Serious (.exc (.gp c)) := ⟨_, rfl, show vecClass 13 ≠ .benign by decide⟩

theorem serious_np (c : Half) : Serious (.exc (.np c)) := ⟨_, rfl, show vecClass 11 ≠ .benign by decide⟩

theorem serious_ss (c : Half) : Serious (.exc (.ss c)) := ⟨_, rfl, show vecClass 12 ≠ .benign by decide⟩

theorem serious_ts (c : Half) : Serious (.exc (.ts c)) := ⟨_, rfl, show vecClass 10 ≠ .benign by decide⟩

theorem serious_pf (b : BitVec 3) : Serious (.exc (.pf b)) := ⟨_, rfl, show vecClass 14 ≠ .benign by decide⟩

theorem serious_df : Serious (.exc .df) := ⟨_, rfl, by decide⟩

theorem serious_segFault (r : SReg) : Serious (.exc (segFault r)) := by
  unfold segFault
  split
  · exact serious_ss _
  · exact serious_gp _

theorem raises_physRead (a : BitVec 24) : Raises Serious (physRead a) := by
  apply raises_of
  intro s
  simp only [physRead]
  split <;> exact ⟨_, _, rfl⟩

theorem raises_physSetBits (a : BitVec 24) (v : Byte) : Raises Serious (physSetBits a v) := raises_modify _

theorem raises_physReadAll (as : List (BitVec 24)) : Raises Serious (physReadAll as) := by
  induction as with
  | nil => exact raises_pure _
  | cons a rest ih => exact raises_bind (raises_physRead a) fun _ => raises_bind ih fun _ => raises_pure _

theorem raises_physWriteAll (as : List (BitVec 24)) (bs : List Byte) : Raises Serious (physWriteAll as bs) :=
  raises_modify _

theorem raises_readEntry (a : BitVec 24) : Raises Serious (readEntry a) :=
  raises_bind (raises_physReadAll _) fun _ => raises_pure _

theorem raises_pageFault {α : Type} (lin : Word) (acc : Access) (p : Bool) :
    Raises Serious (pageFault lin acc p : M α) :=
  raises_bind (raises_modify _) fun _ => raises_exc (serious_pf _)

theorem raises_nextChoice : Raises Serious nextChoice := by
  apply raises_of
  intro s
  simp only [nextChoice]
  split <;> exact ⟨_, _, rfl⟩

theorem raises_walk (lin : Word) (acc : Access) (c : PageChoice) : Raises Serious (walk lin acc c) := by
  unfold walk
  refine raises_bind raises_get fun s => raises_bind (raises_readEntry _) fun pde => ?_
  refine raises_ite (raises_pageFault ..) (raises_bind (raises_readEntry _) fun pte => raises_ite ?_ ?_)
  · refine raises_ite ?_ (raises_pageFault ..)
    exact raises_bind (raises_physSetBits ..) fun _ => raises_pageFault ..
  · exact raises_ite (raises_pure _) (raises_pageFault ..)

theorem raises_translate (lin : Word) (acc : Access) : Raises Serious (translate lin acc) := by
  unfold translate
  refine raises_bind raises_get fun s => raises_ite ?_ (raises_pure _)
  refine raises_bind raises_nextChoice fun c => raises_bind raises_get fun s => ?_
  cases tlbLookup s c.use (pageOf lin) with
  | none => exact raises_walk ..
  | some e => exact raises_ite (raises_pure _) (raises_pageFault ..)

theorem raises_touchPage (page : BitVec 20) (acc : Access) (t : Trans) : Raises Serious (touchPage page acc t) := by
  cases t with
  | direct f => exact raises_pure _
  | walked frame pa ta user writable dirty c =>
    exact raises_bind (raises_physSetBits ..) fun _ => raises_bind (raises_physSetBits ..) fun _ => raises_modify _
  | cached e c =>
    unfold touchPage
    refine raises_ite (raises_bind raises_get fun s => ?_) (raises_pure _)
    refine raises_bind (raises_readEntry _) fun _ => raises_ite (raises_bind (raises_physSetBits ..) fun _ => ?_) ?_ <;>
      exact raises_bind (raises_physSetBits ..) fun _ => raises_modify _

theorem raises_physOf (lin : Word) (n : Nat) (acc : Access) : Raises Serious (physOf lin n acc) := by
  unfold physOf translateBoth physFrom
  refine raises_bind (raises_bind (raises_translate ..) fun t1 => raises_ite (raises_pure _) ?_) fun ts => ?_
  · exact raises_bind (raises_translate ..) fun _ => raises_pure _
  · refine raises_bind (raises_touchPage ..) fun _ => raises_ite ?_ (raises_pure _)
    exact raises_bind (raises_touchPage ..) fun _ => raises_pure _

theorem raises_sysRead (lin : Word) (n : Nat) : Raises Serious (sysRead lin n) :=
  raises_bind (raises_physOf ..) fun _ => raises_bind (raises_physReadAll _) fun _ => raises_pure _

theorem raises_sysWrite (lin : Word) (n : Nat) (v : Word) : Raises Serious (sysWrite lin n v) :=
  raises_bind (raises_physOf ..) fun _ => raises_physWriteAll ..

theorem raises_sysSetBits (lin : Word) (mask : Byte) : Raises Serious (sysSetBits lin mask) := by
  unfold sysSetBits
  refine raises_bind (raises_physOf ..) fun as => ?_
  cases as with
  | nil => exact raises_pure _
  | cons a rest => exact raises_physSetBits ..

theorem raises_recordHits (lin : Word) (n : Nat) (write : Bool) : Raises Serious (recordHits lin n write) :=
  raises_modify _

theorem raises_dataPhys (r : SReg) (off : Word) (n : Nat) (write : Bool) : Raises Serious (dataPhys r off n write) :=
  raises_bind raises_get fun _ => raises_bind (raises_require (serious_segFault r)) fun _ =>
    raises_bind (raises_recordHits ..) fun _ => raises_physOf ..

theorem raises_writeMem (r : SReg) (off : Word) (n : Nat) (v : Word) : Raises Serious (writeMem r off n v) :=
  raises_bind (raises_dataPhys ..) fun _ => raises_physWriteAll ..

theorem raises_push (z : Size) (v : Word) : Raises Serious (push z v) :=
  raises_bind raises_get fun _ => raises_bind (raises_writeMem ..) fun _ => raises_modify _

theorem raises_freeBits (n : Nat) : Raises Serious (freeBits n) := raises_of fun _ => ⟨_, _, rfl⟩

theorem raises_freeBit : Raises Serious freeBit := raises_of fun _ => ⟨_, _, rfl⟩

theorem raises_padSel (n : Nat) (sel : Half) : Raises Serious (padSel n sel) :=
  raises_bind (raises_freeBits _) fun _ => raises_pure _

theorem raises_eflagsImage (f : Flags) : Raises Serious (eflagsImage f) :=
  raises_bind (raises_freeBits _) fun _ => raises_pure _

theorem raises_pushSel (z : Size) (sel : Half) : Raises Serious (pushSel z sel) :=
  raises_bind (raises_padSel ..) fun _ => raises_push ..

theorem raises_readDesc (lin : Word) : Raises Serious (readDesc lin) :=
  raises_bind (raises_sysRead ..) fun _ => raises_bind (raises_sysRead ..) fun _ => raises_pure _

theorem raises_fetchDesc (sel : Half) {e : Exc} (h : Serious (.exc e)) : Raises Serious (fetchDesc sel e) := by
  unfold fetchDesc
  refine raises_bind raises_get fun s => ?_
  cases descAddr s sel with
  | none => exact raises_exc h
  | some lin => exact raises_bind (raises_readDesc _) fun _ => raises_pure _

theorem raises_loadFromDesc (r : SReg) (sel : Half) (lin : Word) (d : Desc) : Raises Serious (loadFromDesc r sel lin d) :=
  raises_bind (raises_ite (raises_sysSetBits ..) (raises_pure _)) fun _ => raises_modify _

theorem raises_pushCode (z : Size) (c : Option ErrCode) : Raises Serious (pushCode z c) := by
  cases c with
  | none => exact raises_pure _
  | some c =>
    cases c with
    | sel v => exact raises_pushSel ..
    | page b => exact raises_bind (raises_freeBits _) fun _ => raises_push ..

theorem raises_pushReturn (z : Size) (f : Word) (cs : Half) (eip : Word) : Raises Serious (pushReturn z f cs eip) :=
  raises_bind (raises_push ..) fun _ => raises_bind (raises_pushSel ..) fun _ => raises_push ..

theorem raises_loadGateTarget (sel : Half) (level : BitVec 2) (lin : Word) (d : Desc) (off : Word) :
    Raises Serious (loadGateTarget sel level lin d off) :=
  raises_bind (raises_loadFromDesc ..) fun _ => raises_bind (raises_modify _) fun _ => raises_modify _

theorem raises_setBusy (lin : Word) (b : Bool) : Raises Serious (setBusy lin b) :=
  raises_bind (raises_sysRead ..) fun _ => raises_sysWrite ..

theorem raises_saveRegs (lin : Word) (n : Nat) (rs : List Reg) : Raises Serious (saveRegs lin n rs) := by
  induction rs generalizing lin with
  | nil => exact raises_pure _
  | cons r rest ih => exact raises_bind raises_get fun _ => raises_bind (raises_sysWrite ..) fun _ => ih _

theorem raises_saveSels (lin : Word) (n : Nat) (rs : List SReg) : Raises Serious (saveSels lin n rs) := by
  induction rs generalizing lin with
  | nil => exact raises_pure _
  | cons r rest ih =>
    exact raises_bind raises_get fun _ => raises_bind (raises_padSel ..) fun _ =>
      raises_bind (raises_sysWrite ..) fun _ => ih _

theorem raises_saveTask (f : Flags) (ext : Bool) : Raises Serious (saveTask f ext) := by
  unfold saveTask
  refine raises_bind raises_get fun s => raises_bind (raises_require (serious_ts _)) fun _ =>
    raises_bind (raises_eflagsImage _) fun _ => raises_ite ?_ ?_ <;>
  exact raises_bind (raises_saveRegs ..) fun _ => raises_bind (raises_saveSels ..) fun _ =>
    raises_bind (raises_sysWrite ..) fun _ => raises_sysWrite ..

theorem raises_clearOldBusy (ext : Bool) : Raises Serious (clearOldBusy ext) := by
  unfold clearOldBusy
  refine raises_bind raises_get fun s => ?_
  cases descAddr s (s.sys.tr.sel &&& 0xFFF8) with
  | none => exact raises_exc (serious_ts _)
  | some lin => exact raises_setBusy ..

theorem raises_readTask32 (base : Word) : Raises Serious (readTask32 base) := by
  unfold readTask32
  iterate 17 refine raises_bind (raises_sysRead ..) fun _ => ?_
  exact raises_pure _

theorem raises_readHalfReg (lin : Word) : Raises Serious (readHalfReg lin) :=
  raises_bind (raises_sysRead ..) fun _ => raises_bind (raises_freeBits _) fun _ => raises_pure _

theorem raises_readTask16 (base : Word) : Raises Serious (readTask16 base) := by
  unfold readTask16
  refine raises_bind (raises_sysRead ..) fun _ => raises_bind raises_freeBit fun _ => ?_
  refine raises_bind (raises_sysRead ..) fun _ => ?_
  iterate 8 refine raises_bind (raises_readHalfReg _) fun _ => ?_
  iterate 5 refine raises_bind (raises_sysRead ..) fun _ => ?_
  exact raises_pure _

theorem raises_switchCr3 (base : Word) : Raises Serious (switchCr3 base) := by
  unfold switchCr3
  refine raises_bind raises_get fun s => raises_ite (raises_bind (raises_sysRead ..) fun v => ?_) (raises_pure _)
  exact raises_ite (raises_modify _) (raises_pure _)

theorem raises_readTask (d : Desc) : Raises Serious (readTask d) :=
  raises_ite (raises_bind (raises_switchCr3 _) fun _ => raises_readTask32 _) (raises_readTask16 _)

theorem raises_switchLdt (sel : Half) (ext : Bool) : Raises Serious (switchLdt sel ext) :=
  raises_ite (raises_pure _)
    (raises_bind (raises_require (serious_ts _)) fun _ => raises_bind (raises_fetchDesc _ (serious_ts _)) fun _ =>
      raises_bind (raises_require (serious_ts _)) fun _ => raises_modify _)

theorem raises_switchCs (sel : Half) (ext : Bool) : Raises Serious (switchCs sel ext) :=
  raises_bind (raises_require (serious_ts _)) fun _ => raises_bind (raises_fetchDesc _ (serious_ts _)) fun _ =>
    raises_bind (raises_require (serious_ts _)) fun _ => raises_bind (raises_require (serious_ts _)) fun _ =>
      raises_bind (raises_require (serious_np _)) fun _ => raises_bind (raises_loadFromDesc ..) fun _ => raises_modify _

theorem raises_switchSs (sel : Half) (ext : Bool) : Raises Serious (switchSs sel ext) :=
  raises_bind (raises_require (serious_ts _)) fun _ => raises_bind (raises_fetchDesc _ (serious_ts _)) fun _ =>
    raises_bind (raises_require (serious_ts _)) fun _ => raises_bind raises_get fun _ =>
      raises_bind (raises_require (serious_ts _)) fun _ => raises_bind (raises_require (serious_ss _)) fun _ =>
        raises_loadFromDesc ..

theorem raises_switchData (ext : Bool) (r : SReg) (sel : Half) : Raises Serious (switchData ext r sel) :=
  raises_ite (raises_pure _)
    (raises_bind (raises_fetchDesc _ (serious_ts _)) fun _ =>
      raises_bind (raises_require (serious_ts _)) fun _ => raises_bind raises_get fun _ =>
        raises_bind (raises_require (serious_ts _)) fun _ => raises_bind (raises_require (serious_np _)) fun _ =>
          raises_loadFromDesc ..)

theorem raises_loadTaskSegs (t : TaskImage) (ext : Bool) : Raises Serious (loadTaskSegs t ext) := by
  unfold loadTaskSegs
  refine raises_bind (raises_switchLdt ..) fun _ => raises_bind raises_get fun s => raises_ite (raises_modify _) ?_
  refine raises_bind (raises_switchCs ..) fun _ => raises_bind (raises_switchSs ..) fun _ => ?_
  exact raises_bind (raises_switchData ..) fun _ => raises_bind (raises_switchData ..) fun _ =>
    raises_bind (raises_switchData ..) fun _ => raises_switchData ..

theorem raises_raiseTrap (d : Desc) : Raises Serious (raiseTrap d) :=
  raises_ite (raises_bind (raises_sysRead ..) fun _ => raises_ite (raises_modify _) (raises_pure _)) (raises_pure _)

theorem raises_switchTask (kind : TaskKind) (sel : Half) (lin : Word) (d : Desc) (rf ext : Bool) :
    Raises Serious (switchTask kind sel lin d rf ext) := by
  have rest : Raises Serious (do
      commitTask sel d
      let t ← onExc (readTask d) scrambleTask
      modify (installTask kind t)
      loadTaskSegs t ext
      onExc (raiseTrap d) scrambleTask) :=
    raises_bind (raises_modify _) fun _ => raises_bind (raises_onExc (raises_readTask d)) fun t =>
      raises_bind (raises_modify _) fun _ => raises_bind (raises_loadTaskSegs ..) fun _ =>
        raises_onExc (raises_raiseTrap d)
  have busy : Raises Serious (do
      setBusy lin true
      commitTask sel d
      let t ← onExc (readTask d) scrambleTask
      modify (installTask kind t)
      loadTaskSegs t ext
      onExc (raiseTrap d) scrambleTask) := raises_bind (raises_setBusy ..) fun _ => rest
  unfold switchTask
  refine raises_bind (raises_require (serious_ts _)) fun _ => raises_bind raises_get fun s => raises_ite ?_ ?_
  · refine raises_bind (raises_clearOldBusy _) fun _ => raises_bind (raises_saveTask ..) fun _ => raises_ite ?_ ?_
    · refine raises_bind (raises_padSel ..) fun _ => raises_bind (raises_sysWrite ..) fun _ => raises_ite busy rest
    · exact raises_ite busy rest
  · refine raises_bind (raises_saveTask ..) fun _ => raises_ite ?_ ?_
    · refine raises_bind (raises_padSel ..) fun _ => raises_bind (raises_sysWrite ..) fun _ => raises_ite busy rest
    · exact raises_ite busy rest

theorem raises_checkNewEip : Raises Serious checkNewEip :=
  raises_bind raises_get fun _ => raises_require (serious_gp _)

theorem raises_needRoom (n : Nat) : Raises Serious (needRoom n) :=
  raises_bind raises_get fun _ => raises_require (serious_ss _)

theorem raises_innerStack (level : BitVec 2) (ext : Bool) : Raises Serious (innerStack level ext) := by
  unfold innerStack
  refine raises_bind raises_get fun s => raises_ite ?_ ?_
  · exact raises_bind (raises_require (serious_ts _)) fun _ => raises_bind (raises_sysRead ..) fun _ =>
      raises_bind (raises_sysRead ..) fun _ => raises_pure _
  · exact raises_bind (raises_require (serious_ts _)) fun _ => raises_bind (raises_readHalfReg _) fun _ =>
      raises_bind (raises_sysRead ..) fun _ => raises_pure _

theorem raises_checkInnerSs (ss : Half) (level : BitVec 2) (ext : Bool) : Raises Serious (checkInnerSs ss level ext) :=
  raises_bind (raises_require (serious_ts _)) fun _ => raises_bind (raises_fetchDesc _ (serious_ts _)) fun _ =>
    raises_bind (raises_require (serious_ts _)) fun _ => raises_bind (raises_require (serious_ts _)) fun _ =>
      raises_bind (raises_require (serious_ts _)) fun _ => raises_bind (raises_require (serious_ss _)) fun _ =>
        raises_pure _

theorem raises_enterReal (ev : Event) : Raises Serious (enterReal ev) := by
  unfold enterReal
  refine raises_bind raises_get fun s => raises_bind (raises_require serious_df) fun _ => ?_
  refine raises_bind (raises_push ..) fun _ => raises_bind (raises_modify _) fun _ => ?_
  refine raises_bind (raises_push ..) fun _ => raises_bind (raises_push ..) fun _ => ?_
  refine raises_bind (raises_sysRead ..) fun _ => raises_bind (raises_sysRead ..) fun _ => ?_
  exact raises_bind (raises_modify _) fun _ => raises_modify _

theorem raises_enterSame (ev : Event) (gate : Desc) (sel : Half) (lin : Word) (d : Desc) (image : Word) :
    Raises Serious (enterSame ev gate sel lin d image) := by
  unfold enterSame
  refine raises_bind raises_get fun s => raises_bind (raises_needRoom _) fun _ => ?_
  refine raises_bind (raises_require (serious_gp _)) fun _ => raises_bind (raises_pushReturn ..) fun _ => ?_
  exact raises_bind (raises_loadGateTarget ..) fun _ => raises_bind (raises_pushCode ..) fun _ => raises_modify _

theorem raises_enterInner (ev : Event) (gate : Desc) (sel : Half) (lin : Word) (d : Desc) (image : Word) :
    Raises Serious (enterInner ev gate sel lin d image) := by
  unfold enterInner
  refine raises_bind raises_get fun s => raises_bind (raises_innerStack ..) fun _ => ?_
  refine raises_bind (raises_checkInnerSs ..) fun _ => raises_bind (raises_require (serious_ss _)) fun _ => ?_
  refine raises_bind (raises_require (serious_gp _)) fun _ => raises_bind (raises_loadGateTarget ..) fun _ => ?_
  refine raises_bind (raises_loadFromDesc ..) fun _ => raises_bind (raises_modify _) fun _ => ?_
  refine raises_bind (raises_pushSel ..) fun _ => raises_bind (raises_push ..) fun _ => ?_
  exact raises_bind (raises_pushReturn ..) fun _ => raises_bind (raises_pushCode ..) fun _ => raises_modify _

theorem raises_enterV86 (ev : Event) (gate : Desc) (sel : Half) (lin : Word) (d : Desc) (image : Word) :
    Raises Serious (enterV86 ev gate sel lin d image) := by
  unfold enterV86
  refine raises_bind raises_get fun s => raises_bind (raises_innerStack ..) fun _ => ?_
  refine raises_bind (raises_checkInnerSs ..) fun _ => raises_bind (raises_require (serious_ss _)) fun _ => ?_
  refine raises_bind (raises_require (serious_gp _)) fun _ => raises_bind (raises_modify _) fun _ => ?_
  refine raises_bind (raises_modify _) fun _ => raises_bind (raises_loadFromDesc ..) fun _ => ?_
  refine raises_bind (raises_modify _) fun _ => ?_
  iterate 4 refine raises_bind (raises_pushSel ..) fun _ => ?_
  iterate 4 refine raises_bind (raises_modify _) fun _ => ?_
  refine raises_bind (raises_pushSel ..) fun _ => raises_bind (raises_push ..) fun _ => ?_
  refine raises_bind (raises_pushReturn ..) fun _ => raises_bind (raises_pushCode ..) fun _ => ?_
  exact raises_loadGateTarget ..

theorem raises_enterCode (ev : Event) (gate : Desc) : Raises Serious (enterCode ev gate) := by
  unfold enterCode
  refine raises_bind raises_get fun s => raises_bind (raises_require (serious_gp _)) fun _ => ?_
  refine raises_bind (raises_fetchDesc _ (serious_gp _)) fun _ => raises_bind (raises_require (serious_gp _)) fun _ => ?_
  refine raises_bind (raises_require (serious_np _)) fun _ => raises_bind (raises_eflagsImage _) fun _ => ?_
  refine raises_ite (raises_bind (raises_require (serious_gp _)) fun _ => raises_enterV86 ..) ?_
  exact raises_ite (raises_enterInner ..) (raises_ite (raises_enterSame ..) (raises_exc (serious_gp _)))

theorem raises_enterTask (ev : Event) (gate : Desc) : Raises Serious (enterTask ev gate) := by
  unfold enterTask
  refine raises_bind (raises_require (serious_ts _)) fun _ => raises_bind (raises_fetchDesc _ (serious_ts _)) fun _ => ?_
  refine raises_bind (raises_require (serious_ts _)) fun _ => raises_bind (raises_require (serious_np _)) fun _ => ?_
  refine raises_bind (raises_switchTask ..) fun _ => raises_bind (raises_modify _) fun _ => raises_ite ?_ ?_
  · exact raises_bind (raises_needRoom _) fun _ => raises_bind (raises_pushCode ..) fun _ => raises_checkNewEip
  · exact raises_bind (raises_pushCode ..) fun _ => raises_checkNewEip

theorem raises_enterGate (ev : Event) : Raises Serious (enterGate ev) := by
  unfold enterGate
  refine raises_bind raises_get fun s => raises_bind (raises_require (serious_gp _)) fun _ => ?_
  refine raises_bind (raises_readDesc _) fun gate => raises_bind (raises_require (serious_gp _)) fun _ => ?_
  refine raises_bind (raises_require (serious_gp _)) fun _ => raises_bind (raises_require (serious_np _)) fun _ => ?_
  exact raises_ite (raises_enterTask ..) (raises_enterCode ..)

/-- Taking an event refuses nothing, and every exception that it raises is a serious one. -/
theorem raises_enter (ev : Event) : Raises Serious (enter ev) := by
  unfold enter
  refine raises_bind raises_get fun s => raises_ite ?_ ?_
  · exact raises_bind (raises_enterReal ev) fun _ => raises_modify _
  · exact raises_bind (raises_enterGate ev) fun _ => raises_modify _

end Sys2Proof.Machine
end

