-- ==== Sys2Proof/Laws/State.lean ====
section
/-! SUPPORT. What every update of the state leaves in each field: one lemma for each update and field, true by
definition, so that no proof unfolds a record update. -/

namespace Sys2Proof.Machine

/-- A segment register that was just replaced. -/
@[simp] theorem segs_get_put_same (g : Segs) (r : SReg) (v : SegReg) : (g.put r v).get r = v := by cases r <;> rfl

/-- The segment registers beside the one replaced. -/
theorem segs_get_put_other (g : Segs) {r r' : SReg} (v : SegReg) (h : r' ≠ r) : (g.put r v).get r' = g.get r' := by
  cases r <;> cases r' <;> first | rfl | exact absurd rfl h

/-! `markPoint` -/

@[simp] theorem markPoint_regs (s : State) : (markPoint s).regs = s.regs := rfl
@[simp] theorem markPoint_eip (s : State) : (markPoint s).eip = s.eip := rfl
@[simp] theorem markPoint_flags (s : State) : (markPoint s).flags = s.flags := rfl
@[simp] theorem markPoint_segs (s : State) : (markPoint s).segs = s.segs := rfl
@[simp] theorem markPoint_cpl (s : State) : (markPoint s).cpl = s.cpl := rfl
@[simp] theorem markPoint_sys (s : State) : (markPoint s).sys = s.sys := rfl
@[simp] theorem markPoint_dbg (s : State) : (markPoint s).dbg = s.dbg := rfl
@[simp] theorem markPoint_tlb (s : State) : (markPoint s).tlb = s.tlb := rfl
@[simp] theorem markPoint_latches (s : State) : (markPoint s).latches = s.latches := rfl
@[simp] theorem markPoint_queue (s : State) : (markPoint s).queue = s.queue := rfl
@[simp] theorem markPoint_mem (s : State) : (markPoint s).mem = s.mem := rfl
@[simp] theorem markPoint_regions (s : State) : (markPoint s).regions = s.regions := rfl
@[simp] theorem markPoint_io (s : State) : (markPoint s).io = s.io := rfl
@[simp] theorem markPoint_inputs (s : State) : (markPoint s).inputs = s.inputs := rfl
@[simp] theorem markPoint_now (s : State) : (markPoint s).now = s.now := rfl
@[simp] theorem markPoint_cur (s : State) : (markPoint s).cur = { s.cur with committed := false } := rfl
@[simp] theorem markPoint_draws (s : State) : (markPoint s).draws = s.draws := rfl

/-! `completed` -/

@[simp] theorem completed_regs (s : State) : (completed s).regs = s.regs := rfl
@[simp] theorem completed_eip (s : State) : (completed s).eip = s.eip := rfl
@[simp] theorem completed_flags (s : State) : (completed s).flags = s.flags := rfl
@[simp] theorem completed_segs (s : State) : (completed s).segs = s.segs := rfl
@[simp] theorem completed_cpl (s : State) : (completed s).cpl = s.cpl := rfl
@[simp] theorem completed_sys (s : State) : (completed s).sys = s.sys := rfl
@[simp] theorem completed_dbg (s : State) : (completed s).dbg = s.dbg := rfl
@[simp] theorem completed_tlb (s : State) : (completed s).tlb = s.tlb := rfl
@[simp] theorem completed_latches (s : State) : (completed s).latches = s.latches := rfl
@[simp] theorem completed_queue (s : State) : (completed s).queue = s.queue := rfl
@[simp] theorem completed_mem (s : State) : (completed s).mem = s.mem := rfl
@[simp] theorem completed_regions (s : State) : (completed s).regions = s.regions := rfl
@[simp] theorem completed_io (s : State) : (completed s).io = s.io := rfl
@[simp] theorem completed_inputs (s : State) : (completed s).inputs = s.inputs := rfl
@[simp] theorem completed_now (s : State) : (completed s).now = s.now := rfl
@[simp] theorem completed_cur (s : State) : (completed s).cur = { s.cur with stage := .completed } := rfl
@[simp] theorem completed_draws (s : State) : (completed s).draws = s.draws := rfl

/-! `setReg` -/

@[simp] theorem setReg_regs (s : State) (z : Size) (r : Reg) (v : z.Val) :
    (setReg s z r v).regs = s.regs.write z r v := rfl
@[simp] theorem setReg_eip (s : State) (z : Size) (r : Reg) (v : z.Val) : (setReg s z r v).eip = s.eip := rfl
@[simp] theorem setReg_flags (s : State) (z : Size) (r : Reg) (v : z.Val) : (setReg s z r v).flags = s.flags := rfl
@[simp] theorem setReg_segs (s : State) (z : Size) (r : Reg) (v : z.Val) : (setReg s z r v).segs = s.segs := rfl
@[simp] theorem setReg_cpl (s : State) (z : Size) (r : Reg) (v : z.Val) : (setReg s z r v).cpl = s.cpl := rfl
@[simp] theorem setReg_sys (s : State) (z : Size) (r : Reg) (v : z.Val) : (setReg s z r v).sys = s.sys := rfl
@[simp] theorem setReg_dbg (s : State) (z : Size) (r : Reg) (v : z.Val) : (setReg s z r v).dbg = s.dbg := rfl
@[simp] theorem setReg_tlb (s : State) (z : Size) (r : Reg) (v : z.Val) : (setReg s z r v).tlb = s.tlb := rfl
@[simp] theorem setReg_latches (s : State) (z : Size) (r : Reg) (v : z.Val) :
    (setReg s z r v).latches = s.latches := rfl
@[simp] theorem setReg_queue (s : State) (z : Size) (r : Reg) (v : z.Val) : (setReg s z r v).queue = s.queue := rfl
@[simp] theorem setReg_mem (s : State) (z : Size) (r : Reg) (v : z.Val) : (setReg s z r v).mem = s.mem := rfl
@[simp] theorem setReg_regions (s : State) (z : Size) (r : Reg) (v : z.Val) :
    (setReg s z r v).regions = s.regions := rfl
@[simp] theorem setReg_io (s : State) (z : Size) (r : Reg) (v : z.Val) : (setReg s z r v).io = s.io := rfl
@[simp] theorem setReg_inputs (s : State) (z : Size) (r : Reg) (v : z.Val) : (setReg s z r v).inputs = s.inputs := rfl
@[simp] theorem setReg_now (s : State) (z : Size) (r : Reg) (v : z.Val) : (setReg s z r v).now = s.now := rfl
@[simp] theorem setReg_cur (s : State) (z : Size) (r : Reg) (v : z.Val) : (setReg s z r v).cur = s.cur := rfl
@[simp] theorem setReg_draws (s : State) (z : Size) (r : Reg) (v : z.Val) : (setReg s z r v).draws = s.draws := rfl

/-! `atSp` -/

@[simp] theorem atSp_regs (s : State) (v : Word) :
    (atSp s v).regs = { s.regs with esp := withSp s.stackSize s.regs.esp v } := rfl
@[simp] theorem atSp_eip (s : State) (v : Word) : (atSp s v).eip = s.eip := rfl
@[simp] theorem atSp_flags (s : State) (v : Word) : (atSp s v).flags = s.flags := rfl
@[simp] theorem atSp_segs (s : State) (v : Word) : (atSp s v).segs = s.segs := rfl
@[simp] theorem atSp_cpl (s : State) (v : Word) : (atSp s v).cpl = s.cpl := rfl
@[simp] theorem atSp_sys (s : State) (v : Word) : (atSp s v).sys = s.sys := rfl
@[simp] theorem atSp_dbg (s : State) (v : Word) : (atSp s v).dbg = s.dbg := rfl
@[simp] theorem atSp_tlb (s : State) (v : Word) : (atSp s v).tlb = s.tlb := rfl
@[simp] theorem atSp_latches (s : State) (v : Word) : (atSp s v).latches = s.latches := rfl
@[simp] theorem atSp_queue (s : State) (v : Word) : (atSp s v).queue = s.queue := rfl
@[simp] theorem atSp_mem (s : State) (v : Word) : (atSp s v).mem = s.mem := rfl
@[simp] theorem atSp_regions (s : State) (v : Word) : (atSp s v).regions = s.regions := rfl
@[simp] theorem atSp_io (s : State) (v : Word) : (atSp s v).io = s.io := rfl
@[simp] theorem atSp_inputs (s : State) (v : Word) : (atSp s v).inputs = s.inputs := rfl
@[simp] theorem atSp_now (s : State) (v : Word) : (atSp s v).now = s.now := rfl
@[simp] theorem atSp_cur (s : State) (v : Word) : (atSp s v).cur = s.cur := rfl
@[simp] theorem atSp_draws (s : State) (v : Word) : (atSp s v).draws = s.draws := rfl

/-! `goTo` -/

@[simp] theorem goTo_regs (s : State) (v : Word) : (goTo s v).regs = s.regs := rfl
@[simp] theorem goTo_eip (s : State) (v : Word) : (goTo s v).eip = v := rfl
@[simp] theorem goTo_flags (s : State) (v : Word) : (goTo s v).flags = s.flags := rfl
@[simp] theorem goTo_segs (s : State) (v : Word) : (goTo s v).segs = s.segs := rfl
@[simp] theorem goTo_cpl (s : State) (v : Word) : (goTo s v).cpl = s.cpl := rfl
@[simp] theorem goTo_sys (s : State) (v : Word) : (goTo s v).sys = s.sys := rfl
@[simp] theorem goTo_dbg (s : State) (v : Word) : (goTo s v).dbg = s.dbg := rfl
@[simp] theorem goTo_tlb (s : State) (v : Word) : (goTo s v).tlb = s.tlb := rfl
@[simp] theorem goTo_latches (s : State) (v : Word) : (goTo s v).latches = s.latches := rfl
@[simp] theorem goTo_queue (s : State) (v : Word) : (goTo s v).queue = [] := rfl
@[simp] theorem goTo_mem (s : State) (v : Word) : (goTo s v).mem = s.mem := rfl
@[simp] theorem goTo_regions (s : State) (v : Word) : (goTo s v).regions = s.regions := rfl
@[simp] theorem goTo_io (s : State) (v : Word) : (goTo s v).io = s.io := rfl
@[simp] theorem goTo_inputs (s : State) (v : Word) : (goTo s v).inputs = s.inputs := rfl
@[simp] theorem goTo_now (s : State) (v : Word) : (goTo s v).now = s.now := rfl
@[simp] theorem goTo_cur (s : State) (v : Word) : (goTo s v).cur = s.cur := rfl
@[simp] theorem goTo_draws (s : State) (v : Word) : (goTo s v).draws = s.draws := rfl

/-! `goFar` -/

@[simp] theorem goFar_regs (s : State) (g : SegReg) (v : Word) : (goFar s g v).regs = s.regs := rfl
@[simp] theorem goFar_eip (s : State) (g : SegReg) (v : Word) : (goFar s g v).eip = v := rfl
@[simp] theorem goFar_flags (s : State) (g : SegReg) (v : Word) : (goFar s g v).flags = s.flags := rfl
@[simp] theorem goFar_segs (s : State) (g : SegReg) (v : Word) : (goFar s g v).segs = s.segs.put .cs g := rfl
@[simp] theorem goFar_cpl (s : State) (g : SegReg) (v : Word) : (goFar s g v).cpl = s.cpl := rfl
@[simp] theorem goFar_sys (s : State) (g : SegReg) (v : Word) : (goFar s g v).sys = s.sys := rfl
@[simp] theorem goFar_dbg (s : State) (g : SegReg) (v : Word) : (goFar s g v).dbg = s.dbg := rfl
@[simp] theorem goFar_tlb (s : State) (g : SegReg) (v : Word) : (goFar s g v).tlb = s.tlb := rfl
@[simp] theorem goFar_latches (s : State) (g : SegReg) (v : Word) : (goFar s g v).latches = s.latches := rfl
@[simp] theorem goFar_queue (s : State) (g : SegReg) (v : Word) : (goFar s g v).queue = [] := rfl
@[simp] theorem goFar_mem (s : State) (g : SegReg) (v : Word) : (goFar s g v).mem = s.mem := rfl
@[simp] theorem goFar_regions (s : State) (g : SegReg) (v : Word) : (goFar s g v).regions = s.regions := rfl
@[simp] theorem goFar_io (s : State) (g : SegReg) (v : Word) : (goFar s g v).io = s.io := rfl
@[simp] theorem goFar_inputs (s : State) (g : SegReg) (v : Word) : (goFar s g v).inputs = s.inputs := rfl
@[simp] theorem goFar_now (s : State) (g : SegReg) (v : Word) : (goFar s g v).now = s.now := rfl
@[simp] theorem goFar_cur (s : State) (g : SegReg) (v : Word) : (goFar s g v).cur = s.cur := rfl
@[simp] theorem goFar_draws (s : State) (g : SegReg) (v : Word) : (goFar s g v).draws = s.draws := rfl

/-! `statusLost` -/

@[simp] theorem statusLost_regs (s : State) : (statusLost s).regs = s.regs := rfl
@[simp] theorem statusLost_eip (s : State) : (statusLost s).eip = s.eip := rfl
@[simp] theorem statusLost_flags (s : State) : (statusLost s).flags = s.flags.undefined (statusAt s.draws) := rfl
@[simp] theorem statusLost_segs (s : State) : (statusLost s).segs = s.segs := rfl
@[simp] theorem statusLost_cpl (s : State) : (statusLost s).cpl = s.cpl := rfl
@[simp] theorem statusLost_sys (s : State) : (statusLost s).sys = s.sys := rfl
@[simp] theorem statusLost_dbg (s : State) : (statusLost s).dbg = s.dbg := rfl
@[simp] theorem statusLost_tlb (s : State) : (statusLost s).tlb = s.tlb := rfl
@[simp] theorem statusLost_latches (s : State) : (statusLost s).latches = s.latches := rfl
@[simp] theorem statusLost_queue (s : State) : (statusLost s).queue = s.queue := rfl
@[simp] theorem statusLost_mem (s : State) : (statusLost s).mem = s.mem := rfl
@[simp] theorem statusLost_regions (s : State) : (statusLost s).regions = s.regions := rfl
@[simp] theorem statusLost_io (s : State) : (statusLost s).io = s.io := rfl
@[simp] theorem statusLost_inputs (s : State) : (statusLost s).inputs = s.inputs := rfl
@[simp] theorem statusLost_now (s : State) : (statusLost s).now = s.now := rfl
@[simp] theorem statusLost_cur (s : State) : (statusLost s).cur = s.cur := rfl
@[simp] theorem statusLost_draws (s : State) : (statusLost s).draws = s.draws + 6 := rfl

/-! `withSeg` -/

@[simp] theorem withSeg_regs (s : State) (r : SReg) (g : SegReg) : (withSeg s r g).regs = s.regs := rfl
@[simp] theorem withSeg_eip (s : State) (r : SReg) (g : SegReg) : (withSeg s r g).eip = s.eip := rfl
@[simp] theorem withSeg_flags (s : State) (r : SReg) (g : SegReg) : (withSeg s r g).flags = s.flags := rfl
@[simp] theorem withSeg_segs (s : State) (r : SReg) (g : SegReg) : (withSeg s r g).segs = s.segs.put r g := rfl
@[simp] theorem withSeg_cpl (s : State) (r : SReg) (g : SegReg) : (withSeg s r g).cpl = s.cpl := rfl
@[simp] theorem withSeg_sys (s : State) (r : SReg) (g : SegReg) : (withSeg s r g).sys = s.sys := rfl
@[simp] theorem withSeg_dbg (s : State) (r : SReg) (g : SegReg) : (withSeg s r g).dbg = s.dbg := rfl
@[simp] theorem withSeg_tlb (s : State) (r : SReg) (g : SegReg) : (withSeg s r g).tlb = s.tlb := rfl
@[simp] theorem withSeg_latches (s : State) (r : SReg) (g : SegReg) : (withSeg s r g).latches = s.latches := rfl
@[simp] theorem withSeg_queue (s : State) (r : SReg) (g : SegReg) : (withSeg s r g).queue = s.queue := rfl
@[simp] theorem withSeg_mem (s : State) (r : SReg) (g : SegReg) : (withSeg s r g).mem = s.mem := rfl
@[simp] theorem withSeg_regions (s : State) (r : SReg) (g : SegReg) : (withSeg s r g).regions = s.regions := rfl
@[simp] theorem withSeg_io (s : State) (r : SReg) (g : SegReg) : (withSeg s r g).io = s.io := rfl
@[simp] theorem withSeg_inputs (s : State) (r : SReg) (g : SegReg) : (withSeg s r g).inputs = s.inputs := rfl
@[simp] theorem withSeg_now (s : State) (r : SReg) (g : SegReg) : (withSeg s r g).now = s.now := rfl
@[simp] theorem withSeg_cur (s : State) (r : SReg) (g : SegReg) : (withSeg s r g).cur = s.cur := rfl
@[simp] theorem withSeg_draws (s : State) (r : SReg) (g : SegReg) : (withSeg s r g).draws = s.draws := rfl

/-! `withCr2` -/

@[simp] theorem withCr2_regs (s : State) (v : Word) : (withCr2 s v).regs = s.regs := rfl
@[simp] theorem withCr2_eip (s : State) (v : Word) : (withCr2 s v).eip = s.eip := rfl
@[simp] theorem withCr2_flags (s : State) (v : Word) : (withCr2 s v).flags = s.flags := rfl
@[simp] theorem withCr2_segs (s : State) (v : Word) : (withCr2 s v).segs = s.segs := rfl
@[simp] theorem withCr2_cpl (s : State) (v : Word) : (withCr2 s v).cpl = s.cpl := rfl
@[simp] theorem withCr2_sys (s : State) (v : Word) : (withCr2 s v).sys = { s.sys with cr2 := v } := rfl
@[simp] theorem withCr2_dbg (s : State) (v : Word) : (withCr2 s v).dbg = s.dbg := rfl
@[simp] theorem withCr2_tlb (s : State) (v : Word) : (withCr2 s v).tlb = s.tlb := rfl
@[simp] theorem withCr2_latches (s : State) (v : Word) : (withCr2 s v).latches = s.latches := rfl
@[simp] theorem withCr2_queue (s : State) (v : Word) : (withCr2 s v).queue = s.queue := rfl
@[simp] theorem withCr2_mem (s : State) (v : Word) : (withCr2 s v).mem = s.mem := rfl
@[simp] theorem withCr2_regions (s : State) (v : Word) : (withCr2 s v).regions = s.regions := rfl
@[simp] theorem withCr2_io (s : State) (v : Word) : (withCr2 s v).io = s.io := rfl
@[simp] theorem withCr2_inputs (s : State) (v : Word) : (withCr2 s v).inputs = s.inputs := rfl
@[simp] theorem withCr2_now (s : State) (v : Word) : (withCr2 s v).now = s.now := rfl
@[simp] theorem withCr2_cur (s : State) (v : Word) : (withCr2 s v).cur = s.cur := rfl
@[simp] theorem withCr2_draws (s : State) (v : Word) : (withCr2 s v).draws = s.draws := rfl

/-! `awake` -/

@[simp] theorem awake_regs (s : State) : (awake s).regs = s.regs := rfl
@[simp] theorem awake_eip (s : State) : (awake s).eip = s.eip := rfl
@[simp] theorem awake_flags (s : State) : (awake s).flags = s.flags := rfl
@[simp] theorem awake_segs (s : State) : (awake s).segs = s.segs := rfl
@[simp] theorem awake_cpl (s : State) : (awake s).cpl = s.cpl := rfl
@[simp] theorem awake_sys (s : State) : (awake s).sys = s.sys := rfl
@[simp] theorem awake_dbg (s : State) : (awake s).dbg = s.dbg := rfl
@[simp] theorem awake_tlb (s : State) : (awake s).tlb = s.tlb := rfl
@[simp] theorem awake_latches (s : State) : (awake s).latches = { s.latches with halted := false } := rfl
@[simp] theorem awake_queue (s : State) : (awake s).queue = s.queue := rfl
@[simp] theorem awake_mem (s : State) : (awake s).mem = s.mem := rfl
@[simp] theorem awake_regions (s : State) : (awake s).regions = s.regions := rfl
@[simp] theorem awake_io (s : State) : (awake s).io = s.io := rfl
@[simp] theorem awake_inputs (s : State) : (awake s).inputs = s.inputs := rfl
@[simp] theorem awake_now (s : State) : (awake s).now = s.now := rfl
@[simp] theorem awake_cur (s : State) : (awake s).cur = s.cur := rfl
@[simp] theorem awake_draws (s : State) : (awake s).draws = s.draws := rfl

/-! `returned` -/

@[simp] theorem returned_regs (s : State) (f : Flags) : (returned s f).regs = s.regs := rfl
@[simp] theorem returned_eip (s : State) (f : Flags) : (returned s f).eip = s.eip := rfl
@[simp] theorem returned_flags (s : State) (f : Flags) : (returned s f).flags = f := rfl
@[simp] theorem returned_segs (s : State) (f : Flags) : (returned s f).segs = s.segs := rfl
@[simp] theorem returned_cpl (s : State) (f : Flags) : (returned s f).cpl = s.cpl := rfl
@[simp] theorem returned_sys (s : State) (f : Flags) : (returned s f).sys = s.sys := rfl
@[simp] theorem returned_dbg (s : State) (f : Flags) : (returned s f).dbg = s.dbg := rfl
@[simp] theorem returned_tlb (s : State) (f : Flags) : (returned s f).tlb = s.tlb := rfl
@[simp] theorem returned_latches (s : State) (f : Flags) :
    (returned s f).latches = { s.latches with nmiBlocked := false } := rfl
@[simp] theorem returned_queue (s : State) (f : Flags) : (returned s f).queue = s.queue := rfl
@[simp] theorem returned_mem (s : State) (f : Flags) : (returned s f).mem = s.mem := rfl
@[simp] theorem returned_regions (s : State) (f : Flags) : (returned s f).regions = s.regions := rfl
@[simp] theorem returned_io (s : State) (f : Flags) : (returned s f).io = s.io := rfl
@[simp] theorem returned_inputs (s : State) (f : Flags) : (returned s f).inputs = s.inputs := rfl
@[simp] theorem returned_now (s : State) (f : Flags) : (returned s f).now = s.now := rfl
@[simp] theorem returned_cur (s : State) (f : Flags) : (returned s f).cur = { s.cur with keepRf := true } := rfl
@[simp] theorem returned_draws (s : State) (f : Flags) : (returned s f).draws = s.draws := rfl

/-! `touched` -/

@[simp] theorem touched_regs (s : State) (x : Trace) : (touched s x).regs = s.regs := rfl
@[simp] theorem touched_eip (s : State) (x : Trace) : (touched s x).eip = s.eip := rfl
@[simp] theorem touched_flags (s : State) (x : Trace) : (touched s x).flags = s.flags := rfl
@[simp] theorem touched_segs (s : State) (x : Trace) : (touched s x).segs = s.segs := rfl
@[simp] theorem touched_cpl (s : State) (x : Trace) : (touched s x).cpl = s.cpl := rfl
@[simp] theorem touched_sys (s : State) (x : Trace) : (touched s x).sys = s.sys := rfl
@[simp] theorem touched_dbg (s : State) (x : Trace) : (touched s x).dbg = s.dbg := rfl
@[simp] theorem touched_tlb (s : State) (x : Trace) : (touched s x).tlb = { s.tlb with entries := x.entries } := rfl
@[simp] theorem touched_latches (s : State) (x : Trace) : (touched s x).latches = s.latches := rfl
@[simp] theorem touched_queue (s : State) (x : Trace) : (touched s x).queue = s.queue := rfl
@[simp] theorem touched_mem (s : State) (x : Trace) :
    (touched s x).mem = Mem.after s.regions (settings x.sets).reverse s.mem := rfl
@[simp] theorem touched_regions (s : State) (x : Trace) : (touched s x).regions = s.regions := rfl
@[simp] theorem touched_io (s : State) (x : Trace) : (touched s x).io = settings x.sets ++ s.io := rfl
@[simp] theorem touched_inputs (s : State) (x : Trace) : (touched s x).inputs = s.inputs := rfl
@[simp] theorem touched_now (s : State) (x : Trace) : (touched s x).now = { s.now with pages := x.choices } := rfl
@[simp] theorem touched_cur (s : State) (x : Trace) : (touched s x).cur = { s.cur with hits := x.hits } := rfl
@[simp] theorem touched_draws (s : State) (x : Trace) : (touched s x).draws = x.draws := rfl

/-! `setDr6` -/

@[simp] theorem setDr6_regs (bits : Word) (s : State) : (setDr6 bits s).regs = s.regs := rfl
@[simp] theorem setDr6_eip (bits : Word) (s : State) : (setDr6 bits s).eip = s.eip := rfl
@[simp] theorem setDr6_flags (bits : Word) (s : State) : (setDr6 bits s).flags = s.flags := rfl
@[simp] theorem setDr6_segs (bits : Word) (s : State) : (setDr6 bits s).segs = s.segs := rfl
@[simp] theorem setDr6_cpl (bits : Word) (s : State) : (setDr6 bits s).cpl = s.cpl := rfl
@[simp] theorem setDr6_sys (bits : Word) (s : State) : (setDr6 bits s).sys = s.sys := rfl
@[simp] theorem setDr6_dbg (bits : Word) (s : State) :
    (setDr6 bits s).dbg = { s.dbg with dr6 := s.dbg.dr6 ||| bits ||| s.latches.deferred.setWidth 32 } := rfl
@[simp] theorem setDr6_tlb (bits : Word) (s : State) : (setDr6 bits s).tlb = s.tlb := rfl
@[simp] theorem setDr6_latches (bits : Word) (s : State) :
    (setDr6 bits s).latches = { s.latches with deferred := 0 } := rfl
@[simp] theorem setDr6_queue (bits : Word) (s : State) : (setDr6 bits s).queue = s.queue := rfl
@[simp] theorem setDr6_mem (bits : Word) (s : State) : (setDr6 bits s).mem = s.mem := rfl
@[simp] theorem setDr6_regions (bits : Word) (s : State) : (setDr6 bits s).regions = s.regions := rfl
@[simp] theorem setDr6_io (bits : Word) (s : State) : (setDr6 bits s).io = s.io := rfl
@[simp] theorem setDr6_inputs (bits : Word) (s : State) : (setDr6 bits s).inputs = s.inputs := rfl
@[simp] theorem setDr6_now (bits : Word) (s : State) : (setDr6 bits s).now = s.now := rfl
@[simp] theorem setDr6_cur (bits : Word) (s : State) : (setDr6 bits s).cur = s.cur := rfl
@[simp] theorem setDr6_draws (bits : Word) (s : State) : (setDr6 bits s).draws = s.draws := rfl

/-! `enterShutdown` -/

@[simp] theorem enterShutdown_regs (s : State) : (enterShutdown s).regs = s.regs := rfl
@[simp] theorem enterShutdown_eip (s : State) : (enterShutdown s).eip = s.eip := rfl
@[simp] theorem enterShutdown_flags (s : State) : (enterShutdown s).flags = s.flags := rfl
@[simp] theorem enterShutdown_segs (s : State) : (enterShutdown s).segs = s.segs := rfl
@[simp] theorem enterShutdown_cpl (s : State) : (enterShutdown s).cpl = s.cpl := rfl
@[simp] theorem enterShutdown_sys (s : State) : (enterShutdown s).sys = s.sys := rfl
@[simp] theorem enterShutdown_dbg (s : State) : (enterShutdown s).dbg = s.dbg := rfl
@[simp] theorem enterShutdown_tlb (s : State) : (enterShutdown s).tlb = s.tlb := rfl
@[simp] theorem enterShutdown_latches (s : State) :
    (enterShutdown s).latches = { s.latches with shutdown := true, halted := false } := rfl
@[simp] theorem enterShutdown_queue (s : State) : (enterShutdown s).queue = s.queue := rfl
@[simp] theorem enterShutdown_mem (s : State) : (enterShutdown s).mem = s.mem := rfl
@[simp] theorem enterShutdown_regions (s : State) : (enterShutdown s).regions = s.regions := rfl
@[simp] theorem enterShutdown_io (s : State) : (enterShutdown s).io = .shutdown :: s.io := rfl
@[simp] theorem enterShutdown_inputs (s : State) : (enterShutdown s).inputs = s.inputs := rfl
@[simp] theorem enterShutdown_now (s : State) : (enterShutdown s).now = s.now := rfl
@[simp] theorem enterShutdown_cur (s : State) : (enterShutdown s).cur = s.cur := rfl
@[simp] theorem enterShutdown_draws (s : State) : (enterShutdown s).draws = s.draws := rfl

/-! `latchNmi` -/

@[simp] theorem latchNmi_regs (s : State) : (latchNmi s).regs = s.regs := rfl
@[simp] theorem latchNmi_eip (s : State) : (latchNmi s).eip = s.eip := rfl
@[simp] theorem latchNmi_flags (s : State) : (latchNmi s).flags = s.flags := rfl
@[simp] theorem latchNmi_segs (s : State) : (latchNmi s).segs = s.segs := rfl
@[simp] theorem latchNmi_cpl (s : State) : (latchNmi s).cpl = s.cpl := rfl
@[simp] theorem latchNmi_sys (s : State) : (latchNmi s).sys = s.sys := rfl
@[simp] theorem latchNmi_dbg (s : State) : (latchNmi s).dbg = s.dbg := rfl
@[simp] theorem latchNmi_tlb (s : State) : (latchNmi s).tlb = s.tlb := rfl
@[simp] theorem latchNmi_latches (s : State) :
    (latchNmi s).latches = { s.latches with nmiPending := s.latches.nmiPending || s.now.nmi } := rfl
@[simp] theorem latchNmi_queue (s : State) : (latchNmi s).queue = s.queue := rfl
@[simp] theorem latchNmi_mem (s : State) : (latchNmi s).mem = s.mem := rfl
@[simp] theorem latchNmi_regions (s : State) : (latchNmi s).regions = s.regions := rfl
@[simp] theorem latchNmi_io (s : State) : (latchNmi s).io = s.io := rfl
@[simp] theorem latchNmi_inputs (s : State) : (latchNmi s).inputs = s.inputs := rfl
@[simp] theorem latchNmi_now (s : State) : (latchNmi s).now = s.now := rfl
@[simp] theorem latchNmi_cur (s : State) : (latchNmi s).cur = s.cur := rfl
@[simp] theorem latchNmi_draws (s : State) : (latchNmi s).draws = s.draws := rfl

/-! `beginInstr` -/

@[simp] theorem beginInstr_regs (s : State) : (beginInstr s).regs = s.regs := rfl
@[simp] theorem beginInstr_eip (s : State) : (beginInstr s).eip = s.eip := rfl
@[simp] theorem beginInstr_flags (s : State) : (beginInstr s).flags = s.flags := rfl
@[simp] theorem beginInstr_segs (s : State) : (beginInstr s).segs = s.segs := rfl
@[simp] theorem beginInstr_cpl (s : State) : (beginInstr s).cpl = s.cpl := rfl
@[simp] theorem beginInstr_sys (s : State) : (beginInstr s).sys = s.sys := rfl
@[simp] theorem beginInstr_dbg (s : State) : (beginInstr s).dbg = s.dbg := rfl
@[simp] theorem beginInstr_tlb (s : State) : (beginInstr s).tlb = s.tlb := rfl
@[simp] theorem beginInstr_latches (s : State) :
    (beginInstr s).latches = { s.latches with inhibit := false, stiShadow := false } := rfl
@[simp] theorem beginInstr_queue (s : State) : (beginInstr s).queue = s.queue := rfl
@[simp] theorem beginInstr_mem (s : State) : (beginInstr s).mem = s.mem := rfl
@[simp] theorem beginInstr_regions (s : State) : (beginInstr s).regions = s.regions := rfl
@[simp] theorem beginInstr_io (s : State) : (beginInstr s).io = s.io := rfl
@[simp] theorem beginInstr_inputs (s : State) : (beginInstr s).inputs = s.inputs := rfl
@[simp] theorem beginInstr_now (s : State) : (beginInstr s).now = s.now := rfl
@[simp] theorem beginInstr_cur (s : State) :
    (beginInstr s).cur = { Cur.none with start := s.eip, mode := oldMode s, fetchHits := instrHits s } := rfl
@[simp] theorem beginInstr_draws (s : State) :
    (beginInstr s).draws = s.draws + 1 := rfl

/-! `flushTlb` -/

@[simp] theorem flushTlb_regs (s : State) : (flushTlb s).regs = s.regs := rfl
@[simp] theorem flushTlb_eip (s : State) : (flushTlb s).eip = s.eip := rfl
@[simp] theorem flushTlb_flags (s : State) : (flushTlb s).flags = s.flags := rfl
@[simp] theorem flushTlb_segs (s : State) : (flushTlb s).segs = s.segs := rfl
@[simp] theorem flushTlb_cpl (s : State) : (flushTlb s).cpl = s.cpl := rfl
@[simp] theorem flushTlb_sys (s : State) : (flushTlb s).sys = s.sys := rfl
@[simp] theorem flushTlb_dbg (s : State) : (flushTlb s).dbg = s.dbg := rfl
@[simp] theorem flushTlb_tlb (s : State) :
    (flushTlb s).tlb =
      { s.tlb with entries := s.tlb.entries.map fun e => { e with valid := false }, flushed := true } := rfl
@[simp] theorem flushTlb_latches (s : State) : (flushTlb s).latches = s.latches := rfl
@[simp] theorem flushTlb_queue (s : State) : (flushTlb s).queue = s.queue := rfl
@[simp] theorem flushTlb_mem (s : State) : (flushTlb s).mem = s.mem := rfl
@[simp] theorem flushTlb_regions (s : State) : (flushTlb s).regions = s.regions := rfl
@[simp] theorem flushTlb_io (s : State) : (flushTlb s).io = s.io := rfl
@[simp] theorem flushTlb_inputs (s : State) : (flushTlb s).inputs = s.inputs := rfl
@[simp] theorem flushTlb_now (s : State) : (flushTlb s).now = s.now := rfl
@[simp] theorem flushTlb_cur (s : State) : (flushTlb s).cur = s.cur := rfl
@[simp] theorem flushTlb_draws (s : State) : (flushTlb s).draws = s.draws := rfl

/-! `dropTlb` -/

@[simp] theorem dropTlb_regs (m : BitVec 32) (s : State) : (dropTlb m s).regs = s.regs := rfl
@[simp] theorem dropTlb_eip (m : BitVec 32) (s : State) : (dropTlb m s).eip = s.eip := rfl
@[simp] theorem dropTlb_flags (m : BitVec 32) (s : State) : (dropTlb m s).flags = s.flags := rfl
@[simp] theorem dropTlb_segs (m : BitVec 32) (s : State) : (dropTlb m s).segs = s.segs := rfl
@[simp] theorem dropTlb_cpl (m : BitVec 32) (s : State) : (dropTlb m s).cpl = s.cpl := rfl
@[simp] theorem dropTlb_sys (m : BitVec 32) (s : State) : (dropTlb m s).sys = s.sys := rfl
@[simp] theorem dropTlb_dbg (m : BitVec 32) (s : State) : (dropTlb m s).dbg = s.dbg := rfl
@[simp] theorem dropTlb_tlb (m : BitVec 32) (s : State) :
    (dropTlb m s).tlb =
      { s.tlb with entries := s.tlb.entries.map fun e => { e with valid := e.valid && !e.inMask m } } := rfl
@[simp] theorem dropTlb_latches (m : BitVec 32) (s : State) : (dropTlb m s).latches = s.latches := rfl
@[simp] theorem dropTlb_queue (m : BitVec 32) (s : State) : (dropTlb m s).queue = s.queue := rfl
@[simp] theorem dropTlb_mem (m : BitVec 32) (s : State) : (dropTlb m s).mem = s.mem := rfl
@[simp] theorem dropTlb_regions (m : BitVec 32) (s : State) : (dropTlb m s).regions = s.regions := rfl
@[simp] theorem dropTlb_io (m : BitVec 32) (s : State) : (dropTlb m s).io = s.io := rfl
@[simp] theorem dropTlb_inputs (m : BitVec 32) (s : State) : (dropTlb m s).inputs = s.inputs := rfl
@[simp] theorem dropTlb_now (m : BitVec 32) (s : State) : (dropTlb m s).now = s.now := rfl
@[simp] theorem dropTlb_cur (m : BitVec 32) (s : State) : (dropTlb m s).cur = s.cur := rfl
@[simp] theorem dropTlb_draws (m : BitVec 32) (s : State) : (dropTlb m s).draws = s.draws := rfl

/-! `rollback` -/

@[simp] theorem rollback_regs (s u : State) : (rollback s u).regs = s.regs := rfl
@[simp] theorem rollback_eip (s u : State) : (rollback s u).eip = s.eip := rfl
@[simp] theorem rollback_flags (s u : State) : (rollback s u).flags = s.flags := rfl
@[simp] theorem rollback_segs (s u : State) : (rollback s u).segs = s.segs := rfl
@[simp] theorem rollback_cpl (s u : State) : (rollback s u).cpl = s.cpl := rfl
@[simp] theorem rollback_sys (s u : State) : (rollback s u).sys = { s.sys with cr2 := u.sys.cr2 } := rfl
@[simp] theorem rollback_dbg (s u : State) : (rollback s u).dbg = s.dbg := rfl
@[simp] theorem rollback_tlb (s u : State) : (rollback s u).tlb = { s.tlb with entries := u.tlb.entries } := rfl
@[simp] theorem rollback_latches (s u : State) : (rollback s u).latches = s.latches := rfl
@[simp] theorem rollback_queue (s u : State) : (rollback s u).queue = s.queue := rfl
@[simp] theorem rollback_mem (s u : State) :
    (rollback s u).mem = Mem.after s.regions (keptEvents s u).reverse s.mem := rfl
@[simp] theorem rollback_regions (s u : State) : (rollback s u).regions = s.regions := rfl
@[simp] theorem rollback_io (s u : State) : (rollback s u).io = keptEvents s u ++ s.io := rfl
@[simp] theorem rollback_inputs (s u : State) : (rollback s u).inputs = s.inputs := rfl
@[simp] theorem rollback_now (s u : State) : (rollback s u).now = u.now := rfl
@[simp] theorem rollback_cur (s u : State) : (rollback s u).cur = s.cur := rfl
@[simp] theorem rollback_draws (s u : State) : (rollback s u).draws = u.draws := rfl

/-! `currentMode` -/

@[simp] theorem currentMode_regs (s : State) : (currentMode s).regs = s.regs := rfl
@[simp] theorem currentMode_eip (s : State) : (currentMode s).eip = s.eip := rfl
@[simp] theorem currentMode_flags (s : State) : (currentMode s).flags = s.flags := rfl
@[simp] theorem currentMode_segs (s : State) : (currentMode s).segs = s.segs := rfl
@[simp] theorem currentMode_cpl (s : State) : (currentMode s).cpl = s.cpl := rfl
@[simp] theorem currentMode_sys (s : State) : (currentMode s).sys = s.sys := rfl
@[simp] theorem currentMode_dbg (s : State) : (currentMode s).dbg = s.dbg := rfl
@[simp] theorem currentMode_tlb (s : State) : (currentMode s).tlb = s.tlb := rfl
@[simp] theorem currentMode_latches (s : State) : (currentMode s).latches = s.latches := rfl
@[simp] theorem currentMode_queue (s : State) : (currentMode s).queue = s.queue := rfl
@[simp] theorem currentMode_mem (s : State) : (currentMode s).mem = s.mem := rfl
@[simp] theorem currentMode_regions (s : State) : (currentMode s).regions = s.regions := rfl
@[simp] theorem currentMode_io (s : State) : (currentMode s).io = s.io := rfl
@[simp] theorem currentMode_inputs (s : State) : (currentMode s).inputs = s.inputs := rfl
@[simp] theorem currentMode_now (s : State) : (currentMode s).now = s.now := rfl
@[simp] theorem currentMode_cur (s : State) : (currentMode s).cur = { s.cur with mode := none } := rfl
@[simp] theorem currentMode_draws (s : State) : (currentMode s).draws = s.draws := rfl

/-! `settled` -/

@[simp] theorem settled_regs (s : State) : (settled s).regs = s.regs := rfl
@[simp] theorem settled_eip (s : State) : (settled s).eip = s.eip := rfl
@[simp] theorem settled_flags (s : State) : (settled s).flags = s.flags := rfl
@[simp] theorem settled_segs (s : State) : (settled s).segs = s.segs := rfl
@[simp] theorem settled_cpl (s : State) : (settled s).cpl = if s.sys.cr0.pe then s.cpl else 0 := rfl
@[simp] theorem settled_sys (s : State) : (settled s).sys = s.sys := rfl
@[simp] theorem settled_dbg (s : State) : (settled s).dbg = s.dbg := rfl
@[simp] theorem settled_tlb (s : State) : (settled s).tlb = s.tlb := rfl
@[simp] theorem settled_latches (s : State) : (settled s).latches = s.latches := rfl
@[simp] theorem settled_queue (s : State) : (settled s).queue = s.queue := rfl
@[simp] theorem settled_mem (s : State) : (settled s).mem = s.mem := rfl
@[simp] theorem settled_regions (s : State) : (settled s).regions = s.regions := rfl
@[simp] theorem settled_io (s : State) : (settled s).io = s.io := rfl
@[simp] theorem settled_inputs (s : State) : (settled s).inputs = s.inputs := rfl
@[simp] theorem settled_now (s : State) : (settled s).now = Tick.quiet := rfl
@[simp] theorem settled_cur (s : State) : (settled s).cur = Cur.none := rfl
@[simp] theorem settled_draws (s : State) : (settled s).draws = s.draws := rfl

/-! `usedHits` -/

@[simp] theorem usedHits_regs (s : State) : (usedHits s).regs = s.regs := rfl
@[simp] theorem usedHits_eip (s : State) : (usedHits s).eip = s.eip := rfl
@[simp] theorem usedHits_flags (s : State) : (usedHits s).flags = s.flags := rfl
@[simp] theorem usedHits_segs (s : State) : (usedHits s).segs = s.segs := rfl
@[simp] theorem usedHits_cpl (s : State) : (usedHits s).cpl = s.cpl := rfl
@[simp] theorem usedHits_sys (s : State) : (usedHits s).sys = s.sys := rfl
@[simp] theorem usedHits_dbg (s : State) : (usedHits s).dbg = s.dbg := rfl
@[simp] theorem usedHits_tlb (s : State) : (usedHits s).tlb = s.tlb := rfl
@[simp] theorem usedHits_latches (s : State) : (usedHits s).latches = s.latches := rfl
@[simp] theorem usedHits_queue (s : State) : (usedHits s).queue = s.queue := rfl
@[simp] theorem usedHits_mem (s : State) : (usedHits s).mem = s.mem := rfl
@[simp] theorem usedHits_regions (s : State) : (usedHits s).regions = s.regions := rfl
@[simp] theorem usedHits_io (s : State) : (usedHits s).io = s.io := rfl
@[simp] theorem usedHits_inputs (s : State) : (usedHits s).inputs = s.inputs := rfl
@[simp] theorem usedHits_now (s : State) : (usedHits s).now = s.now := rfl
@[simp] theorem usedHits_cur (s : State) : (usedHits s).cur = s.cur := rfl
@[simp] theorem usedHits_draws (s : State) : (usedHits s).draws = s.draws + 1 := rfl

/-! `atLevel` -/

@[simp] theorem atLevel_regs (s : State) (sel : Half) (l : BitVec 2) (d : Desc) (off : Word) :
    (atLevel s sel l d off).regs = s.regs := rfl
@[simp] theorem atLevel_eip (s : State) (sel : Half) (l : BitVec 2) (d : Desc) (off : Word) :
    (atLevel s sel l d off).eip = off := rfl
@[simp] theorem atLevel_flags (s : State) (sel : Half) (l : BitVec 2) (d : Desc) (off : Word) :
    (atLevel s sel l d off).flags = s.flags := rfl
@[simp] theorem atLevel_segs (s : State) (sel : Half) (l : BitVec 2) (d : Desc) (off : Word) :
    (atLevel s sel l d off).segs = s.segs.put .cs (csOfDesc sel l d) := rfl
@[simp] theorem atLevel_cpl (s : State) (sel : Half) (l : BitVec 2) (d : Desc) (off : Word) :
    (atLevel s sel l d off).cpl = l := rfl
@[simp] theorem atLevel_sys (s : State) (sel : Half) (l : BitVec 2) (d : Desc) (off : Word) :
    (atLevel s sel l d off).sys = s.sys := rfl
@[simp] theorem atLevel_dbg (s : State) (sel : Half) (l : BitVec 2) (d : Desc) (off : Word) :
    (atLevel s sel l d off).dbg = s.dbg := rfl
@[simp] theorem atLevel_tlb (s : State) (sel : Half) (l : BitVec 2) (d : Desc) (off : Word) :
    (atLevel s sel l d off).tlb = s.tlb := rfl
@[simp] theorem atLevel_latches (s : State) (sel : Half) (l : BitVec 2) (d : Desc) (off : Word) :
    (atLevel s sel l d off).latches = s.latches := rfl
@[simp] theorem atLevel_queue (s : State) (sel : Half) (l : BitVec 2) (d : Desc) (off : Word) :
    (atLevel s sel l d off).queue = [] := rfl
@[simp] theorem atLevel_mem (s : State) (sel : Half) (l : BitVec 2) (d : Desc) (off : Word) :
    (atLevel s sel l d off).mem = s.mem := rfl
@[simp] theorem atLevel_regions (s : State) (sel : Half) (l : BitVec 2) (d : Desc) (off : Word) :
    (atLevel s sel l d off).regions = s.regions := rfl
@[simp] theorem atLevel_io (s : State) (sel : Half) (l : BitVec 2) (d : Desc) (off : Word) :
    (atLevel s sel l d off).io = s.io := rfl
@[simp] theorem atLevel_inputs (s : State) (sel : Half) (l : BitVec 2) (d : Desc) (off : Word) :
    (atLevel s sel l d off).inputs = s.inputs := rfl
@[simp] theorem atLevel_now (s : State) (sel : Half) (l : BitVec 2) (d : Desc) (off : Word) :
    (atLevel s sel l d off).now = s.now := rfl
@[simp] theorem atLevel_cur (s : State) (sel : Half) (l : BitVec 2) (d : Desc) (off : Word) :
    (atLevel s sel l d off).cur = s.cur := rfl
@[simp] theorem atLevel_draws (s : State) (sel : Half) (l : BitVec 2) (d : Desc) (off : Word) :
    (atLevel s sel l d off).draws = s.draws := rfl

/-! `onStack` -/

@[simp] theorem onStack_regs (s : State) (ss : Half) (d : Desc) (big : Bool) (esp : Word) :
    (onStack s ss d big esp).regs = { s.regs with esp := withSp (if big then .a32 else .a16) s.regs.esp esp } := rfl
@[simp] theorem onStack_eip (s : State) (ss : Half) (d : Desc) (big : Bool) (esp : Word) :
    (onStack s ss d big esp).eip = s.eip := rfl
@[simp] theorem onStack_flags (s : State) (ss : Half) (d : Desc) (big : Bool) (esp : Word) :
    (onStack s ss d big esp).flags = s.flags := rfl
@[simp] theorem onStack_segs (s : State) (ss : Half) (d : Desc) (big : Bool) (esp : Word) :
    (onStack s ss d big esp).segs = s.segs.put .ss (d.accessed.toSeg ss) := rfl
@[simp] theorem onStack_cpl (s : State) (ss : Half) (d : Desc) (big : Bool) (esp : Word) :
    (onStack s ss d big esp).cpl = s.cpl := rfl
@[simp] theorem onStack_sys (s : State) (ss : Half) (d : Desc) (big : Bool) (esp : Word) :
    (onStack s ss d big esp).sys = s.sys := rfl
@[simp] theorem onStack_dbg (s : State) (ss : Half) (d : Desc) (big : Bool) (esp : Word) :
    (onStack s ss d big esp).dbg = s.dbg := rfl
@[simp] theorem onStack_tlb (s : State) (ss : Half) (d : Desc) (big : Bool) (esp : Word) :
    (onStack s ss d big esp).tlb = s.tlb := rfl
@[simp] theorem onStack_latches (s : State) (ss : Half) (d : Desc) (big : Bool) (esp : Word) :
    (onStack s ss d big esp).latches = s.latches := rfl
@[simp] theorem onStack_queue (s : State) (ss : Half) (d : Desc) (big : Bool) (esp : Word) :
    (onStack s ss d big esp).queue = s.queue := rfl
@[simp] theorem onStack_mem (s : State) (ss : Half) (d : Desc) (big : Bool) (esp : Word) :
    (onStack s ss d big esp).mem = s.mem := rfl
@[simp] theorem onStack_regions (s : State) (ss : Half) (d : Desc) (big : Bool) (esp : Word) :
    (onStack s ss d big esp).regions = s.regions := rfl
@[simp] theorem onStack_io (s : State) (ss : Half) (d : Desc) (big : Bool) (esp : Word) :
    (onStack s ss d big esp).io = s.io := rfl
@[simp] theorem onStack_inputs (s : State) (ss : Half) (d : Desc) (big : Bool) (esp : Word) :
    (onStack s ss d big esp).inputs = s.inputs := rfl
@[simp] theorem onStack_now (s : State) (ss : Half) (d : Desc) (big : Bool) (esp : Word) :
    (onStack s ss d big esp).now = s.now := rfl
@[simp] theorem onStack_cur (s : State) (ss : Half) (d : Desc) (big : Bool) (esp : Word) :
    (onStack s ss d big esp).cur = s.cur := rfl
@[simp] theorem onStack_draws (s : State) (ss : Half) (d : Desc) (big : Bool) (esp : Word) :
    (onStack s ss d big esp).draws = s.draws := rfl

/-! The mode and the stack of `markPoint` -/

@[simp] theorem markPoint_pe (s : State) : (markPoint s).pe = s.pe := rfl
@[simp] theorem markPoint_isReal (s : State) : (markPoint s).isReal = s.isReal := rfl
@[simp] theorem markPoint_isV86 (s : State) : (markPoint s).isV86 = s.isV86 := rfl
@[simp] theorem markPoint_isProtected (s : State) : (markPoint s).isProtected = s.isProtected := rfl
@[simp] theorem markPoint_curCpl (s : State) : (markPoint s).curCpl = s.curCpl := rfl
@[simp] theorem markPoint_stackSize (s : State) : (markPoint s).stackSize = s.stackSize := rfl

/-! The mode and the stack of `touched` -/

@[simp] theorem touched_pe (s : State) (x : Trace) : (touched s x).pe = s.pe := rfl
@[simp] theorem touched_isReal (s : State) (x : Trace) : (touched s x).isReal = s.isReal := rfl
@[simp] theorem touched_isV86 (s : State) (x : Trace) : (touched s x).isV86 = s.isV86 := rfl
@[simp] theorem touched_isProtected (s : State) (x : Trace) : (touched s x).isProtected = s.isProtected := rfl
@[simp] theorem touched_curCpl (s : State) (x : Trace) : (touched s x).curCpl = s.curCpl := rfl
@[simp] theorem touched_stackSize (s : State) (x : Trace) : (touched s x).stackSize = s.stackSize := rfl

/-! The mode and the stack of `setReg` -/

@[simp] theorem setReg_pe (s : State) (z : Size) (r : Reg) (v : z.Val) : (setReg s z r v).pe = s.pe := rfl
@[simp] theorem setReg_isReal (s : State) (z : Size) (r : Reg) (v : z.Val) : (setReg s z r v).isReal = s.isReal := rfl
@[simp] theorem setReg_isV86 (s : State) (z : Size) (r : Reg) (v : z.Val) : (setReg s z r v).isV86 = s.isV86 := rfl
@[simp] theorem setReg_isProtected (s : State) (z : Size) (r : Reg) (v : z.Val) :
    (setReg s z r v).isProtected = s.isProtected := rfl
@[simp] theorem setReg_curCpl (s : State) (z : Size) (r : Reg) (v : z.Val) : (setReg s z r v).curCpl = s.curCpl := rfl
@[simp] theorem setReg_stackSize (s : State) (z : Size) (r : Reg) (v : z.Val) :
    (setReg s z r v).stackSize = s.stackSize := rfl

/-! The mode and the stack of `atSp` -/

@[simp] theorem atSp_pe (s : State) (v : Word) : (atSp s v).pe = s.pe := rfl
@[simp] theorem atSp_isReal (s : State) (v : Word) : (atSp s v).isReal = s.isReal := rfl
@[simp] theorem atSp_isV86 (s : State) (v : Word) : (atSp s v).isV86 = s.isV86 := rfl
@[simp] theorem atSp_isProtected (s : State) (v : Word) : (atSp s v).isProtected = s.isProtected := rfl
@[simp] theorem atSp_curCpl (s : State) (v : Word) : (atSp s v).curCpl = s.curCpl := rfl
@[simp] theorem atSp_stackSize (s : State) (v : Word) : (atSp s v).stackSize = s.stackSize := rfl

/-! The mode and the stack of `goTo` -/

@[simp] theorem goTo_pe (s : State) (v : Word) : (goTo s v).pe = s.pe := rfl
@[simp] theorem goTo_isReal (s : State) (v : Word) : (goTo s v).isReal = s.isReal := rfl
@[simp] theorem goTo_isV86 (s : State) (v : Word) : (goTo s v).isV86 = s.isV86 := rfl
@[simp] theorem goTo_isProtected (s : State) (v : Word) : (goTo s v).isProtected = s.isProtected := rfl
@[simp] theorem goTo_curCpl (s : State) (v : Word) : (goTo s v).curCpl = s.curCpl := rfl
@[simp] theorem goTo_stackSize (s : State) (v : Word) : (goTo s v).stackSize = s.stackSize := rfl

end Sys2Proof.Machine
end

