-- ==== Sys2Proof/Tests/Slice0.lean ====
section
/-! SUPPORT. Tests: ill-formed terms that the check refuses, encodings written out from the opcode table, single steps
whose outcome is that of the spec's worked examples, vectors (spec/95_test_vectors.md) and rules, and for every statement with
hypotheses states that meet them. -/

namespace Sys2Proof.Tests

open Sys2Proof.Machine

/-! ### Helpers -/

/-- Bytes stored from an address on, the last one first: the list of cells then grows at its head. -/
def putBytes (a : Nat) (bs : List Byte) (m : List Host.Cell) : List Host.Cell :=
  match bs with
  | [] => m
  | b :: rest => Mem.write (putBytes (a + 1) rest m) a b

/-- A state with bytes stored. -/
def withBytes (a : Nat) (bs : List Byte) (s : State) : State := { s with mem := putBytes a bs s.mem }

/-- Whether the bytes from an address on are these. -/
def holds (s : State) (a : Nat) (bs : List Byte) : Bool :=
  match bs with
  | [] => true
  | b :: rest => Mem.read s.mem a == b && holds s (a + 1) rest

/-- The general registers EAX, ECX, EDX, EBX as given; ESP is 1000H and the others are 0. -/
def regs4 (a c d b : Word) : Regs :=
  { eax := a, ecx := c, edx := d, ebx := b, esp := 0x1000, ebp := 0, esi := 0, edi := 0 }

/-- No flag set. -/
def flags0 : Flags := State.reset.flags

/-- Real-address mode with CS = 0000H and IP = 0100H, the code stored there. -/
def real (code : List Byte) (g : Regs) (f : Flags) : State :=
  { State.reset with
    regs := g
    flags := f
    eip := 0x100
    segs := { State.reset.segs with cs := { SegReg.reset with typ := 11 } }
    mem := putBytes 0x100 code [] }

/-- A flat 32-bit segment. -/
def flat (sel : Half) (typ : BitVec 4) (dpl : BitVec 2) : SegReg :=
  { sel := sel, base := 0, limit := 0xFFFFFFFF, valid := true, typ := typ, dt := true, dpl := dpl, db := true }

/-- A GDT at 1000H: flat code and data of level 0 (08H, 10H) and 3 (18H, 20H), a busy and an available 386 SX TSS (28H,
30H), an 80286 call gate to 5000H with two parameters (38H), conforming code of level 0 (40H), an LDT (48H), data that is
not present (50H), a task gate (58H), and a busy and an available 80286 TSS (60H, 68H). -/
def gdt : List Byte :=
  [0, 0, 0, 0, 0, 0, 0, 0] ++
  [0xFF, 0xFF, 0, 0, 0, 0x9A, 0xCF, 0] ++ [0xFF, 0xFF, 0, 0, 0, 0x92, 0xCF, 0] ++
  [0xFF, 0xFF, 0, 0, 0, 0xFA, 0xCF, 0] ++ [0xFF, 0xFF, 0, 0, 0, 0xF2, 0xCF, 0] ++
  [0x67, 0, 0, 0x20, 0, 0x8B, 0, 0] ++ [0x67, 0, 0, 0x30, 0, 0x89, 0, 0] ++
  [0, 0x50, 8, 0, 2, 0xE4, 0, 0] ++ [0xFF, 0xFF, 0, 0, 0, 0x9E, 0xCF, 0] ++
  [0x17, 0, 0, 0x40, 0, 0x82, 0, 0] ++ [0xFF, 0xFF, 0, 0, 0, 0x12, 0xCF, 0] ++
  [0, 0, 0x30, 0, 0, 0xE5, 0, 0] ++
  [0x2B, 0, 0, 0x38, 0, 0x83, 0, 0] ++ [0x2B, 0, 0, 0x39, 0, 0x81, 0, 0]

/-- An IDT at 800H: 80286 interrupt gates for the vectors 13 and 14 (7000H, 7100H) and 21H (6000H), an 80286 trap gate of
level 3 (22H), a task gate of level 3 (23H), a 386 SX interrupt gate of level 3 (24H), and one of them not present
(25H). The entries hold no value that the spec leaves open, so that a test can be evaluated. -/
def idt (m : List Host.Cell) : List Host.Cell :=
  putBytes 0x868 [0, 0x70, 8, 0, 0, 0x86, 0, 0, 0, 0x71, 8, 0, 0, 0x86, 0, 0]
    (putBytes 0x908
      ([0, 0x60, 8, 0, 0, 0x86, 0, 0] ++ [0, 0x60, 8, 0, 0, 0xE7, 0, 0] ++ [0, 0, 0x30, 0, 0, 0xE5, 0, 0] ++
        [0, 0x60, 8, 0, 0, 0xEE, 0, 0] ++ [0, 0x60, 8, 0, 0, 0x6E, 0, 0]) m)

/-- The TSS at 2000H gives the stack 0010H:9000H for level 0, and an I/O map base of 68H with ports 0 to 6 free. The TSS
at 3000H and the 80286 TSS at 3900H start a task of level 3 at 001BH:A000H. -/
def tss (m : List Host.Cell) : List Host.Cell :=
  putBytes 0x2004 [0, 0x90, 0, 0, 0x10, 0, 0, 0]
    (putBytes 0x2066 [0x68, 0, 0x80, 0]
      (putBytes 0x3020
        ([0, 0xA0, 0, 0, 3, 2, 0, 0] ++ [0x11, 0, 0, 0x11, 0x22, 0, 0, 0x22, 0x33, 0, 0, 0x33, 0x44, 0, 0, 0x44] ++
          [0, 0xB0, 0, 0, 0x55, 0, 0, 0x55, 0x66, 0, 0, 0x66, 0x77, 0, 0, 0x77] ++
          [0x23, 0, 0, 0, 0x1B, 0, 0, 0, 0x23, 0, 0, 0, 0x23, 0, 0, 0, 0, 0, 0, 0, 0x23, 0, 0, 0, 0x48, 0, 0, 0] ++
          [0, 0, 0x68, 0])
        (putBytes 0x390E
          ([0, 0xA0, 3, 2] ++ [0x11, 1, 0x22, 2, 0x33, 3, 0x44, 4, 0, 0xB0, 0x55, 5, 0x66, 6, 0x77, 7] ++
            [0x23, 0, 0x1B, 0, 0x23, 0, 0x23, 0, 0x48, 0]) m)))

/-- A machine with PE = 1 and the tables above, running in the given segments at a level, with the code at 100H. -/
def withTables (c d : SegReg) (cpl : BitVec 2) (code : List Byte) (g : Regs) (f : Flags) : State :=
  { State.reset with
    regs := g
    flags := f
    eip := 0x100
    cpl := cpl
    segs := { es := d, cs := c, ss := d, ds := d, fs := d, gs := d }
    sys :=
      { State.reset.sys with
        cr0 := { State.reset.sys.cr0 with pe := true }
        gdtr := { base := 0x1000, limit := 0x6F }
        idtr := { base := 0x800, limit := 0x12F }
        tr := { sel := 0x28, base := 0x2000, limit := 0x6A, typ := 11 } }
    mem := putBytes 0x100 code (idt (putBytes 0x1000 gdt (tss []))) }

/-- Protected mode at level 0. -/
def prot0 (code : List Byte) (g : Regs) (f : Flags) : State := withTables (flat 8 11 0) (flat 0x10 3 0) 0 code g f

/-- Protected mode at level 3. -/
def prot3 (code : List Byte) (g : Regs) (f : Flags) : State := withTables (flat 0x1B 11 3) (flat 0x23 3 3) 3 code g f

/-- Level 3 with nothing but the code in memory. -/
def bare3 (code : List Byte) (g : Regs) (f : Flags) : State := { prot3 code g f with mem := putBytes 0x100 code [] }

/-- Virtual-8086 mode. -/
def v86 (code : List Byte) (g : Regs) (f : Flags) : State :=
  withTables (SegReg.v86 0) (SegReg.v86 0) 3 code g { f with vm := true }

/-- One step leads to a next state that passes a test. -/
def steps (s : State) (p : State → Bool) : Bool :=
  match step s with
  | .next t => p t
  | .fault _ => false
  | .refused _ => false

/-- A computation ends without an exception or a refusal. -/
def isOk {α : Type} (r : EStateM.Result Err State α) : Bool :=
  match r with
  | .ok _ _ => true
  | .error _ _ => false

/-- The value of a computation that ends so. -/
def okVal {α : Type} (d : α) (r : EStateM.Result Err State α) : α :=
  match r with
  | .ok a _ => a
  | .error _ _ => d

/-- The state that a computation ends in. -/
def okState {α : Type} (r : EStateM.Result Err State α) : State :=
  match r with
  | .ok _ t => t
  | .error _ t => t

/-- A computation that ends so has that value and that state. -/
theorem ok_of {α : Type} (d : α) {r : EStateM.Result Err State α} (h : isOk r = true) :
    r = .ok (okVal d r) (okState r) := by
  cases r with
  | ok a t => rfl
  | error e t => cases h

/-- The same for a computation without a value. -/
theorem ok_unit {r : EStateM.Result Err State Unit} (h : isOk r = true) : r = .ok () (okState r) := by
  cases r with
  | ok a t => rfl
  | error e t => cases h

/-- The same with its value known. -/
theorem ok_eq {α : Type} (d : α) {a : α} {r : EStateM.Result Err State α} (h : isOk r = true) (ha : okVal d r = a) :
    r = .ok a (okState r) := by
  subst ha
  exact ok_of d h

/-- A computation that ends so ends somewhere. -/
theorem runs_of {α : Type} {r : EStateM.Result Err State α} (h : isOk r = true) : ∃ a t, r = .ok a t := by
  cases r with
  | ok a t => exact ⟨a, t, rfl⟩
  | error e t => cases h

/-! ### Well-formedness: an ill-formed term for each check -/

/-- BP and EBP without a displacement, ESP as a base without SIB, and EBP as a SIB base without a displacement have no
encoding (R312, R314, R315). -/
theorem test_refuses_addresses :
    Ea.wf (.m16 .bp .none) = false ∧ Ea.wf (.m32 .esp .none) = false ∧ Ea.wf (.m32 .esp (.d8 1)) = false ∧
      Ea.wf (.m32 .ebp .none) = false ∧ Ea.wf (.sib 0 .eax .ebp .none) = false := by
  decide

/-- XCHG of the accumulator with itself is NOP, and MOV does not load CS (R340, D57). -/
theorem test_refuses_operands :
    Instr.wf (.xchgAxR16 .eax) = false ∧ Instr.wf (.xchgEaxR32 .eax) = false ∧
      Instr.wf (.movSregRm16 .cs (.reg .eax)) = false := by
  decide

/-- A width, an immediate, a direct offset or an address form that the size attributes do not give (R305, R320). -/
theorem test_refuses_sizes :
    Instr.fits .o16 .a16 (.add (.rmvRv .o32 (.reg .eax) .ecx)) = false ∧
      Instr.fits .o16 .a16 (.add (.eaxImm32 1)) = false ∧
      Instr.fits .o16 .a16 (.shl (.rmvOne .o32 (.reg .eax))) = false ∧
      Instr.fits .o32 .a32 (.je (.rel16 1)) = false ∧
      Instr.fits .o16 .a16 (.movAlMoffs8 (.p32 0)) = false ∧
      Instr.fits .o16 .a32 (.lea .o16 .eax (.abs16 0)) = false ∧
      Instr.fits .o16 .a16 (.movR8Rm8 .eax (.mem (.m32 .eax .none))) = false ∧
      Instr.fits .o16 .a32 (.jcxz .o16 0) = false := by
  decide

/-- A memory operand that no ModR/M byte encodes. -/
def badRm : Rm := .mem (.m16 .bp .none)

/-- The same operand is refused in every encoding of an arithmetic or logical instruction, a shift or a rotate. -/
theorem test_refuses_form_operands :
    (
    [(.rm8R8 badRm .ebx), (.rmvRv .o16 badRm .ebx), (.r8Rm8 .ebx badRm), (.rvRmv .o16 .ebx badRm),
     (.rm8Imm8 badRm 1), (.rm16Imm16 badRm 1), (.rm32Imm32 badRm 1), (.rmvImm8 .o16 badRm 1)]
      : List AluForm).all (fun f => !f.wf) = true ∧
    (
    [(.rm8One badRm), (.rm8Cl badRm), (.rm8Imm8 badRm 1), (.rmvOne .o16 badRm), (.rmvCl .o16 badRm),
     (.rmvImm8 .o16 badRm 1)]
      : List ShiftForm).all (fun f => !f.wf) = true := by
  decide +kernel

/-- The same operand is refused in every instruction that has one (1 of 3). -/
theorem test_refuses_instr_operands_1 :
    (
    [.movRm8R8 badRm .ebx, .movRmvRv .o16 badRm .ebx, .movR8Rm8 .ebx badRm, .movRvRmv .o16 .ebx badRm,
     .movRmvSreg .o16 badRm .ds, .movSregRm16 .ds badRm, .movRm8Imm8 badRm 0xA5, .movRm16Imm16 badRm 0x1234,
     .movRm32Imm32 badRm 0x12345678, .lea .o16 .ebx (.m16 .bp .none), .lds .o16 .ebx (.m16 .bp .none),
     .les .o16 .ebx (.m16 .bp .none), .lss .o16 .ebx (.m16 .bp .none), .lfs .o16 .ebx (.m16 .bp .none),
     .lgs .o16 .ebx (.m16 .bp .none), .movsxRvRm8 .o16 .ebx badRm, .movsxRvRm16 .o16 .ebx badRm,
     .movzxRvRm8 .o16 .ebx badRm, .movzxRvRm16 .o16 .ebx badRm, .xchgRm8R8 badRm .ebx, .xchgRmvRv .o16 badRm .ebx,
     .popRmv .o16 badRm, .pushRmv .o16 badRm, .incRm8 badRm, .incRmv .o16 badRm, .decRm8 badRm, .decRmv .o16 badRm,
     .testRm8Imm8 badRm 0xA5, .testRm16Imm16 badRm 0x1234, .testRm32Imm32 badRm 0x12345678, .testRm8R8 badRm .ebx,
     .testRmvRv .o16 badRm .ebx, .notRm8 badRm, .notRmv .o16 badRm, .negRm8 badRm, .negRmv .o16 badRm, .mulRm8 badRm,
     .mulRmv .o16 badRm, .imulRm8 badRm, .imulRmv .o16 badRm, .divRm8 badRm, .divRmv .o16 badRm, .idivRm8 badRm,
     .idivRmv .o16 badRm, .imulRvRmv .o16 .ebx badRm, .imulRvRmvImm8 .o16 .ebx badRm 0xA5,
     .imulR16Rm16Imm16 .ebx badRm 0x1234, .imulR32Rm32Imm32 .ebx badRm 0x12345678, .bsf .o16 .ebx badRm,
     .bsr .o16 .ebx badRm, .btRmvRv .o16 badRm .ebx, .btRmvImm8 .o16 badRm 0xA5]
      : List Instr).all (fun i => !i.wf) = true := by
  decide +kernel

/-- The same operand is refused in every instruction that has one (2 of 3). -/
theorem test_refuses_instr_operands_2 :
    (
    [.btsRmvRv .o16 badRm .ebx, .btsRmvImm8 .o16 badRm 0xA5, .btrRmvRv .o16 badRm .ebx, .btrRmvImm8 .o16 badRm 0xA5,
     .btcRmvRv .o16 badRm .ebx, .btcRmvImm8 .o16 badRm 0xA5, .seto badRm, .setno badRm, .setb badRm, .setae badRm,
     .sete badRm, .setne badRm, .setbe badRm, .seta badRm, .sets badRm, .setns badRm, .setp badRm, .setnp badRm,
     .setl badRm, .setge badRm, .setle badRm, .setg badRm, .shldRmvRvImm8 .o16 badRm .ebx 0xA5,
     .shldRmvRvCl .o16 badRm .ebx, .shrdRmvRvImm8 .o16 badRm .ebx 0xA5, .shrdRmvRvCl .o16 badRm .ebx,
     .bound .o16 .ebx (.m16 .bp .none), .callRmv .o16 badRm, .callFarM .o16 (.m16 .bp .none), .jmpRmv .o16 badRm,
     .jmpFarM .o16 (.m16 .bp .none), .escD8 3 badRm, .escD9 3 badRm, .escDA 3 badRm, .escDB 3 badRm, .escDC 3 badRm,
     .escDD 3 badRm, .escDE 3 badRm, .escDF 3 badRm, .arpl badRm .ebx, .lar .o16 .ebx badRm, .lsl .o16 .ebx badRm,
     .sgdt .o16 (.m16 .bp .none), .sidt .o16 (.m16 .bp .none), .lgdt .o16 (.m16 .bp .none),
     .lidt .o16 (.m16 .bp .none), .smsw .o16 badRm, .lmsw badRm, .sldt .o16 badRm, .str .o16 badRm, .lldt badRm,
     .ltr badRm]
      : List Instr).all (fun i => !i.wf) = true := by
  decide +kernel

/-- The same operand is refused in every instruction that has one (3 of 3). -/
theorem test_refuses_instr_operands_3 :
    (
    [.verr badRm, .verw badRm, .reservedF6 badRm, .reservedF7 badRm, .reservedC0 badRm, .reservedC1 badRm,
     .reservedD0 badRm, .reservedD1 badRm, .reservedD2 badRm, .reservedD3 badRm]
      : List Instr).all (fun i => !i.wf) = true := by
  decide +kernel

/-! ### Decoding: every row of the opcode table, from a word written out by its encoding column. The ModR/M bytes are
mod 01, r/m 001 ([BX+DI+disp8]) with the register field 3 or the row's digit, the displacement 12H, and immediates 0A5H,
1234H and 12345678H. -/

/-- The memory operand of those words. -/
def m12 : Rm := .mem (.m16 .bxDi (.d8 0x12))

/-- The bytes decode to the instruction, with nothing left, and it is well formed and fits the sizes. -/
def reads (o : OSize) (a : ASize) (x : List Byte × Instr) : Bool :=
  match decode o a x.1 with
  | .ok (i, rest) => decide (i = x.2) && rest.isEmpty && i.wf && i.fits o a
  | .error _ => false

theorem test_decode_arithmetic :
    (
    [([0x00, 0x59, 0x12], .add (.rm8R8 m12 .ebx)), ([0x01, 0x59, 0x12], .add (.rmvRv .o16 m12 .ebx)),
     ([0x02, 0x59, 0x12], .add (.r8Rm8 .ebx m12)), ([0x03, 0x59, 0x12], .add (.rvRmv .o16 .ebx m12)),
     ([0x04, 0xA5], .add (.alImm8 0xA5)), ([0x05, 0x34, 0x12], .add (.axImm16 0x1234)),
     ([0x80, 0x41, 0x12, 0xA5], .add (.rm8Imm8 m12 0xA5)),
     ([0x81, 0x41, 0x12, 0x34, 0x12], .add (.rm16Imm16 m12 0x1234)),
     ([0x83, 0x41, 0x12, 0xA5], .add (.rmvImm8 .o16 m12 0xA5)), ([0x10, 0x59, 0x12], .adc (.rm8R8 m12 .ebx)),
     ([0x11, 0x59, 0x12], .adc (.rmvRv .o16 m12 .ebx)), ([0x12, 0x59, 0x12], .adc (.r8Rm8 .ebx m12)),
     ([0x13, 0x59, 0x12], .adc (.rvRmv .o16 .ebx m12)), ([0x14, 0xA5], .adc (.alImm8 0xA5)),
     ([0x15, 0x34, 0x12], .adc (.axImm16 0x1234)), ([0x80, 0x51, 0x12, 0xA5], .adc (.rm8Imm8 m12 0xA5)),
     ([0x81, 0x51, 0x12, 0x34, 0x12], .adc (.rm16Imm16 m12 0x1234)),
     ([0x83, 0x51, 0x12, 0xA5], .adc (.rmvImm8 .o16 m12 0xA5)), ([0x28, 0x59, 0x12], .sub (.rm8R8 m12 .ebx)),
     ([0x29, 0x59, 0x12], .sub (.rmvRv .o16 m12 .ebx)), ([0x2A, 0x59, 0x12], .sub (.r8Rm8 .ebx m12)),
     ([0x2B, 0x59, 0x12], .sub (.rvRmv .o16 .ebx m12)), ([0x2C, 0xA5], .sub (.alImm8 0xA5)),
     ([0x2D, 0x34, 0x12], .sub (.axImm16 0x1234)), ([0x80, 0x69, 0x12, 0xA5], .sub (.rm8Imm8 m12 0xA5)),
     ([0x81, 0x69, 0x12, 0x34, 0x12], .sub (.rm16Imm16 m12 0x1234)),
     ([0x83, 0x69, 0x12, 0xA5], .sub (.rmvImm8 .o16 m12 0xA5)), ([0x18, 0x59, 0x12], .sbb (.rm8R8 m12 .ebx)),
     ([0x19, 0x59, 0x12], .sbb (.rmvRv .o16 m12 .ebx)), ([0x1A, 0x59, 0x12], .sbb (.r8Rm8 .ebx m12)),
     ([0x1B, 0x59, 0x12], .sbb (.rvRmv .o16 .ebx m12)), ([0x1C, 0xA5], .sbb (.alImm8 0xA5)),
     ([0x1D, 0x34, 0x12], .sbb (.axImm16 0x1234)), ([0x80, 0x59, 0x12, 0xA5], .sbb (.rm8Imm8 m12 0xA5)),
     ([0x81, 0x59, 0x12, 0x34, 0x12], .sbb (.rm16Imm16 m12 0x1234)),
     ([0x83, 0x59, 0x12, 0xA5], .sbb (.rmvImm8 .o16 m12 0xA5)), ([0x38, 0x59, 0x12], .cmp (.rm8R8 m12 .ebx)),
     ([0x39, 0x59, 0x12], .cmp (.rmvRv .o16 m12 .ebx)), ([0x3A, 0x59, 0x12], .cmp (.r8Rm8 .ebx m12)),
     ([0x3B, 0x59, 0x12], .cmp (.rvRmv .o16 .ebx m12)), ([0x3C, 0xA5], .cmp (.alImm8 0xA5)),
     ([0x3D, 0x34, 0x12], .cmp (.axImm16 0x1234)), ([0x80, 0x79, 0x12, 0xA5], .cmp (.rm8Imm8 m12 0xA5)),
     ([0x81, 0x79, 0x12, 0x34, 0x12], .cmp (.rm16Imm16 m12 0x1234)),
     ([0x83, 0x79, 0x12, 0xA5], .cmp (.rmvImm8 .o16 m12 0xA5))]
      : List (List Byte × Instr)).all (reads .o16 .a16) = true ∧
    (
    [([0x05, 0x78, 0x56, 0x34, 0x12], .add (.eaxImm32 0x12345678)),
     ([0x81, 0x41, 0x12, 0x78, 0x56, 0x34, 0x12], .add (.rm32Imm32 m12 0x12345678)),
     ([0x15, 0x78, 0x56, 0x34, 0x12], .adc (.eaxImm32 0x12345678)),
     ([0x81, 0x51, 0x12, 0x78, 0x56, 0x34, 0x12], .adc (.rm32Imm32 m12 0x12345678)),
     ([0x2D, 0x78, 0x56, 0x34, 0x12], .sub (.eaxImm32 0x12345678)),
     ([0x81, 0x69, 0x12, 0x78, 0x56, 0x34, 0x12], .sub (.rm32Imm32 m12 0x12345678)),
     ([0x1D, 0x78, 0x56, 0x34, 0x12], .sbb (.eaxImm32 0x12345678)),
     ([0x81, 0x59, 0x12, 0x78, 0x56, 0x34, 0x12], .sbb (.rm32Imm32 m12 0x12345678)),
     ([0x3D, 0x78, 0x56, 0x34, 0x12], .cmp (.eaxImm32 0x12345678)),
     ([0x81, 0x79, 0x12, 0x78, 0x56, 0x34, 0x12], .cmp (.rm32Imm32 m12 0x12345678))]
      : List (List Byte × Instr)).all (reads .o32 .a16) = true := by
  decide +kernel

theorem test_decode_logic :
    (
    [([0x08, 0x59, 0x12], .or (.rm8R8 m12 .ebx)), ([0x09, 0x59, 0x12], .or (.rmvRv .o16 m12 .ebx)),
     ([0x0A, 0x59, 0x12], .or (.r8Rm8 .ebx m12)), ([0x0B, 0x59, 0x12], .or (.rvRmv .o16 .ebx m12)),
     ([0x0C, 0xA5], .or (.alImm8 0xA5)), ([0x0D, 0x34, 0x12], .or (.axImm16 0x1234)),
     ([0x80, 0x49, 0x12, 0xA5], .or (.rm8Imm8 m12 0xA5)),
     ([0x81, 0x49, 0x12, 0x34, 0x12], .or (.rm16Imm16 m12 0x1234)),
     ([0x83, 0x49, 0x12, 0xA5], .or (.rmvImm8 .o16 m12 0xA5)), ([0x20, 0x59, 0x12], .and (.rm8R8 m12 .ebx)),
     ([0x21, 0x59, 0x12], .and (.rmvRv .o16 m12 .ebx)), ([0x22, 0x59, 0x12], .and (.r8Rm8 .ebx m12)),
     ([0x23, 0x59, 0x12], .and (.rvRmv .o16 .ebx m12)), ([0x24, 0xA5], .and (.alImm8 0xA5)),
     ([0x25, 0x34, 0x12], .and (.axImm16 0x1234)), ([0x80, 0x61, 0x12, 0xA5], .and (.rm8Imm8 m12 0xA5)),
     ([0x81, 0x61, 0x12, 0x34, 0x12], .and (.rm16Imm16 m12 0x1234)),
     ([0x83, 0x61, 0x12, 0xA5], .and (.rmvImm8 .o16 m12 0xA5)), ([0x30, 0x59, 0x12], .xor (.rm8R8 m12 .ebx)),
     ([0x31, 0x59, 0x12], .xor (.rmvRv .o16 m12 .ebx)), ([0x32, 0x59, 0x12], .xor (.r8Rm8 .ebx m12)),
     ([0x33, 0x59, 0x12], .xor (.rvRmv .o16 .ebx m12)), ([0x34, 0xA5], .xor (.alImm8 0xA5)),
     ([0x35, 0x34, 0x12], .xor (.axImm16 0x1234)), ([0x80, 0x71, 0x12, 0xA5], .xor (.rm8Imm8 m12 0xA5)),
     ([0x81, 0x71, 0x12, 0x34, 0x12], .xor (.rm16Imm16 m12 0x1234)),
     ([0x83, 0x71, 0x12, 0xA5], .xor (.rmvImm8 .o16 m12 0xA5))]
      : List (List Byte × Instr)).all (reads .o16 .a16) = true ∧
    (
    [([0x0D, 0x78, 0x56, 0x34, 0x12], .or (.eaxImm32 0x12345678)),
     ([0x81, 0x49, 0x12, 0x78, 0x56, 0x34, 0x12], .or (.rm32Imm32 m12 0x12345678)),
     ([0x25, 0x78, 0x56, 0x34, 0x12], .and (.eaxImm32 0x12345678)),
     ([0x81, 0x61, 0x12, 0x78, 0x56, 0x34, 0x12], .and (.rm32Imm32 m12 0x12345678)),
     ([0x35, 0x78, 0x56, 0x34, 0x12], .xor (.eaxImm32 0x12345678)),
     ([0x81, 0x71, 0x12, 0x78, 0x56, 0x34, 0x12], .xor (.rm32Imm32 m12 0x12345678))]
      : List (List Byte × Instr)).all (reads .o32 .a16) = true := by
  decide +kernel

theorem test_decode_rotates :
    (
    [([0xD0, 0x41, 0x12], .rol (.rm8One m12)), ([0xD2, 0x41, 0x12], .rol (.rm8Cl m12)),
     ([0xC0, 0x41, 0x12, 0xA5], .rol (.rm8Imm8 m12 0xA5)), ([0xD1, 0x41, 0x12], .rol (.rmvOne .o16 m12)),
     ([0xD3, 0x41, 0x12], .rol (.rmvCl .o16 m12)), ([0xC1, 0x41, 0x12, 0xA5], .rol (.rmvImm8 .o16 m12 0xA5)),
     ([0xD0, 0x49, 0x12], .ror (.rm8One m12)), ([0xD2, 0x49, 0x12], .ror (.rm8Cl m12)),
     ([0xC0, 0x49, 0x12, 0xA5], .ror (.rm8Imm8 m12 0xA5)), ([0xD1, 0x49, 0x12], .ror (.rmvOne .o16 m12)),
     ([0xD3, 0x49, 0x12], .ror (.rmvCl .o16 m12)), ([0xC1, 0x49, 0x12, 0xA5], .ror (.rmvImm8 .o16 m12 0xA5)),
     ([0xD0, 0x51, 0x12], .rcl (.rm8One m12)), ([0xD2, 0x51, 0x12], .rcl (.rm8Cl m12)),
     ([0xC0, 0x51, 0x12, 0xA5], .rcl (.rm8Imm8 m12 0xA5)), ([0xD1, 0x51, 0x12], .rcl (.rmvOne .o16 m12)),
     ([0xD3, 0x51, 0x12], .rcl (.rmvCl .o16 m12)), ([0xC1, 0x51, 0x12, 0xA5], .rcl (.rmvImm8 .o16 m12 0xA5)),
     ([0xD0, 0x59, 0x12], .rcr (.rm8One m12)), ([0xD2, 0x59, 0x12], .rcr (.rm8Cl m12)),
     ([0xC0, 0x59, 0x12, 0xA5], .rcr (.rm8Imm8 m12 0xA5)), ([0xD1, 0x59, 0x12], .rcr (.rmvOne .o16 m12)),
     ([0xD3, 0x59, 0x12], .rcr (.rmvCl .o16 m12)), ([0xC1, 0x59, 0x12, 0xA5], .rcr (.rmvImm8 .o16 m12 0xA5))]
      : List (List Byte × Instr)).all (reads .o16 .a16) = true := by
  decide +kernel

theorem test_decode_shifts :
    (
    [([0xD0, 0x61, 0x12], .shl (.rm8One m12)), ([0xD2, 0x61, 0x12], .shl (.rm8Cl m12)),
     ([0xC0, 0x61, 0x12, 0xA5], .shl (.rm8Imm8 m12 0xA5)), ([0xD1, 0x61, 0x12], .shl (.rmvOne .o16 m12)),
     ([0xD3, 0x61, 0x12], .shl (.rmvCl .o16 m12)), ([0xC1, 0x61, 0x12, 0xA5], .shl (.rmvImm8 .o16 m12 0xA5)),
     ([0xD0, 0x69, 0x12], .shr (.rm8One m12)), ([0xD2, 0x69, 0x12], .shr (.rm8Cl m12)),
     ([0xC0, 0x69, 0x12, 0xA5], .shr (.rm8Imm8 m12 0xA5)), ([0xD1, 0x69, 0x12], .shr (.rmvOne .o16 m12)),
     ([0xD3, 0x69, 0x12], .shr (.rmvCl .o16 m12)), ([0xC1, 0x69, 0x12, 0xA5], .shr (.rmvImm8 .o16 m12 0xA5)),
     ([0xD0, 0x79, 0x12], .sar (.rm8One m12)), ([0xD2, 0x79, 0x12], .sar (.rm8Cl m12)),
     ([0xC0, 0x79, 0x12, 0xA5], .sar (.rm8Imm8 m12 0xA5)), ([0xD1, 0x79, 0x12], .sar (.rmvOne .o16 m12)),
     ([0xD3, 0x79, 0x12], .sar (.rmvCl .o16 m12)), ([0xC1, 0x79, 0x12, 0xA5], .sar (.rmvImm8 .o16 m12 0xA5))]
      : List (List Byte × Instr)).all (reads .o16 .a16) = true := by
  decide +kernel

theorem test_decode_conditional_jumps :
    (
    [([0x70, 0xA5], .jo (.rel8 .o16 0xA5)), ([0x0F, 0x80, 0x34, 0x12], .jo (.rel16 0x1234)),
     ([0x71, 0xA5], .jno (.rel8 .o16 0xA5)), ([0x0F, 0x81, 0x34, 0x12], .jno (.rel16 0x1234)),
     ([0x72, 0xA5], .jb (.rel8 .o16 0xA5)), ([0x0F, 0x82, 0x34, 0x12], .jb (.rel16 0x1234)),
     ([0x73, 0xA5], .jae (.rel8 .o16 0xA5)), ([0x0F, 0x83, 0x34, 0x12], .jae (.rel16 0x1234)),
     ([0x74, 0xA5], .je (.rel8 .o16 0xA5)), ([0x0F, 0x84, 0x34, 0x12], .je (.rel16 0x1234)),
     ([0x75, 0xA5], .jne (.rel8 .o16 0xA5)), ([0x0F, 0x85, 0x34, 0x12], .jne (.rel16 0x1234)),
     ([0x76, 0xA5], .jbe (.rel8 .o16 0xA5)), ([0x0F, 0x86, 0x34, 0x12], .jbe (.rel16 0x1234)),
     ([0x77, 0xA5], .ja (.rel8 .o16 0xA5)), ([0x0F, 0x87, 0x34, 0x12], .ja (.rel16 0x1234)),
     ([0x78, 0xA5], .js (.rel8 .o16 0xA5)), ([0x0F, 0x88, 0x34, 0x12], .js (.rel16 0x1234)),
     ([0x79, 0xA5], .jns (.rel8 .o16 0xA5)), ([0x0F, 0x89, 0x34, 0x12], .jns (.rel16 0x1234)),
     ([0x7A, 0xA5], .jp (.rel8 .o16 0xA5)), ([0x0F, 0x8A, 0x34, 0x12], .jp (.rel16 0x1234)),
     ([0x7B, 0xA5], .jnp (.rel8 .o16 0xA5)), ([0x0F, 0x8B, 0x34, 0x12], .jnp (.rel16 0x1234)),
     ([0x7C, 0xA5], .jl (.rel8 .o16 0xA5)), ([0x0F, 0x8C, 0x34, 0x12], .jl (.rel16 0x1234)),
     ([0x7D, 0xA5], .jge (.rel8 .o16 0xA5)), ([0x0F, 0x8D, 0x34, 0x12], .jge (.rel16 0x1234)),
     ([0x7E, 0xA5], .jle (.rel8 .o16 0xA5)), ([0x0F, 0x8E, 0x34, 0x12], .jle (.rel16 0x1234)),
     ([0x7F, 0xA5], .jg (.rel8 .o16 0xA5)), ([0x0F, 0x8F, 0x34, 0x12], .jg (.rel16 0x1234))]
      : List (List Byte × Instr)).all (reads .o16 .a16) = true ∧
    (
    [([0x0F, 0x80, 0x78, 0x56, 0x34, 0x12], .jo (.rel32 0x12345678)),
     ([0x0F, 0x81, 0x78, 0x56, 0x34, 0x12], .jno (.rel32 0x12345678)),
     ([0x0F, 0x82, 0x78, 0x56, 0x34, 0x12], .jb (.rel32 0x12345678)),
     ([0x0F, 0x83, 0x78, 0x56, 0x34, 0x12], .jae (.rel32 0x12345678)),
     ([0x0F, 0x84, 0x78, 0x56, 0x34, 0x12], .je (.rel32 0x12345678)),
     ([0x0F, 0x85, 0x78, 0x56, 0x34, 0x12], .jne (.rel32 0x12345678)),
     ([0x0F, 0x86, 0x78, 0x56, 0x34, 0x12], .jbe (.rel32 0x12345678)),
     ([0x0F, 0x87, 0x78, 0x56, 0x34, 0x12], .ja (.rel32 0x12345678)),
     ([0x0F, 0x88, 0x78, 0x56, 0x34, 0x12], .js (.rel32 0x12345678)),
     ([0x0F, 0x89, 0x78, 0x56, 0x34, 0x12], .jns (.rel32 0x12345678)),
     ([0x0F, 0x8A, 0x78, 0x56, 0x34, 0x12], .jp (.rel32 0x12345678)),
     ([0x0F, 0x8B, 0x78, 0x56, 0x34, 0x12], .jnp (.rel32 0x12345678)),
     ([0x0F, 0x8C, 0x78, 0x56, 0x34, 0x12], .jl (.rel32 0x12345678)),
     ([0x0F, 0x8D, 0x78, 0x56, 0x34, 0x12], .jge (.rel32 0x12345678)),
     ([0x0F, 0x8E, 0x78, 0x56, 0x34, 0x12], .jle (.rel32 0x12345678)),
     ([0x0F, 0x8F, 0x78, 0x56, 0x34, 0x12], .jg (.rel32 0x12345678))]
      : List (List Byte × Instr)).all (reads .o32 .a16) = true := by
  decide +kernel

theorem test_decode_moves :
    (
    [([0x88, 0x59, 0x12], .movRm8R8 m12 .ebx), ([0x89, 0x59, 0x12], .movRmvRv .o16 m12 .ebx),
     ([0x8A, 0x59, 0x12], .movR8Rm8 .ebx m12), ([0x8B, 0x59, 0x12], .movRvRmv .o16 .ebx m12),
     ([0x8C, 0x59, 0x12], .movRmvSreg .o16 m12 .ds), ([0x8E, 0x59, 0x12], .movSregRm16 .ds m12),
     ([0xA0, 0x34, 0x12], .movAlMoffs8 (.p16 0x1234)), ([0xA1, 0x34, 0x12], .movAccMoffs .o16 (.p16 0x1234)),
     ([0xA2, 0x34, 0x12], .movMoffs8Al (.p16 0x1234)), ([0xA3, 0x34, 0x12], .movMoffsAcc .o16 (.p16 0x1234)),
     ([0xB1, 0xA5], .movR8Imm8 .ecx 0xA5), ([0xB9, 0x34, 0x12], .movR16Imm16 .ecx 0x1234),
     ([0xC6, 0x41, 0x12, 0xA5], .movRm8Imm8 m12 0xA5), ([0xC7, 0x41, 0x12, 0x34, 0x12], .movRm16Imm16 m12 0x1234),
     ([0x8D, 0x59, 0x12], .lea .o16 .ebx (.m16 .bxDi (.d8 0x12))),
     ([0xC5, 0x59, 0x12], .lds .o16 .ebx (.m16 .bxDi (.d8 0x12))),
     ([0xC4, 0x59, 0x12], .les .o16 .ebx (.m16 .bxDi (.d8 0x12))),
     ([0x0F, 0xB2, 0x59, 0x12], .lss .o16 .ebx (.m16 .bxDi (.d8 0x12))),
     ([0x0F, 0xB4, 0x59, 0x12], .lfs .o16 .ebx (.m16 .bxDi (.d8 0x12))),
     ([0x0F, 0xB5, 0x59, 0x12], .lgs .o16 .ebx (.m16 .bxDi (.d8 0x12))),
     ([0x0F, 0xBE, 0x59, 0x12], .movsxRvRm8 .o16 .ebx m12), ([0x0F, 0xBF, 0x59, 0x12], .movsxRvRm16 .o16 .ebx m12),
     ([0x0F, 0xB6, 0x59, 0x12], .movzxRvRm8 .o16 .ebx m12), ([0x0F, 0xB7, 0x59, 0x12], .movzxRvRm16 .o16 .ebx m12)]
      : List (List Byte × Instr)).all (reads .o16 .a16) = true ∧
    (
    [([0xB9, 0x78, 0x56, 0x34, 0x12], .movR32Imm32 .ecx 0x12345678),
     ([0xC7, 0x41, 0x12, 0x78, 0x56, 0x34, 0x12], .movRm32Imm32 m12 0x12345678)]
      : List (List Byte × Instr)).all (reads .o32 .a16) = true := by
  decide +kernel

theorem test_decode_system :
    (
    [([0x0F, 0x20, 0xD9], .movR32Cr .ecx .cr3), ([0x0F, 0x21, 0xD9], .movR32Dr .ecx .dr3),
     ([0x0F, 0x22, 0xD9], .movCrR32 .cr3 .ecx), ([0x0F, 0x23, 0xD9], .movDrR32 .dr3 .ecx),
     ([0x0F, 0x24, 0xF1], .movR32Tr .ecx .tr6), ([0x0F, 0x26, 0xF1], .movTrR32 .tr6 .ecx),
     ([0x63, 0x59, 0x12], .arpl m12 .ebx), ([0x0F, 0x02, 0x59, 0x12], .lar .o16 .ebx m12),
     ([0x0F, 0x03, 0x59, 0x12], .lsl .o16 .ebx m12), ([0x0F, 0x01, 0x41, 0x12], .sgdt .o16 (.m16 .bxDi (.d8 0x12))),
     ([0x0F, 0x01, 0x49, 0x12], .sidt .o16 (.m16 .bxDi (.d8 0x12))),
     ([0x0F, 0x01, 0x51, 0x12], .lgdt .o16 (.m16 .bxDi (.d8 0x12))),
     ([0x0F, 0x01, 0x59, 0x12], .lidt .o16 (.m16 .bxDi (.d8 0x12))), ([0x0F, 0x01, 0x61, 0x12], .smsw .o16 m12),
     ([0x0F, 0x01, 0x71, 0x12], .lmsw m12), ([0x0F, 0x00, 0x41, 0x12], .sldt .o16 m12),
     ([0x0F, 0x00, 0x49, 0x12], .str .o16 m12), ([0x0F, 0x00, 0x51, 0x12], .lldt m12),
     ([0x0F, 0x00, 0x59, 0x12], .ltr m12), ([0x0F, 0x00, 0x61, 0x12], .verr m12),
     ([0x0F, 0x00, 0x69, 0x12], .verw m12), ([0xF4], .hlt), ([0x0F, 0x06], .clts)]
      : List (List Byte × Instr)).all (reads .o16 .a16) = true := by
  decide +kernel

theorem test_decode_stack_and_exchange :
    (
    [([0x91], .xchgAxR16 .ecx), ([0x86, 0x59, 0x12], .xchgRm8R8 m12 .ebx),
     ([0x87, 0x59, 0x12], .xchgRmvRv .o16 m12 .ebx), ([0x8F, 0x41, 0x12], .popRmv .o16 m12), ([0x59], .popR16 .ecx),
     ([0x1F], .popDs .o16), ([0x07], .popEs .o16), ([0x17], .popSs .o16), ([0x0F, 0xA1], .popFs .o16),
     ([0x0F, 0xA9], .popGs .o16), ([0xFF, 0x71, 0x12], .pushRmv .o16 m12), ([0x51], .pushR16 .ecx),
     ([0x6A, 0xA5], .pushImm8 .o16 0xA5), ([0x68, 0x34, 0x12], .pushImm16 0x1234), ([0x0E], .pushCs .o16),
     ([0x16], .pushSs .o16), ([0x1E], .pushDs .o16), ([0x06], .pushEs .o16), ([0x0F, 0xA0], .pushFs .o16),
     ([0x0F, 0xA8], .pushGs .o16), ([0xD7], .xlat .a16), ([0x61], .popa), ([0x60], .pusha), ([0x9D], .popf),
     ([0x9C], .pushf)]
      : List (List Byte × Instr)).all (reads .o16 .a16) = true ∧
    (
    [([0x91], .xchgEaxR32 .ecx), ([0x59], .popR32 .ecx), ([0x51], .pushR32 .ecx),
     ([0x68, 0x78, 0x56, 0x34, 0x12], .pushImm32 0x12345678), ([0x61], .popad), ([0x60], .pushad), ([0x9D], .popfd),
     ([0x9C], .pushfd)]
      : List (List Byte × Instr)).all (reads .o32 .a16) = true := by
  decide +kernel

theorem test_decode_unary_and_multiply :
    (
    [([0xFE, 0x41, 0x12], .incRm8 m12), ([0xFF, 0x41, 0x12], .incRmv .o16 m12), ([0x41], .incR16 .ecx),
     ([0xFE, 0x49, 0x12], .decRm8 m12), ([0xFF, 0x49, 0x12], .decRmv .o16 m12), ([0x49], .decR16 .ecx),
     ([0xF6, 0x41, 0x12, 0xA5], .testRm8Imm8 m12 0xA5), ([0xF7, 0x41, 0x12, 0x34, 0x12], .testRm16Imm16 m12 0x1234),
     ([0xA8, 0xA5], .testAlImm8 0xA5), ([0xA9, 0x34, 0x12], .testAxImm16 0x1234),
     ([0x84, 0x59, 0x12], .testRm8R8 m12 .ebx), ([0x85, 0x59, 0x12], .testRmvRv .o16 m12 .ebx),
     ([0xF6, 0x51, 0x12], .notRm8 m12), ([0xF7, 0x51, 0x12], .notRmv .o16 m12), ([0xF6, 0x59, 0x12], .negRm8 m12),
     ([0xF7, 0x59, 0x12], .negRmv .o16 m12), ([0xF6, 0x61, 0x12], .mulRm8 m12),
     ([0xF7, 0x61, 0x12], .mulRmv .o16 m12), ([0xF6, 0x69, 0x12], .imulRm8 m12),
     ([0xF7, 0x69, 0x12], .imulRmv .o16 m12), ([0xF6, 0x71, 0x12], .divRm8 m12),
     ([0xF7, 0x71, 0x12], .divRmv .o16 m12), ([0xF6, 0x79, 0x12], .idivRm8 m12),
     ([0xF7, 0x79, 0x12], .idivRmv .o16 m12), ([0x0F, 0xAF, 0x59, 0x12], .imulRvRmv .o16 .ebx m12),
     ([0x6B, 0x59, 0x12, 0xA5], .imulRvRmvImm8 .o16 .ebx m12 0xA5),
     ([0x69, 0x59, 0x12, 0x34, 0x12], .imulR16Rm16Imm16 .ebx m12 0x1234), ([0x98], .cbw), ([0x99], .cwd),
     ([0x37], .aaa), ([0xD5, 0x0A], .aad), ([0xD4, 0x0A], .aam), ([0x3F], .aas), ([0x27], .daa), ([0x2F], .das)]
      : List (List Byte × Instr)).all (reads .o16 .a16) = true ∧
    (
    [([0x41], .incR32 .ecx), ([0x49], .decR32 .ecx),
     ([0xF7, 0x41, 0x12, 0x78, 0x56, 0x34, 0x12], .testRm32Imm32 m12 0x12345678),
     ([0xA9, 0x78, 0x56, 0x34, 0x12], .testEaxImm32 0x12345678),
     ([0x69, 0x59, 0x12, 0x78, 0x56, 0x34, 0x12], .imulR32Rm32Imm32 .ebx m12 0x12345678), ([0x98], .cwde),
     ([0x99], .cdq)]
      : List (List Byte × Instr)).all (reads .o32 .a16) = true := by
  decide +kernel

theorem test_decode_bits :
    (
    [([0x0F, 0xBC, 0x59, 0x12], .bsf .o16 .ebx m12), ([0x0F, 0xBD, 0x59, 0x12], .bsr .o16 .ebx m12),
     ([0x0F, 0xA3, 0x59, 0x12], .btRmvRv .o16 m12 .ebx), ([0x0F, 0xBA, 0x61, 0x12, 0xA5], .btRmvImm8 .o16 m12 0xA5),
     ([0x0F, 0xAB, 0x59, 0x12], .btsRmvRv .o16 m12 .ebx),
     ([0x0F, 0xBA, 0x69, 0x12, 0xA5], .btsRmvImm8 .o16 m12 0xA5),
     ([0x0F, 0xB3, 0x59, 0x12], .btrRmvRv .o16 m12 .ebx),
     ([0x0F, 0xBA, 0x71, 0x12, 0xA5], .btrRmvImm8 .o16 m12 0xA5),
     ([0x0F, 0xBB, 0x59, 0x12], .btcRmvRv .o16 m12 .ebx),
     ([0x0F, 0xBA, 0x79, 0x12, 0xA5], .btcRmvImm8 .o16 m12 0xA5), ([0x0F, 0x90, 0x59, 0x12], .seto m12),
     ([0x0F, 0x91, 0x59, 0x12], .setno m12), ([0x0F, 0x92, 0x59, 0x12], .setb m12),
     ([0x0F, 0x93, 0x59, 0x12], .setae m12), ([0x0F, 0x94, 0x59, 0x12], .sete m12),
     ([0x0F, 0x95, 0x59, 0x12], .setne m12), ([0x0F, 0x96, 0x59, 0x12], .setbe m12),
     ([0x0F, 0x97, 0x59, 0x12], .seta m12), ([0x0F, 0x98, 0x59, 0x12], .sets m12),
     ([0x0F, 0x99, 0x59, 0x12], .setns m12), ([0x0F, 0x9A, 0x59, 0x12], .setp m12),
     ([0x0F, 0x9B, 0x59, 0x12], .setnp m12), ([0x0F, 0x9C, 0x59, 0x12], .setl m12),
     ([0x0F, 0x9D, 0x59, 0x12], .setge m12), ([0x0F, 0x9E, 0x59, 0x12], .setle m12),
     ([0x0F, 0x9F, 0x59, 0x12], .setg m12), ([0x0F, 0xA4, 0x59, 0x12, 0xA5], .shldRmvRvImm8 .o16 m12 .ebx 0xA5),
     ([0x0F, 0xA5, 0x59, 0x12], .shldRmvRvCl .o16 m12 .ebx),
     ([0x0F, 0xAC, 0x59, 0x12, 0xA5], .shrdRmvRvImm8 .o16 m12 .ebx 0xA5),
     ([0x0F, 0xAD, 0x59, 0x12], .shrdRmvRvCl .o16 m12 .ebx)]
      : List (List Byte × Instr)).all (reads .o16 .a16) = true := by
  decide +kernel

theorem test_decode_transfers_1 :
    (
    [([0x62, 0x59, 0x12], .bound .o16 .ebx (.m16 .bxDi (.d8 0x12))), ([0xE8, 0x34, 0x12], .callRel16 0x1234),
     ([0xFF, 0x51, 0x12], .callRmv .o16 m12), ([0x9A, 0x34, 0x12, 0x5B, 0xF0], .callPtr16 0xF05B 0x1234),
     ([0xFF, 0x59, 0x12], .callFarM .o16 (.m16 .bxDi (.d8 0x12))), ([0xCD, 0xA5], .intImm8 0xA5),
     ([0xE3, 0xA5], .jcxz .o16 0xA5), ([0xEB, 0xA5], .jmpRel8 .o16 0xA5), ([0xE9, 0x34, 0x12], .jmpRel16 0x1234),
     ([0xFF, 0x61, 0x12], .jmpRmv .o16 m12), ([0xEA, 0x34, 0x12, 0x5B, 0xF0], .jmpPtr16 0xF05B 0x1234),
     ([0xFF, 0x69, 0x12], .jmpFarM .o16 (.m16 .bxDi (.d8 0x12))), ([0xE2, 0xA5], .loop .o16 .a16 0xA5),
     ([0xE1, 0xA5], .loope .o16 .a16 0xA5), ([0xE0, 0xA5], .loopne .o16 .a16 0xA5), ([0xC3], .retNear .o16),
     ([0xC2, 0x34, 0x12], .retNearImm16 .o16 0x1234), ([0xCB], .retFar .o16),
     ([0xCA, 0x34, 0x12], .retFarImm16 .o16 0x1234), ([0xC9], .leave .o16),
     ([0xC8, 0x34, 0x12, 0xA5], .enter .o16 0x1234 0xA5), ([0xCC], .int3), ([0xCE], .into), ([0xCF], .iret)]
      : List (List Byte × Instr)).all (reads .o16 .a16) = true ∧
    (
    [([0xE8, 0x78, 0x56, 0x34, 0x12], .callRel32 0x12345678),
     ([0x9A, 0x78, 0x56, 0x34, 0x12, 0x5B, 0xF0], .callPtr32 0xF05B 0x12345678),
     ([0xE9, 0x78, 0x56, 0x34, 0x12], .jmpRel32 0x12345678),
     ([0xEA, 0x78, 0x56, 0x34, 0x12, 0x5B, 0xF0], .jmpPtr32 0xF05B 0x12345678), ([0xCF], .iretd)]
      : List (List Byte × Instr)).all (reads .o32 .a16) = true := by
  decide +kernel

theorem test_decode_transfers_2 :
    (
    [([0xE3, 0xA5], .jecxz .o16 0xA5)]
      : List (List Byte × Instr)).all (reads .o16 .a32) = true := by
  decide +kernel

theorem test_decode_strings_and_ports :
    (
    [([0xA4], .movsb .a16), ([0xA5], .movsw .a16), ([0xA6], .cmpsb .a16), ([0xA7], .cmpsw .a16),
     ([0xAA], .stosb .a16), ([0xAB], .stosw .a16), ([0xAC], .lodsb .a16), ([0xAD], .lodsw .a16),
     ([0xAE], .scasb .a16), ([0xAF], .scasw .a16), ([0x6C], .insb .a16), ([0x6D], .insw .a16), ([0x6E], .outsb .a16),
     ([0x6F], .outsw .a16), ([0xE4, 0xA5], .inAlImm8 0xA5), ([0xE5, 0xA5], .inAccImm8 .o16 0xA5),
     ([0xED], .inAccDx .o16), ([0xE6, 0xA5], .outImm8Al 0xA5), ([0xE7, 0xA5], .outImm8Acc .o16 0xA5),
     ([0xEF], .outDxAcc .o16), ([0xEC], .inAlDx), ([0xEE], .outDxAl), ([0xF2], .repne), ([0xF3], .rep)]
      : List (List Byte × Instr)).all (reads .o16 .a16) = true ∧
    (
    [([0xA5], .movsd .a16), ([0xA7], .cmpsd .a16), ([0xAB], .stosd .a16), ([0xAD], .lodsd .a16),
     ([0xAF], .scasd .a16), ([0x6D], .insd .a16), ([0x6F], .outsd .a16)]
      : List (List Byte × Instr)).all (reads .o32 .a16) = true := by
  decide +kernel

theorem test_decode_escapes_and_reserved :
    (
    [([0xD8, 0x59, 0x12], .escD8 3 m12), ([0xD9, 0x59, 0x12], .escD9 3 m12), ([0xDA, 0x59, 0x12], .escDA 3 m12),
     ([0xDB, 0x59, 0x12], .escDB 3 m12), ([0xDC, 0x59, 0x12], .escDC 3 m12), ([0xDD, 0x59, 0x12], .escDD 3 m12),
     ([0xDE, 0x59, 0x12], .escDE 3 m12), ([0xDF, 0x59, 0x12], .escDF 3 m12), ([0xF6, 0x49, 0x12], .reservedF6 m12),
     ([0xF7, 0x49, 0x12], .reservedF7 m12), ([0xC0, 0x71, 0x12], .reservedC0 m12),
     ([0xC1, 0x71, 0x12], .reservedC1 m12), ([0xD0, 0x71, 0x12], .reservedD0 m12),
     ([0xD1, 0x71, 0x12], .reservedD1 m12), ([0xD2, 0x71, 0x12], .reservedD2 m12),
     ([0xD3, 0x71, 0x12], .reservedD3 m12), ([0x82], .reserved82), ([0xD6], .reservedD6), ([0xF1], .reservedF1),
     ([0x0F, 0x07], .reserved0F07), ([0x0F, 0x10], .reserved0F10), ([0x0F, 0x11], .reserved0F11),
     ([0x0F, 0x12], .reserved0F12), ([0x0F, 0x13], .reserved0F13), ([0x9B], .wait)]
      : List (List Byte × Instr)).all (reads .o16 .a16) = true := by
  decide +kernel

theorem test_decode_flags_and_prefixes :
    (
    [([0xF8], .clc), ([0xFC], .cld), ([0xFA], .cli), ([0xF5], .cmc), ([0x9F], .lahf), ([0x9E], .sahf),
     ([0xF9], .stc), ([0xFD], .std), ([0xFB], .sti), ([0x90], .nop), ([0xF0], .lock), ([0x26], .segEs),
     ([0x2E], .segCs), ([0x36], .segSs), ([0x3E], .segDs), ([0x64], .segFs), ([0x65], .segGs), ([0x66], .opsize),
     ([0x67], .adsize)]
      : List (List Byte × Instr)).all (reads .o16 .a16) = true := by
  decide +kernel

/-- Every effective address of a 16-bit ModR/M byte with mod 00, and the displacements of mod 01 and 10 (R312). -/
theorem test_decode_addresses_16 :
    ([([0x8A, 0x00], .movR8Rm8 .eax (.mem (.m16 .bxSi .none))), ([0x8A, 0x01], .movR8Rm8 .eax (.mem (.m16 .bxDi .none))),
      ([0x8A, 0x02], .movR8Rm8 .eax (.mem (.m16 .bpSi .none))), ([0x8A, 0x03], .movR8Rm8 .eax (.mem (.m16 .bpDi .none))),
      ([0x8A, 0x04], .movR8Rm8 .eax (.mem (.m16 .si .none))), ([0x8A, 0x05], .movR8Rm8 .eax (.mem (.m16 .di .none))),
      ([0x8A, 0x06, 0x34, 0x12], .movR8Rm8 .eax (.mem (.abs16 0x1234))),
      ([0x8A, 0x07], .movR8Rm8 .eax (.mem (.m16 .bx .none))),
      ([0x8A, 0x46, 0xFE], .movR8Rm8 .eax (.mem (.m16 .bp (.d8 0xFE)))),
      ([0x8A, 0x87, 0x00, 0x80], .movR8Rm8 .eax (.mem (.m16 .bx (.d16 0x8000)))),
      ([0x8A, 0xE3], .movR8Rm8 .esp (.reg .ebx))] : List (List Byte × Instr)).all (reads .o16 .a16) = true := by
  decide +kernel

/-- The 32-bit forms with and without SIB, and their exceptions for ESP and EBP (R314, R315). -/
theorem test_decode_addresses_32 :
    ([([0x8A, 0x03], .movR8Rm8 .eax (.mem (.m32 .ebx .none))),
      ([0x8A, 0x45, 0xFC], .movR8Rm8 .eax (.mem (.m32 .ebp (.d8 0xFC)))),
      ([0x8A, 0x05, 0x00, 0x10, 0x00, 0x00], .movR8Rm8 .eax (.mem (.abs32 0x1000))),
      ([0x8A, 0x86, 0x78, 0x56, 0x34, 0x12], .movR8Rm8 .eax (.mem (.m32 .esi (.d32 0x12345678)))),
      ([0x8A, 0x44, 0x24, 0x04], .movR8Rm8 .eax (.mem (.sib 0 .esp .esp (.d8 4)))),
      ([0x8A, 0x04, 0x8D, 0x00, 0x10, 0x00, 0x00], .movR8Rm8 .eax (.mem (.sibAbs 2 .ecx 0x1000))),
      ([0x8A, 0x44, 0x73, 0x08], .movR8Rm8 .eax (.mem (.sib 1 .esi .ebx (.d8 8)))),
      ([0x8A, 0x04, 0x2B], .movR8Rm8 .eax (.mem (.sib 0 .ebp .ebx .none))),
      ([0x8A, 0x84, 0x25, 0x78, 0x56, 0x34, 0x12], .movR8Rm8 .eax (.mem (.sib 0 .esp .ebp (.d32 0x12345678))))]
      : List (List Byte × Instr)).all (reads .o16 .a32) = true := by
  decide +kernel

/-- Encodings that the spec rejects, each by its name (R350 to R352, D21, D57): an opcode outside the maps, CS as the
destination of MOV, LGDT with a register, CR1, TR5, segment register 6, AAM with another base, and bytes that end early. -/
theorem test_decode_rejects :
    decode .o16 .a16 [0x0F, 0x0B] = .error .undefinedOpcode ∧ decode .o16 .a16 [0xFE, 0xD0] = .error .undefinedOpcode ∧
      decode .o16 .a16 [0x8E, 0xC8] = .error .badSegment ∧ decode .o16 .a16 [0x8C, 0xF0] = .error .badSegment ∧
      decode .o16 .a16 [0x0F, 0x01, 0xD0] = .error .registerOperand ∧
      decode .o16 .a16 [0x0F, 0x20, 0xC8] = .error .badSpecial ∧
      decode .o16 .a16 [0x0F, 0x24, 0xE8] = .error .badSpecial ∧
      decode .o16 .a16 [0xD4, 0x05] = .error .aamAadBase ∧ decode .o16 .a16 [0xD5, 0x10] = .error .aamAadBase ∧
      decode .o16 .a16 [0x05, 0x78] = .error .truncated := by
  decide +kernel

/-- A word as the opcode table numbers it: bit 0 is the least significant bit of the first byte (the host's numbering). -/
theorem test_table_word :
    decodeTableWord 24 0x1234B8 = some (.movR16Imm16 .eax 0x1234) ∧
      decodeTableWord 16 0xC801 = some (.add (.rmvRv .o16 (.reg .eax) .ecx)) ∧
      decodeTableWord 16 0x0B0F = none := by
  decide +kernel

section

-- Each of these is checked before the next: together they would take more threads than the limits allow.
set_option Elab.async false

/-! ### One step each, from the vectors of spec/95_test_vectors.md (V1 to V16, W10) -/

/-- V1: 7FH + 01H as bytes. -/
theorem test_add :
    steps (real [0x00, 0xC8] (regs4 0x7F 0x1 0x0 0x0) flags0)
      (fun s => s.regs.eax == 0x80 && !s.flags.cf && !s.flags.pf && s.flags.af && !s.flags.zf && s.flags.sf &&
        s.flags.ov) = true := by
  decide +kernel

/-- V1: FFH + 00H with CF set. -/
theorem test_adc :
    steps (real [0x10, 0xC8] (regs4 0xFF 0x0 0x0 0x0) { flags0 with cf := true })
      (fun s => s.regs.eax == 0x0 && s.flags.cf && s.flags.pf && s.flags.af && s.flags.zf && !s.flags.sf &&
        !s.flags.ov) = true := by
  decide +kernel

/-- V1: 7FH - FFH as bytes. -/
theorem test_sub :
    steps (real [0x28, 0xC8] (regs4 0x7F 0xFF 0x0 0x0) flags0)
      (fun s => s.regs.eax == 0x80 && s.flags.cf && !s.flags.pf && !s.flags.af && !s.flags.zf && s.flags.sf &&
        s.flags.ov) = true := by
  decide +kernel

/-- V1: 80H - 7FH with CF set. -/
theorem test_sbb :
    steps (real [0x18, 0xC8] (regs4 0x80 0x7F 0x0 0x0) { flags0 with cf := true })
      (fun s => s.regs.eax == 0x0 && !s.flags.cf && s.flags.pf && s.flags.af && s.flags.zf && !s.flags.sf &&
        s.flags.ov) = true := by
  decide +kernel

/-- V1: 0001H with FFFFH compared. -/
theorem test_cmp :
    steps (real [0x39, 0xC8] (regs4 0x1 0xFFFF 0x0 0x0) flags0)
      (fun s => s.regs.eax == 0x1 && s.flags.cf && !s.flags.pf && s.flags.af && !s.flags.zf && !s.flags.sf &&
        !s.flags.ov) = true := by
  decide +kernel

/-- V2: INC of FFFFH; CF stays. -/
theorem test_inc_keeps_carry :
    steps (real [0x40] (regs4 0xFFFF 0x0 0x0 0x0) { flags0 with cf := true })
      (fun s => s.regs.eax == 0x0 && s.flags.cf && s.flags.pf && s.flags.af && s.flags.zf && !s.flags.sf &&
        !s.flags.ov) = true := by
  decide +kernel

/-- V2: DEC of 80H. -/
theorem test_dec :
    steps (real [0xFE, 0xC8] (regs4 0x80 0x0 0x0 0x0) flags0)
      (fun s => s.regs.eax == 0x7F && !s.flags.cf && !s.flags.pf && s.flags.af && !s.flags.zf && !s.flags.sf &&
        s.flags.ov) = true := by
  decide +kernel

/-- V2: NEG of 80H. -/
theorem test_neg :
    steps (real [0xF6, 0xD8] (regs4 0x80 0x0 0x0 0x0) flags0)
      (fun s => s.regs.eax == 0x80 && s.flags.cf && !s.flags.pf && !s.flags.af && !s.flags.zf && s.flags.sf &&
        s.flags.ov) = true := by
  decide +kernel

/-- V3: FFFFH by FFFFH. -/
theorem test_mul :
    steps (real [0xF7, 0xE1] (regs4 0xFFFF 0xFFFF 0x0 0x0) flags0)
      (fun s => s.regs.eax == 0x1 && s.regs.edx == 0xFFFE && s.flags.cf && s.flags.ov) = true := by
  decide +kernel

/-- V3: FFFFH by 7FFFH signed. -/
theorem test_imul :
    steps (real [0xF7, 0xE9] (regs4 0xFFFF 0x7FFF 0x0 0x0) flags0)
      (fun s => s.regs.eax == 0x8001 && s.regs.edx == 0xFFFF && !s.flags.cf && !s.flags.ov) = true := by
  decide +kernel

/-- V3: 4000H by 2. -/
theorem test_imul_two_operands :
    steps (real [0x0F, 0xAF, 0xC1] (regs4 0x4000 0x2 0x0 0x0) flags0)
      (fun s => s.regs.eax == 0x8000 && s.flags.cf && s.flags.ov) = true := by
  decide +kernel

/-- V3: FE01H by FFH. -/
theorem test_div :
    steps (real [0xF6, 0xF1] (regs4 0xFE01 0xFF 0x0 0x0) flags0)
      (fun s => s.regs.eax == 0xFF) = true := by
  decide +kernel

/-- V3 and P4: FFFFH by FFH is interrupt 0, with the address of the DIV saved. -/
theorem test_div_overflow :
    steps (withBytes 0x0 [0x00, 0x03, 0x00, 0x00] (real [0xF6, 0xF1] (regs4 0xFFFF 0xFF 0x0 0x0) flags0))
      (fun s => s.eip == 0x300 && s.regs.eax == 0xFFFF && s.regs.esp == 0xFFA &&
        holds s 0xFFA [0x00, 0x01, 0x00, 0x00]) = true := by
  decide +kernel

/-- V3: -7 by 2 is -3, remainder -1. -/
theorem test_idiv :
    steps (real [0xF6, 0xF9] (regs4 0xFFF9 0x2 0x0 0x0) flags0)
      (fun s => s.regs.eax == 0xFFFD) = true := by
  decide +kernel

/-- V3: FF80H by 01H gives 80H. -/
theorem test_idiv_most_negative :
    steps (real [0xF6, 0xF9] (regs4 0xFF80 0x1 0x0 0x0) flags0)
      (fun s => s.regs.eax == 0x80) = true := by
  decide +kernel

/-- V4: 9AH. -/
theorem test_daa :
    steps (real [0x27] (regs4 0x9A 0x0 0x0 0x0) flags0)
      (fun s => s.regs.eax == 0x0 && s.flags.cf && s.flags.af && s.flags.zf && !s.flags.sf && s.flags.pf) = true := by
  decide +kernel

/-- V4: 05H with AF set. -/
theorem test_das :
    steps (real [0x2F] (regs4 0x5 0x0 0x0 0x0) { flags0 with af := true })
      (fun s => s.regs.eax == 0x9F && s.flags.cf && s.flags.af && !s.flags.zf && s.flags.sf &&
        s.flags.pf) = true := by
  decide +kernel

/-- V4: FF09H with AF set. -/
theorem test_aaa :
    steps (real [0x37] (regs4 0xFF09 0x0 0x0 0x0) { flags0 with af := true })
      (fun s => s.regs.eax == 0xF && s.flags.cf && s.flags.af) = true := by
  decide +kernel

/-- V4: 000BH. -/
theorem test_aas :
    steps (real [0x3F] (regs4 0xB 0x0 0x0 0x0) flags0)
      (fun s => s.regs.eax == 0xFF05 && s.flags.cf && s.flags.af) = true := by
  decide +kernel

/-- V4: FFH. -/
theorem test_aam :
    steps (real [0xD4, 0x0A] (regs4 0xFF 0x0 0x0 0x0) flags0)
      (fun s => s.regs.eax == 0x1905 && !s.flags.sf && !s.flags.zf && s.flags.pf) = true := by
  decide +kernel

/-- V4: FFFFH. -/
theorem test_aad :
    steps (real [0xD5, 0x0A] (regs4 0xFFFF 0x0 0x0 0x0) flags0)
      (fun s => s.regs.eax == 0xF5 && s.flags.sf && !s.flags.zf && s.flags.pf) = true := by
  decide +kernel

/-- V5: FFH by 33. -/
theorem test_shl :
    steps (real [0xC0, 0xE0, 0x21] (regs4 0xFF 0x0 0x0 0x0) flags0)
      (fun s => s.regs.eax == 0xFE && s.flags.cf && !s.flags.pf && !s.flags.zf && s.flags.sf &&
        !s.flags.ov) = true := by
  decide +kernel

/-- V5: 80H by 8. -/
theorem test_shr :
    steps (real [0xD2, 0xE8] (regs4 0x80 0x8 0x0 0x0) flags0)
      (fun s => s.regs.eax == 0x0 && s.flags.cf && s.flags.pf && s.flags.zf && !s.flags.sf) = true := by
  decide +kernel

/-- V5: FFFEH by 1. -/
theorem test_sar :
    steps (real [0xD1, 0xF8] (regs4 0xFFFE 0x0 0x0 0x0) flags0)
      (fun s => s.regs.eax == 0xFFFF && !s.flags.cf && s.flags.pf && !s.flags.zf && s.flags.sf &&
        !s.flags.ov) = true := by
  decide +kernel

/-- V6: 8001H by 17. -/
theorem test_rol :
    steps (real [0xC1, 0xC0, 0x11] (regs4 0x8001 0x0 0x0 0x0) flags0)
      (fun s => s.regs.eax == 0x3 && s.flags.cf) = true := by
  decide +kernel

/-- V6: 01H by 1. -/
theorem test_ror :
    steps (real [0xD0, 0xC8] (regs4 0x1 0x0 0x0 0x0) flags0)
      (fun s => s.regs.eax == 0x80 && s.flags.cf && s.flags.ov) = true := by
  decide +kernel

/-- V6: 12H by 9 with CF set. -/
theorem test_rcl :
    steps (real [0xC0, 0xD0, 0x09] (regs4 0x12 0x0 0x0 0x0) { flags0 with cf := true })
      (fun s => s.regs.eax == 0x12 && s.flags.cf) = true := by
  decide +kernel

/-- V6: 00H by 1 with CF set. -/
theorem test_rcr :
    steps (real [0xD0, 0xD8] (regs4 0x0 0x0 0x0 0x0) { flags0 with cf := true })
      (fun s => s.regs.eax == 0x80 && !s.flags.cf && s.flags.ov) = true := by
  decide +kernel

/-- V7: offset -1 from 1000H reads bit 31 of the dword at 0FFCH. -/
theorem test_bt_negative_offset :
    steps (withBytes 0xFFF [0x80] (real [0x66, 0x0F, 0xA3, 0x0F] (regs4 0x0 0xFFFFFFFF 0x0 0x1000) flags0))
      (fun s => s.flags.cf) = true := by
  decide +kernel

/-- V7: offset 33 stays in the dword. -/
theorem test_bts_immediate :
    steps (real [0x66, 0x0F, 0xBA, 0x2F, 0x21] (regs4 0x0 0x0 0x0 0x1000) flags0)
      (fun s => !s.flags.cf && holds s 0x1000 [0x02, 0x00, 0x00, 0x00, 0x00]) = true := by
  decide +kernel

/-- V7: BTC AX,4. -/
theorem test_btc :
    steps (real [0x0F, 0xBB, 0xC8] (regs4 0x0 0x4 0x0 0x0) flags0)
      (fun s => s.regs.eax == 0x10 && !s.flags.cf) = true := by
  decide +kernel

/-- V7: BTR EBX,0. -/
theorem test_btr :
    steps (real [0x66, 0x0F, 0xBA, 0xF3, 0x00] (regs4 0x0 0x0 0x0 0x1) flags0)
      (fun s => s.regs.ebx == 0x0 && s.flags.cf) = true := by
  decide +kernel

/-- V7: source 80000000H. -/
theorem test_bsf :
    steps (real [0x66, 0x0F, 0xBC, 0xC1] (regs4 0x0 0x80000000 0x0 0x0) flags0)
      (fun s => s.regs.eax == 0x1F && !s.flags.zf) = true := by
  decide +kernel

/-- V7: source FFFFFFFFH. -/
theorem test_bsr :
    steps (real [0x66, 0x0F, 0xBD, 0xC1] (regs4 0x0 0xFFFFFFFF 0x0 0x0) flags0)
      (fun s => s.regs.eax == 0x1F && !s.flags.zf) = true := by
  decide +kernel

/-- V7: by 8. -/
theorem test_shld :
    steps (real [0x66, 0x0F, 0xA4, 0xD8, 0x08] (regs4 0x12345678 0x0 0x0 0x9ABCDEF0) flags0)
      (fun s => s.regs.eax == 0x3456789A && s.regs.ebx == 0x9ABCDEF0 && !s.flags.cf && !s.flags.sf && !s.flags.zf &&
        s.flags.pf) = true := by
  decide +kernel

/-- V7: by 8. -/
theorem test_shrd :
    steps (real [0x66, 0x0F, 0xAC, 0xD8, 0x08] (regs4 0x12345678 0x0 0x0 0x9ABCDEF0) flags0)
      (fun s => s.regs.eax == 0xF0123456 && !s.flags.cf && s.flags.sf && !s.flags.zf && s.flags.pf) = true := by
  decide +kernel

/-- V7: SETL with SF and CF set. -/
theorem test_setl :
    steps (real [0x0F, 0x9C, 0xC1] (regs4 0x0 0xFF 0x0 0x0) { flags0 with cf := true, sf := true })
      (fun s => s.regs.ecx == 0x1) = true := by
  decide +kernel

/-- V7: TEST EAX,EAX of 80000000H. -/
theorem test_test :
    steps (real [0x66, 0x85, 0xC0] (regs4 0x80000000 0x0 0x0 0x0) flags0)
      (fun s => s.regs.eax == 0x80000000 && !s.flags.zf && s.flags.sf && s.flags.pf && !s.flags.cf &&
        !s.flags.ov) = true := by
  decide +kernel

/-- V8: 80H to AX. -/
theorem test_movsx :
    steps (real [0x0F, 0xBE, 0xC3] (regs4 0x55550000 0x0 0x0 0x80) flags0)
      (fun s => s.regs.eax == 0x5555FF80) = true := by
  decide +kernel

/-- V8: 8000H to EAX. -/
theorem test_movzx :
    steps (real [0x66, 0x0F, 0xB7, 0xC3] (regs4 0xFFFFFFFF 0x0 0x0 0x8000) flags0)
      (fun s => s.regs.eax == 0x8000) = true := by
  decide +kernel

/-- V8: MOV AH,FFH. -/
theorem test_mov_high_byte :
    steps (real [0xB4, 0xFF] (regs4 0x11223344 0x0 0x0 0x0) flags0)
      (fun s => s.regs.eax == 0x1122FF44) = true := by
  decide +kernel

/-- V8: PUSH ESP stores the old value. -/
theorem test_push_esp :
    steps (real [0x66, 0x54] (regs4 0x0 0x0 0x0 0x0) flags0)
      (fun s => s.regs.esp == 0xFFC && holds s 0xFFC [0x00, 0x10, 0x00, 0x00]) = true := by
  decide +kernel

/-- V8: POP ESP loads the popped value. -/
theorem test_pop_esp :
    steps (withBytes 0x1000 [0x00, 0x20, 0x00, 0x00] (real [0x66, 0x5C] (regs4 0x0 0x0 0x0 0x0) flags0))
      (fun s => s.regs.esp == 0x2000) = true := by
  decide +kernel

/-- V8: SP = 0000H wraps to FFFEH and ESP keeps its upper half. -/
theorem test_push_wraps :
    steps (real [0x50] { regs4 0xABCD 0x0 0x0 0x0 with esp := 0x12340000 } flags0)
      (fun s => s.regs.esp == 0x1234FFFE && holds s 0xFFFE [0xCD, 0xAB]) = true := by
  decide +kernel

/-- V8: the SP slot holds the value before the first push. -/
theorem test_pusha :
    steps (real [0x60] { regs4 0x1 0x2 0x3 0x4 with ebp := 0x5, esi := 0x6, edi := 0x7 } flags0)
      (fun s => s.regs.esp == 0xFF0 && holds s 0xFF0
        [0x07, 0x00, 0x06, 0x00, 0x05, 0x00, 0x00, 0x10, 0x04, 0x00, 0x03, 0x00, 0x02, 0x00, 0x01, 0x00]) = true := by
  decide +kernel

/-- V8: the SP slot is skipped. -/
theorem test_popa :
    steps (withBytes 0x1000
        [0x07, 0x00, 0x06, 0x00, 0x05, 0x00, 0x00, 0x99, 0x04, 0x00, 0x03, 0x00, 0x02, 0x00, 0x01, 0x00]
        (real [0x61] (regs4 0x0 0x0 0x0 0x0) flags0))
      (fun s => s.regs.esp == 0x1010 && s.regs.eax == 0x1 && s.regs.ecx == 0x2 && s.regs.edx == 0x3 &&
        s.regs.ebx == 0x4 && s.regs.ebp == 0x5 && s.regs.esi == 0x6 && s.regs.edi == 0x7) = true := by
  decide +kernel

/-- V8: AX = 8000H. -/
theorem test_cwde :
    steps (real [0x66, 0x98] (regs4 0x8000 0x0 0x0 0x0) flags0)
      (fun s => s.regs.eax == 0xFFFF8000) = true := by
  decide +kernel

/-- V8: EAX = 80000000H. -/
theorem test_cdq :
    steps (real [0x66, 0x99] (regs4 0x80000000 0x0 0x0 0x0) flags0)
      (fun s => s.regs.edx == 0xFFFFFFFF) = true := by
  decide +kernel

/-- V8: LEA EAX,[BX+SI] wraps at 16 bits. -/
theorem test_lea :
    steps (real [0x66, 0x8D, 0x00] { regs4 0x0 0x0 0x0 0x1234 with esi := 0xF000 } flags0)
      (fun s => s.regs.eax == 0x234) = true := by
  decide +kernel

/-- V8: DS:[EBX + AL]. -/
theorem test_xlat :
    steps (withBytes 0x10FF [0x42] (real [0x67, 0xD7] (regs4 0xFF 0x0 0x0 0x1000) flags0))
      (fun s => s.regs.eax == 0x42) = true := by
  decide +kernel

/-- V8: LDS SI,[0200H] in real-address mode. -/
theorem test_lds :
    steps (withBytes 0x200 [0x34, 0x12, 0x00, 0x30] (real [0xC5, 0x36, 0x00, 0x02] (regs4 0x0 0x0 0x0 0x0) flags0))
      (fun s => s.regs.esi == 0x1234 && s.segs.ds.sel == 0x3000 && s.segs.ds.base == 0x30000) = true := by
  decide +kernel

/-- V8: MOV CS,AX is interrupt 6. -/
theorem test_mov_cs :
    steps (withBytes 0x18 [0x00, 0x03, 0x00, 0x00] (real [0x8E, 0xC8] (regs4 0x0 0x0 0x0 0x0) flags0))
      (fun s => s.eip == 0x300 && holds s 0xFFA [0x00, 0x01]) = true := by
  decide +kernel

/-- V9: [BX+SI] modulo 2^16. -/
theorem test_address_sum_wraps :
    steps (withBytes 0x10 [0x5A] (real [0x8A, 0x00] { regs4 0x0 0x0 0x0 0xFFF0 with esi := 0x20 } flags0))
      (fun s => s.regs.eax == 0x5A) = true := by
  decide +kernel

/-- V9: [ECX*4 + 00001000H]. -/
theorem test_address_scaled :
    steps (withBytes 0x100C [0x5A] (real [0x67, 0x8A, 0x04, 0x8D, 0x00, 0x10, 0x00, 0x00]
        (regs4 0x0 0x3 0x0 0x0) flags0))
      (fun s => s.regs.eax == 0x5A) = true := by
  decide +kernel

/-- V10: MOV DS,AX with a null selector succeeds. -/
theorem test_null_selector_loads :
    steps (prot0 [0x8E, 0xD8] (regs4 0x0 0x0 0x0 0x0) flags0)
      (fun s => s.eip == 0x102 && !s.segs.ds.valid) = true := by
  decide +kernel

/-- V10: MOV SS,AX with a null selector is #GP(0). -/
theorem test_null_ss_faults :
    steps (prot0 [0x8E, 0xD0] { regs4 0x0 0x0 0x0 0x0 with esp := 0xB000 } flags0)
      (fun s => s.eip == 0x7000 && s.regs.esp == 0xAFF8 && holds s 0xAFF8
        [0x00, 0x00, 0x00, 0x01, 0x08, 0x00, 0x02, 0x00]) = true := by
  decide +kernel

/-- V10: the error code is the selector with its RPL cleared. -/
theorem test_selector_beyond_table :
    steps (prot0 [0x8E, 0xD8] { regs4 0x203 0x0 0x0 0x0 with esp := 0xB000 } flags0)
      (fun s => s.eip == 0x7000 && holds s 0xAFF8 [0x00, 0x02]) = true := by
  decide +kernel

/-- V10: a word at DS:FFFFH is interrupt 13 without an error code. -/
theorem test_real_limit :
    steps (withBytes 0x34 [0x00, 0x03, 0x00, 0x00] (real [0xA1, 0xFF, 0xFF] (regs4 0x0 0x0 0x0 0x0) flags0))
      (fun s => s.eip == 0x300 && s.regs.esp == 0xFFA && holds s 0xFFA [0x00, 0x01]) = true := by
  decide +kernel

/-- V11: paging on, with the directory at 10000H; the pages 0, 1, 2, 5 to 8 are mapped to themselves, and linear 403xxxH
through the table at 11000H. -/
def paged (pte : List Byte) (s : State) : State :=
  withBytes 0x1100C pte
    (withBytes 0x12020 [7, 0x80, 0, 0]
      (withBytes 0x12000 [7, 0, 0, 0, 7, 0x10, 0, 0, 7, 0x20, 0, 0]
        (withBytes 0x12014 [7, 0x50, 0, 0, 7, 0x60, 0, 0, 7, 0x70, 0, 0]
          (withBytes 0x10000 [7, 0x20, 1, 0, 7, 0x10, 1, 0]
            { s with sys := { s.sys with cr3 := 0x10000, cr0 := { s.sys.cr0 with pg := true } } }))))

/-- V11: a user read sets Accessed in both entries. -/
theorem test_page_read :
    steps (withBytes 0x345025 [0x5A] (paged [0x07, 0x50, 0x34, 0x00]
        (bare3 [0xA0, 0x25, 0x30, 0x40, 0x00] (regs4 0x0 0x0 0x0 0x0) flags0)))
      (fun s => s.regs.eax == 0x5A && holds s 0x10004 [0x27] && holds s 0x1100C [0x27, 0x50]) = true := by
  decide +kernel

/-- V11: a user write sets Dirty in the table entry. -/
theorem test_page_write :
    steps (paged [0x07, 0x50, 0x34, 0x00] (bare3 [0xA2, 0x25, 0x30, 0x40, 0x00] (regs4 0x5A 0x0 0x0 0x0) flags0))
      (fun s => holds s 0x345025 [0x5A] && holds s 0x10004 [0x27] && holds s 0x1100C [0x67, 0x50]) = true := by
  decide +kernel

/-- V11: a user write to a page that is not present is #PF with CR2 loaded. -/
theorem test_page_absent :
    steps (paged [0x06, 0x50, 0x34, 0x00] (prot3 [0xA2, 0x25, 0x30, 0x40, 0x00] (regs4 0x0 0x0 0x0 0x0) flags0))
      (fun s => s.eip == 0x7100 && s.sys.cr2 == 0x403025 && s.regs.esp == 0x8FF4) = true := by
  decide +kernel

/-- V12: EB FE stays where it is. -/
theorem test_jmp_back :
    steps (real [0xEB, 0xFE] (regs4 0x0 0x0 0x0 0x0) flags0)
      (fun s => s.eip == 0x100) = true := by
  decide +kernel

/-- V12: JE with ZF clear. -/
theorem test_jcc_not_taken :
    steps (real [0x74, 0x10] (regs4 0x0 0x0 0x0 0x0) flags0)
      (fun s => s.eip == 0x102) = true := by
  decide +kernel

/-- V12: JE with ZF set, rel32 100H. -/
theorem test_jcc_rel32 :
    steps (real [0x66, 0x0F, 0x84, 0x00, 0x01, 0x00, 0x00] (regs4 0x0 0x0 0x0 0x0) { flags0 with zf := true })
      (fun s => s.eip == 0x207) = true := by
  decide +kernel

/-- V12: JCXZ looks at CX alone. -/
theorem test_jcxz :
    steps (real [0xE3, 0x02] (regs4 0x0 0x10000 0x0 0x0) flags0)
      (fun s => s.eip == 0x104) = true := by
  decide +kernel

/-- V12: LOOP with CX = 0 counts to FFFFH and jumps. -/
theorem test_loop_zero :
    steps (real [0xE2, 0xFE] (regs4 0x0 0x0 0x0 0x0) flags0)
      (fun s => s.eip == 0x100 && s.regs.ecx == 0xFFFF) = true := by
  decide +kernel

/-- V12: LOOPE with ZF clear. -/
theorem test_loope :
    steps (real [0xE1, 0xF0] (regs4 0x0 0x5 0x0 0x0) flags0)
      (fun s => s.eip == 0x102 && s.regs.ecx == 0x4) = true := by
  decide +kernel

/-- V12: LOOPNE with ZF clear. -/
theorem test_loopne :
    steps (real [0xE0, 0xF0] (regs4 0x0 0x5 0x0 0x0) flags0)
      (fun s => s.eip == 0xF2 && s.regs.ecx == 0x4) = true := by
  decide +kernel

/-- V12: CALL rel16. -/
theorem test_call_near :
    steps (real [0xE8, 0x10, 0x00] (regs4 0x0 0x0 0x0 0x0) flags0)
      (fun s => s.eip == 0x113 && s.regs.esp == 0xFFE && holds s 0xFFE [0x03, 0x01]) = true := by
  decide +kernel

/-- V12: RET 4. -/
theorem test_ret_near_imm :
    steps (withBytes 0x1000 [0x03, 0x02] (real [0xC2, 0x04, 0x00] (regs4 0x0 0x0 0x0 0x0) flags0))
      (fun s => s.eip == 0x203 && s.regs.esp == 0x1006) = true := by
  decide +kernel

/-- V12: a 32-bit far RET in real-address mode drops the upper half of CS. -/
theorem test_ret_far_32 :
    steps (withBytes 0x1000 [0x00, 0x01, 0x00, 0x00, 0x00, 0x20, 0x99, 0x99]
        (real [0x66, 0xCB] (regs4 0x0 0x0 0x0 0x0) flags0))
      (fun s => s.eip == 0x100 && s.segs.cs.sel == 0x2000 && s.regs.esp == 0x1008) = true := by
  decide +kernel

/-- V12: INTO with OF set takes interrupt 4 and returns after itself. -/
theorem test_into :
    steps (withBytes 0x10 [0x00, 0x03, 0x00, 0x00] (real [0xCE] (regs4 0x0 0x0 0x0 0x0) { flags0 with ov := true }))
      (fun s => s.eip == 0x300 && holds s 0xFFA [0x01, 0x01]) = true := by
  decide +kernel

/-- V12: index 10 with bounds 0 and 9 is interrupt 5, a fault. -/
theorem test_bound :
    steps (withBytes 0x14 [0x00, 0x04, 0x00, 0x00] (withBytes 0x304
        [0x09] (real [0x66, 0x62, 0x07] (regs4 0xA 0x0 0x0 0x300) flags0)))
      (fun s => s.eip == 0x400 && holds s 0xFFA [0x00, 0x01]) = true := by
  decide +kernel

/-- P3: INT 21H pushes FLAGS, CS and IP. -/
theorem test_int_real :
    steps (withBytes 0x84 [0x00, 0x02, 0x00, 0x00] (real [0xCD, 0x21]
        (regs4 0x0 0x0 0x0 0x0) { flags0 with ie := true }))
      (fun s => s.eip == 0x200 && s.regs.esp == 0xFFA && holds s 0xFFA [0x02, 0x01, 0x00, 0x00, 0x02, 0x02] &&
        !s.flags.ie) = true := by
  decide +kernel

/-- V12: IRET in real-address mode. -/
theorem test_iret_real :
    steps (withBytes 0x1000 [0x05, 0x01, 0x00, 0x00, 0x02, 0x02] (real [0xCF] (regs4 0x0 0x0 0x0 0x0) flags0))
      (fun s => s.eip == 0x105 && s.segs.cs.sel == 0x0 && s.regs.esp == 0x1006 && s.flags.ie) = true := by
  decide +kernel

/-- R955: INT 22H from level 3 changes to the stack of level 0; a trap gate leaves IF. -/
theorem test_int_trap_gate :
    steps (prot3 [0xCD, 0x22] (regs4 0x0 0x0 0x0 0x0) { flags0 with ie := true })
      (fun s => s.eip == 0x6000 && s.regs.esp == 0x8FF6 && s.segs.ss.sel == 0x10 && s.segs.cs.sel == 0x8 &&
        s.cpl == 0 && s.flags.ie && holds s 0x8FF6
        [0x02, 0x01, 0x1B, 0x00, 0x02, 0x02, 0x00, 0x10, 0x23, 0x00]) = true := by
  decide +kernel

/-- V16: INT 21H from level 3 through a gate of level 0 is #GP with the entry in the error code. -/
theorem test_int_gate_level :
    steps (prot3 [0xCD, 0x21] (regs4 0x0 0x0 0x0 0x0) flags0)
      (fun s => s.eip == 0x7000 && holds s 0x8FF4 [0x0A, 0x01]) = true := by
  decide +kernel

/-- V12: INT n in virtual-8086 mode with IOPL 3 goes to level 0 through a 386 SX gate. -/
theorem test_int_v86 :
    steps (v86 [0xCD, 0x24] (regs4 0x0 0x0 0x0 0x0) { flags0 with iopl := 3 })
      (fun s => s.eip == 0x6000 && !s.flags.vm && !s.flags.ie && s.regs.esp == 0x8FDC && s.segs.ss.sel == 0x10 &&
        !s.segs.ds.valid && !s.segs.gs.valid) = true := by
  decide +kernel

/-- R616: IRET to level 3 clears the data segments of level 0. -/
theorem test_iret_to_outer :
    steps (withBytes 0xB000
        [0x34, 0x12, 0x00, 0x00, 0x1B, 0x00, 0x00, 0x00, 0x03, 0x02, 0x00, 0x00, 0x00, 0x50, 0x00, 0x00, 0x23,
        0x00, 0x00, 0x00] (prot0 [0xCF] { regs4 0x0 0x0 0x0 0x0 with esp := 0xB000 } flags0))
      (fun s => s.eip == 0x1234 && s.regs.esp == 0x5000 && s.cpl == 3 && s.segs.cs.sel == 0x1B &&
        s.segs.ss.sel == 0x23 && !s.segs.ds.valid && s.flags.cf && s.flags.ie) = true := by
  decide +kernel

/-- R615: IRETD at level 0 with VM set in the image. -/
theorem test_iret_to_v86 :
    steps (withBytes 0xB018 [0x03, 0x00] (withBytes 0xB000
        [0x34, 0x12, 0x00, 0x00, 0x00, 0x01, 0x00, 0x00, 0x02, 0x02, 0x02, 0x00, 0x00, 0x50, 0x00, 0x00, 0x00,
        0x02] (prot0 [0xCF] { regs4 0x0 0x0 0x0 0x0 with esp := 0xB000 } flags0)))
      (fun s => s.eip == 0x1234 && s.flags.vm && s.segs.cs.sel == 0x100 && s.segs.cs.base == 0x1000 &&
        s.segs.ss.sel == 0x200 && s.segs.ds.sel == 0x3) = true := by
  decide +kernel

/-- V12: CALL through a call gate with two parameters to level 0. -/
theorem test_call_gate_inner :
    steps ((withBytes 0xB000 [0xAA, 0xAA, 0xBB, 0xBB] (prot3
        [0x9A, 0x00, 0x00, 0x00, 0x00, 0x3B, 0x00] { regs4 0x0 0x0 0x0 0x0 with esp := 0xB000 } flags0)))
      (fun s => s.eip == 0x5000 && s.cpl == 0 && s.regs.esp == 0x8FF4 &&
        holds s 0x8FF4 [0x07, 0x01, 0x1B, 0x00, 0xAA, 0xAA, 0xBB, 0xBB, 0x00, 0xB0, 0x23, 0x00]) = true := by
  decide +kernel

/-- R627: RET 8 to level 3. -/
theorem test_ret_far_outer :
    steps (withBytes 0xB010 [0x00, 0x50, 0x00, 0x00, 0x23, 0x00]
        (withBytes 0xB000 [0x34, 0x12, 0x00, 0x00, 0x1B, 0x00]
        (prot0 [0xCA, 0x08, 0x00] { regs4 0x0 0x0 0x0 0x0 with esp := 0xB000 } flags0)))
      (fun s => s.eip == 0x1234 && s.regs.esp == 0x5008 && s.cpl == 3 && s.segs.ss.sel == 0x23) = true := by
  decide +kernel

/-- The machine runs the 80286 task whose TSS lies at 3800H. -/
def in286 (s : State) : State := { s with sys := { s.sys with tr := { sel := 0x60, base := 0x3800, limit := 0x2B, typ := 3 } } }

/-- V12: JMP to an available TSS. -/
theorem test_jmp_tss :
    steps (in286 (prot0 [0xEA, 0x00, 0x00, 0x00, 0x00, 0x68, 0x00] (regs4 0x0 0x0 0x0 0x0) flags0))
      (fun s => s.eip == 0xA000 && s.sys.tr.sel == 0x68 && s.sys.cr0.ts && !s.flags.nt && s.flags.cf && s.flags.ie &&
        s.segs.cs.sel == 0x1B && s.cpl == 3 && s.sys.ldtr.sel == 0x48 && holds s 0x1065 [0x81] &&
        holds s 0x106D [0x83] && holds s 0x380E [0x07, 0x01]) = true := by
  decide +kernel

/-- V12: CALL to a TSS nests: NT and the back link. -/
theorem test_call_tss :
    steps (in286 (prot0 [0x9A, 0x00, 0x00, 0x00, 0x00, 0x68, 0x00] (regs4 0x0 0x0 0x0 0x0) flags0))
      (fun s => s.eip == 0xA000 && s.flags.nt && holds s 0x1065 [0x83] && holds s 0x106D [0x83] &&
        holds s 0x3900 [0x60, 0x00]) = true := by
  decide +kernel

/-- V12: JMP to a busy TSS is #GP with its selector. -/
theorem test_jmp_busy_tss :
    steps (prot0 [0xEA, 0x00, 0x00, 0x00, 0x00, 0x28, 0x00] { regs4 0x0 0x0 0x0 0x0 with esp := 0xB000 } flags0)
      (fun s => s.eip == 0x7000 && holds s 0xAFF8 [0x28, 0x00]) = true := by
  decide +kernel

/-- V13: REP MOVSB with CX = 0. -/
theorem test_rep_zero :
    steps (real [0xF3, 0xA4] (regs4 0x0 0x0 0x0 0x0) flags0)
      (fun s => s.eip == 0x102 && s.regs.esi == 0x0 && s.regs.edi == 0x0) = true := by
  decide +kernel

/-- V13: one iteration of REP MOVSB; the instruction is still to come. -/
theorem test_rep_one_iteration :
    steps (withBytes 0x300 [0x11, 0x22] (real [0xF3, 0xA4]
        { regs4 0x0 0x3 0x0 0x0 with esi := 0x300, edi := 0x301 } flags0))
      (fun s => s.eip == 0x100 && s.regs.ecx == 0x2 && s.regs.esi == 0x301 && s.regs.edi == 0x302 &&
        holds s 0x300 [0x11, 0x11]) = true := by
  decide +kernel

/-- V13: 43H against 58H. -/
theorem test_cmpsb :
    steps (withBytes 0x400 [0x58] (withBytes 0x300 [0x43] (real
        [0xA6] { regs4 0x0 0x0 0x0 0x0 with esi := 0x300, edi := 0x400 } flags0)))
      (fun s => s.regs.esi == 0x301 && s.regs.edi == 0x401 && !s.flags.zf && s.flags.cf) = true := by
  decide +kernel

/-- V13: REPNE SCASB ends when the byte is found. -/
theorem test_scasb_found :
    steps (real [0xF2, 0xAE] { regs4 0x0 0x2 0x0 0x0 with edi := 0x400 } flags0)
      (fun s => s.eip == 0x102 && s.regs.ecx == 0x1 && s.regs.edi == 0x401 && s.flags.zf) = true := by
  decide +kernel

/-- V13: STOSD with a 32-bit address. -/
theorem test_stosd :
    steps (real [0x66, 0x67, 0xAB] { regs4 0xDEADBEEF 0x0 0x0 0x0 with edi := 0x1000 } flags0)
      (fun s => holds s 0x1000 [0xEF, 0xBE, 0xAD, 0xDE] && s.regs.edi == 0x1004) = true := by
  decide +kernel

/-- R702: LODSW with DF set. -/
theorem test_lodsw_down :
    steps (withBytes 0x300 [0x34, 0x12] (real [0xAD] { regs4 0x0 0x0 0x0 0x0 with esi := 0x300 }
        { flags0 with df := true }))
      (fun s => s.regs.eax == 0x1234 && s.regs.esi == 0x2FE) = true := by
  decide +kernel

/-- V13: port 6 has its bit clear. -/
theorem test_in_allowed :
    steps (prot3 [0xE4, 0x06] (regs4 0x0 0x0 0x0 0x0) flags0)
      (fun s => s.eip == 0x102 && s.io.length == 1) = true := by
  decide +kernel

/-- V13: a word at port 7 meets a set bit. -/
theorem test_in_denied :
    steps (prot3 [0x66, 0xE5, 0x07] (regs4 0x0 0x0 0x0 0x0) flags0)
      (fun s => s.eip == 0x7000 && s.io.all fun e => match e with
        | .portRead _ _ _ => false
        | _ => true) = true := by
  decide +kernel

/-- R722: OUT is on record. -/
theorem test_out :
    steps (real [0xE6, 0x20] (regs4 0x5A 0x0 0x0 0x0) flags0)
      (fun s => s.io == [.portWrite 0x20 1 0x5A]) = true := by
  decide +kernel

/-- W10: ENTER 2048,3 with 32-bit sizes. -/
theorem test_enter :
    steps (withBytes 0x1FF8 [0x02, 0x00, 0xAA, 0xAA, 0x01, 0x00, 0xAA, 0xAA]
        (prot0 [0xC8, 0x00, 0x08, 0x03] { regs4 0x0 0x0 0x0 0x0 with ebp := 0x2000 } flags0))
      (fun s => s.regs.ebp == 0xFFC && s.regs.esp == 0x7F0 &&
        holds s 0xFF0
        [0xFC, 0x0F, 0x00, 0x00, 0x02, 0x00, 0xAA, 0xAA, 0x01, 0x00, 0xAA, 0xAA, 0x00, 0x20, 0x00, 0x00]) = true := by
  decide +kernel

/-- R770: the locals of ENTER 8,0 do not fit below 2010H in a segment that expands down from 2000H. -/
theorem test_enter_locals_limit :
    (let s := prot0 [0xC8, 0x0C, 0x00, 0x00] { regs4 0x0 0x0 0x0 0x0 with esp := 0x2010 } flags0
     steps { s with segs := { s.segs with ss := { s.segs.ss with typ := 7, limit := 0x2000 } } }
      (fun s => s.latches.shutdown && s.regs.esp == 0x2010)) = true := by
  decide +kernel

/-- W10: LEAVE. -/
theorem test_leave :
    steps (withBytes 0xFFC [0x00, 0x20] (real [0x66, 0xC9] { regs4 0x0 0x0 0x0 0x0 with ebp := 0xFFC } flags0))
      (fun s => s.regs.ebp == 0x2000 && s.regs.esp == 0x1000) = true := by
  decide +kernel

/-- V14: the image 0247H. -/
theorem test_pushf :
    steps (real [0x9C] (regs4 0x0 0x0 0x0 0x0) { flags0 with cf := true, pf := true, zf := true, ie := true })
      (fun s => holds s 0xFFE [0x47, 0x02]) = true := by
  decide +kernel

/-- V14: FFFFH loads 7FD7H. -/
theorem test_popf :
    steps (withBytes 0x1000 [0xFF, 0xFF] (real [0x9D] (regs4 0x0 0x0 0x0 0x0) flags0))
      (fun s => s.flags.low == 0x7FD7) = true := by
  decide +kernel

/-- V14: at level 3 IOPL stays, and with IOPL 3 IF is loaded. -/
theorem test_popf_level_3 :
    steps (bare3 [0x9D] (regs4 0x0 0x0 0x0 0x0) { flags0 with iopl := 3, ie := true })
      (fun s => s.flags.iopl == 3 && !s.flags.ie) = true := by
  decide +kernel

/-- V14: AH = FFH. -/
theorem test_sahf :
    steps (real [0x9E] (regs4 0xFF00 0x0 0x0 0x0) flags0)
      (fun s => s.flags.sf && s.flags.zf && s.flags.af && s.flags.pf && s.flags.cf && !s.flags.ov && !s.flags.df &&
        !s.flags.ie) = true := by
  decide +kernel

/-- V14: CLI at level 3 with IOPL 0 is #GP(0). -/
theorem test_cli_level :
    steps (prot3 [0xFA] (regs4 0x0 0x0 0x0 0x0) flags0)
      (fun s => s.eip == 0x7000 && holds s 0x8FF4 [0x00, 0x00, 0x00, 0x01]) = true := by
  decide +kernel

/-- V14: LOCK ADD AX,CX is interrupt 6. -/
theorem test_lock_register :
    steps (withBytes 0x18 [0x00, 0x03, 0x00, 0x00] (real [0xF0, 0x01, 0xC8] (regs4 0x0 0x0 0x0 0x0) flags0))
      (fun s => s.eip == 0x300 && holds s 0xFFA [0x00, 0x01]) = true := by
  decide +kernel

/-- V14: LOCK XCHG with memory. -/
theorem test_lock_xchg :
    steps (withBytes 0x300 [0x78, 0x56] (real [0xF0, 0x87, 0x07] (regs4 0x1234 0x0 0x0 0x300) flags0))
      (fun s => s.eip == 0x103 && s.regs.eax == 0x5678 && holds s 0x300 [0x34, 0x12]) = true := by
  decide +kernel

/-- V15: the sixth byte is ignored. -/
theorem test_lgdt_16 :
    steps (withBytes 0x300 [0x17, 0x00, 0x00, 0x08, 0x00, 0xAA]
        (real [0x0F, 0x01, 0x16, 0x00, 0x03] (regs4 0x0 0x0 0x0 0x0) flags0))
      (fun s => s.sys.gdtr == ⟨0x800, 0x17⟩) = true := by
  decide +kernel

/-- V15: all six bytes. -/
theorem test_lgdt_32 :
    steps (withBytes 0x300 [0x17, 0x00, 0x00, 0x08, 0x00, 0xAA]
        (real [0x66, 0x0F, 0x01, 0x16, 0x00, 0x03] (regs4 0x0 0x0 0x0 0x0) flags0))
      (fun s => s.sys.gdtr == ⟨0xAA000800, 0x17⟩) = true := by
  decide +kernel

/-- V15: LMSW sets PE. -/
theorem test_lmsw :
    steps (real [0x0F, 0x01, 0xF0] (regs4 0x1 0x0 0x0 0x0) flags0)
      (fun s => s.sys.cr0.pe) = true := by
  decide +kernel

/-- V15: PG without PE is #GP and CR0 stays. -/
theorem test_cr0_paging_alone :
    steps (withBytes 0x34 [0x00, 0x03, 0x00, 0x00] (real [0x0F, 0x22, 0xC0] (regs4 0x80000000 0x0 0x0 0x0) flags0))
      (fun s => s.eip == 0x300 && !s.sys.cr0.pg) = true := by
  decide +kernel

/-- V15: the access rights of code are visible at level 0. -/
theorem test_lar :
    steps (prot0 [0x0F, 0x02, 0xC1] (regs4 0x0 0x8 0x0 0x0) flags0)
      (fun s => s.flags.zf) = true := by
  decide +kernel

/-- R828: the limit in bytes. -/
theorem test_lsl :
    steps (prot0 [0x0F, 0x03, 0xC1] (regs4 0x0 0x8 0x0 0x0) flags0)
      (fun s => s.regs.eax == 0xFFFFFFFF && s.flags.zf) = true := by
  decide +kernel

/-- V15: VERW of code. -/
theorem test_verw_code :
    steps (prot0 [0x0F, 0x00, 0xE9] (regs4 0x0 0x8 0x0 0x0) { flags0 with zf := true })
      (fun s => !s.flags.zf) = true := by
  decide +kernel

/-- R820: RPL 0 raised to 3. -/
theorem test_arpl :
    steps (prot0 [0x63, 0xC8] (regs4 0x10 0x3 0x0 0x0) flags0)
      (fun s => s.regs.eax == 0x13 && s.flags.zf) = true := by
  decide +kernel

/-- R829: LTR of an available TSS marks it busy. -/
theorem test_ltr :
    steps (prot0 [0x0F, 0x00, 0xD8] (regs4 0x30 0x0 0x0 0x0) flags0)
      (fun s => s.sys.tr.sel == 0x30 && holds s 0x1035 [0x8B]) = true := by
  decide +kernel

/-- R826: LLDT. -/
theorem test_lldt :
    steps (prot0 [0x0F, 0x00, 0xD0] (regs4 0x48 0x0 0x0 0x0) flags0)
      (fun s => s.sys.ldtr.sel == 0x48 && s.sys.ldtr.base == 0x4000 && s.sys.ldtr.valid) = true := by
  decide +kernel

/-- V15: HLT at level 3 is #GP(0). -/
theorem test_hlt_level :
    steps (prot3 [0xF4] (regs4 0x0 0x0 0x0 0x0) flags0)
      (fun s => s.eip == 0x7000) = true := by
  decide +kernel

/-- V16: TF is set before MOV AX,1. -/
theorem test_single_step :
    steps (withBytes 0x4 [0x00, 0x03, 0x00, 0x00] (real [0xB8, 0x01, 0x00]
        (regs4 0x0 0x0 0x0 0x0) { flags0 with tf := true }))
      (fun s => s.eip == 0x300 && holds s 0xFFA [0x03, 0x01] && s.dbg.dr6 == 0x4000 && !s.flags.tf &&
        s.regs.eax == 0x1) = true := by
  decide +kernel

/-- R1070: a store is one event on the bus, and PUSH of a word is one of two bytes. -/
theorem test_memory_writes_are_on_record :
    steps (real [0xA2, 0x00, 0x03] (regs4 0x5A 0x0 0x0 0x0) flags0)
      (fun s => s.io == [.memWrite [(0x300, 0x5A)]]) = true ∧
    steps (real [0x50] (regs4 0x1234 0x0 0x0 0x0) flags0)
      (fun s => s.io == [.memWrite [(0xFFE, 0x34), (0xFFF, 0x12)]]) = true := by
  decide +kernel

/-- The step is refused by that name. -/
def refuses (s : State) (r : Refusal) : Bool :=
  match step s with
  | .next _ => false
  | .fault _ => false
  | .refused x => x == r

/-- What the spec decides to refuse: AAM with base 5 (D21), MOV EAX,CR0 with mod 00 (D54), index 100 with a scale (D94),
HLT with TF set (D102), a word at port FFFFH (D103), and F3 and F2 before NOP and PUSHA (D93); and an NMI in shutdown (D11). -/
theorem test_refusals :
    refuses (real [0xF3, 0x90] (regs4 0 0 0 0) flags0) .repeatPrefix = true ∧
    refuses (real [0xF2, 0x60] { regs4 0 0 0 0 with esp := 1 } flags0) .repeatPrefix = true ∧
    refuses { real [] (regs4 0 0 0 0) flags0 with
      latches := { State.reset.latches with shutdown := true, nmiPending := true } } .shutdownNmi = true ∧
    refuses (real [0xD4, 0x05] (regs4 0 0 0 0) flags0) .aamAadBase = true ∧
    refuses (real [0x0F, 0x20, 0x00] (regs4 0 0 0 0) flags0) .specialMod = true ∧
    refuses (real [0x67, 0x8A, 0x04, 0x60] (regs4 0 0 0 0) flags0) .sibIndex = true ∧
    refuses (real [0xF4] (regs4 0 0 0 0) { flags0 with tf := true }) .haltTraced = true ∧
    refuses (real [0xED] (regs4 0 0 0xFFFF 0) flags0) .portRange = true := by
  decide +kernel

/-- R772, C58: POPF leaves RF as it was, and it is not cleared after it; another instruction clears it (R943). -/
theorem test_popf_keeps_rf :
    steps (real [0x9D] (regs4 0 0 0 0) { flags0 with rf := true }) (fun s => s.flags.rf) = true ∧
    steps (real [0x90] (regs4 0 0 0 0) { flags0 with rf := true }) (fun s => !s.flags.rf) = true := by
  decide +kernel

/-- R412: PUSHA at SP = 1 in virtual-8086 mode shuts the processor down, as in real-address mode. -/
theorem test_pusha_odd_v86 :
    steps (v86 [0x60] { regs4 0 0 0 0 with esp := 1 } flags0) (fun s => s.latches.shutdown) = true := by
  decide +kernel

/-- R830: MOV EAX,CR1 is #GP(0) at level 3 and #UD at level 0. -/
theorem test_absent_register_level :
    steps (prot3 [0x0F, 0x20, 0xC8] (regs4 0 0 0 0) flags0) (fun s => s.eip == 0x7000) = true ∧
    steps (withBytes 0x18 [0, 3] (real [0x0F, 0x20, 0xC8] (regs4 0 0 0 0) flags0)) (fun s => s.eip == 0x300) = true := by
  decide +kernel

/-- R90: the back link 0 names no TSS: IRET with NT set is #TS, which this IDT does not hold, so that #DF and then shutdown
follow. -/
theorem test_iret_null_link :
    steps (prot0 [0xCF] (regs4 0 0 0 0) { flags0 with nt := true }) (fun s => s.latches.shutdown && s.sys.tr.sel == 0x28)
      = true := by
  decide +kernel

/-- The first instruction after reset, placed where it is fetched. -/
theorem test_first_instruction :
    steps (State.reset.withFetchWord 24 0x1234B8) (fun s => s.regs.eax == 0x1234) = true := by
  decide +kernel

/-- W16: which accesses touch the ranges of DR0 to DR3 (R1005). -/
theorem test_breakpoint_ranges :
    let d : DebugRegs := { dr0 := 0xA0001, dr1 := 0xA0002, dr2 := 0xB0002, dr3 := 0xC0000, dr6 := 0, dr7 := 0xF7330000 }
    let hit := fun (a : Word) (n : Nat) => bits4 (bpDataMatch d false a n true)
    hit 0xA0001 1 = 1 ∧ hit 0xA0002 1 = 2 ∧ hit 0xA0001 2 = 3 ∧ hit 0xB0001 4 = 4 ∧ hit 0xC0003 1 = 8 ∧
      hit 0xA0000 1 = 0 ∧ hit 0xA0003 4 = 0 ∧ hit 0xB0000 2 = 0 ∧ hit 0xC0004 4 = 0 := by
  decide +kernel

/-! ### Witnesses: for every statement with hypotheses, states and operands that meet them, clause by clause -/

/-- Real-address mode, nothing in memory: EAX = 12345678H, ECX = 1, EDX = 5, EBX = 200H. -/
def rs : State := real [] (regs4 0x12345678 1 5 0x200) flags0

/-- The same with ECX as given. -/
def withCount (c : Word) : State := { rs with regs := { rs.regs with ecx := c } }

/-- The same with the stack pointer as given. -/
def atStack (s : State) (sp : Word) : State := { s with regs := { s.regs with esp := sp } }

/-- The same after a LOCK prefix. -/
def locked : State := { rs with cur := { rs.cur with lock := true } }

/-- Protected mode at level 0 and at level 3, and virtual-8086 mode with IOPL 3. -/
def ps0 : State := prot0 [] (regs4 0 0 0 0) flags0
def ps3 : State := prot3 [] (regs4 0 0 0 0) flags0
def vs3 : State := v86 [] (regs4 0 0 0 0) { flags0 with iopl := 3 }

/-- The last byte, word and doubleword of a 64K segment. -/
def lastB : Rm := .mem (.abs16 0xFFFF)
def lastW : Rm := .mem (.abs16 0xFFFE)
def lastD : Rm := .mem (.abs16 0xFFFC)

/-- The hypotheses of `Loads`: the operand is read. -/
def Readable (z : Size) (rm : Rm) (s : State) : Prop := Plain s ∧ ∃ v t, readRm z rm (markPoint s) = .ok v t

theorem readable {z : Size} {rm : Rm} {s : State} (hl : Plain s)
    (h : isOk (readRm z rm (markPoint s)) = true) : Readable z rm s := ⟨hl, runs_of h⟩

/-- The hypotheses of `Stores`: the operand is written. -/
def Storable (z : Size) (rm : Rm) (v : z.Val) (s : State) : Prop :=
  Plain s ∧ Mem.wf s.mem = true ∧ ∃ p u t, place rm (markPoint s) = .ok p u ∧ p.write z v u = .ok () t

theorem storable {z : Size} {rm : Rm} {v : z.Val} {s : State} (hl : Plain s) (hm : Mem.wf s.mem = true)
    (h1 : isOk (place rm (markPoint s)) = true)
    (h2 : isOk ((okVal (.reg .eax) (place rm (markPoint s))).write z v (okState (place rm (markPoint s)))) = true) :
    Storable z rm v s := ⟨hl, hm, _, _, _, ok_of _ h1, ok_unit h2⟩

/-- The hypotheses of `Updates`: the operand is read and a result written, `d` free values being drawn between. -/
def Updatable (z : Size) (rm : Rm) (d : Nat) (out : z.Val → z.Val) (mem : Bool) (s : State) : Prop :=
  PrefixesFit s mem ∧ Mem.wf s.mem = true ∧ ∃ p u a v t, place rm (markPoint s) = .ok p u ∧ p.readRmw z u = .ok a v ∧
    p.write z (out a) { v with draws := v.draws + d } = .ok () t

/-- The place of an operand, and what reading it there gives. -/
def placeAt (rm : Rm) (s : State) : EStateM.Result Err State Place := place rm (markPoint s)
def readAt (z : Size) (rm : Rm) (s : State) : EStateM.Result Err State z.Val :=
  (okVal (.reg .eax) (placeAt rm s)).readRmw z (okState (placeAt rm s))

theorem updatable {z : Size} {rm : Rm} {d : Nat} {out : z.Val → z.Val} {mem : Bool} {s : State} (hl : PrefixesFit s mem)
    (hm : Mem.wf s.mem = true) (h1 : isOk (placeAt rm s) = true) (h2 : isOk (readAt z rm s) = true)
    (h3 : isOk ((okVal (.reg .eax) (placeAt rm s)).write z (out (okVal (BitVec.zero _) (readAt z rm s)))
      { okState (readAt z rm s) with draws := (okState (readAt z rm s)).draws + d }) = true) :
    Updatable z rm d out mem s := ⟨hl, hm, _, _, _, _, _, ok_of _ h1, ok_of (BitVec.zero _) h2, ok_unit h3⟩

theorem test_witness_MovesLoadTheirOperand :
    Readable .b lastB rs ∧ Readable .w lastW rs ∧ Readable .d lastD rs ∧ Readable .b (.reg .edi) rs ∧
      Readable .w (.reg .esp) rs ∧ Readable .d (.reg .eax) ps3 :=
  by refine ⟨?_, ?_, ?_, ?_, ?_, ?_⟩ <;> exact readable ⟨rfl, rfl⟩ (by decide +kernel)

theorem test_witness_MovesStoreTheirSource :
    Storable .b lastB 0x78 rs ∧ Storable .w lastW 0x5678 rs ∧ Storable .d lastD 0x12345678 rs ∧
      Storable .b (.reg .edi) 1 rs ∧ Storable .w (.reg .esp) 1 rs ∧ Storable .d (.reg .eax) 1 rs :=
  ⟨storable ⟨rfl, rfl⟩ rfl (by decide +kernel) (by decide +kernel), storable ⟨rfl, rfl⟩ rfl (by decide +kernel) (by decide +kernel),
    storable ⟨rfl, rfl⟩ rfl (by decide +kernel) (by decide +kernel), storable ⟨rfl, rfl⟩ rfl (by decide +kernel) (by decide +kernel),
    storable ⟨rfl, rfl⟩ rfl (by decide +kernel) (by decide +kernel), storable ⟨rfl, rfl⟩ rfl (by decide +kernel) (by decide +kernel)⟩

theorem test_witness_DirectMovesUseTheAccumulator :
    (Plain rs ∧ Mem.wf rs.mem = true) ∧
      (∃ v t, readMem (rs.dataSeg .ds) (moffsOff (.p16 0xFFFF)) 1 (markPoint rs) = .ok v t) ∧
      (∃ v t, readMem (rs.dataSeg .ds) (moffsOff (.p32 0xFFFC)) 4 (markPoint rs) = .ok v t) ∧
      (∃ u t, writeMem (rs.dataSeg .ds) (moffsOff (.p16 0xFFFF)) 1 0x78 (markPoint rs) = .ok u t) ∧
      ∃ u t, writeMem (rs.dataSeg .ds) (moffsOff (.p32 0xFFFC)) 4 0x12345678 (markPoint rs) = .ok u t :=
  ⟨⟨⟨rfl, rfl⟩, rfl⟩, runs_of (by decide +kernel), runs_of (by decide +kernel), runs_of (by decide +kernel),
    runs_of (by decide +kernel)⟩

theorem test_witness_RegisterMovesChangeOneRegister :
    Plain rs ∧ eaUndefined (.sib 0 .esp .eax .none) = false ∧ eaUndefined (.sib 1 .esp .eax .none) = true ∧
      eaUndefined (.sibAbs 3 .esp 0) = true ∧ eaUndefined (.sibAbs 3 .edi 0) = false := by
  decide

theorem test_witness_ExchangesSwapTheirOperands :
    Updatable .b lastB 0 (fun _ => 0x78) true locked ∧ Updatable .d (.reg .ecx) 0 (fun _ => 1) false rs :=
  ⟨updatable (by decide) rfl (by decide +kernel) (by decide +kernel) (by decide +kernel),
    updatable (by decide) rfl (by decide +kernel) (by decide +kernel) (by decide +kernel)⟩

theorem test_witness_PushesStoreTheirOperand :
    (Plain rs ∧ Mem.wf rs.mem = true ∧ rs.isV86 = false ∧ vs3.isV86 = true ∧ vs3.flags.iopl = 3) ∧
      (∃ u t, push .w 0x1234 (markPoint (atStack rs 2)) = .ok u t) ∧
      (∃ u t, push .w 0x1234 (markPoint (atStack rs 0)) = .ok u t) ∧
      (∃ u t, push .d 0x12345678 (markPoint (atStack rs 4)) = .ok u t) ∧
      (∃ u t, push .d (padded .d .cs rs) { markPoint rs with draws := rs.draws + 1 } = .ok u t) ∧
      (∃ v u x t, readRm .w lastW (markPoint rs) = .ok v u ∧ push .w (toWord .w v) u = .ok x t) ∧
      (∃ u t, push .w (vs3.flags.low.setWidth 32) (markPoint vs3) = .ok u t) ∧
      ∃ u t, push .d
        (({ vs3.flags with rf := false, vm := vs3.flags.vm && Config.freeBit vs3.draws } : Flags).image
          ((Config.freeWord (vs3.draws + 1)).setWidth 14))
        { markPoint vs3 with draws := vs3.draws + 2 } = .ok u t :=
  ⟨by decide +kernel, runs_of (by decide +kernel), runs_of (by decide +kernel), runs_of (by decide +kernel),
    runs_of (by decide +kernel), ⟨_, _, _, _, ok_of 0 (by decide +kernel), ok_unit (by decide +kernel)⟩,
    runs_of (by decide +kernel), runs_of (by decide +kernel)⟩

theorem test_witness_PopsWriteTheirDestination :
    (Plain rs ∧ Mem.wf rs.mem = true ∧ rs.isV86 = false ∧ vs3.isV86 = true ∧ vs3.flags.iopl = 3) ∧
      (∃ v t, pop .w (markPoint (atStack rs 0xFFFE)) = .ok v t) ∧
      (∃ v t, pop .d (markPoint (atStack rs 0xFFFC)) = .ok v t) ∧
      (∃ v u p w x t, pop .w (markPoint rs) = .ok v u ∧ place lastW u = .ok p w ∧
        p.write .w (ofWord .w v) w = .ok x t) ∧
      (∃ v u x t, pop .w (markPoint rs) = .ok v u ∧ loadSeg .es (v.setWidth 16) u = .ok x t) ∧
      (∃ v u x t, pop .d (markPoint (atStack ps0 0x1000)) = .ok v u ∧ loadSeg .ds (v.setWidth 16) u = .ok x t) ∧
      (∃ v t, pop .w (markPoint vs3) = .ok v t) ∧ ∃ v t, pop .d (markPoint vs3) = .ok v t :=
  ⟨by decide +kernel, runs_of (by decide +kernel), runs_of (by decide +kernel),
    ⟨_, _, _, _, _, _, ok_of 0 (by decide +kernel), ok_of (.reg .eax) (by decide +kernel),
      ok_unit (by decide +kernel)⟩,
    ⟨_, _, _, _, ok_of 0 (by decide +kernel), ok_unit (by decide +kernel)⟩,
    ⟨_, _, _, _, ok_of 0 (by decide +kernel), ok_unit (by decide +kernel)⟩, runs_of (by decide +kernel),
    runs_of (by decide +kernel)⟩

/-- Eight pushes of some values can be made one after the other. -/
def pushesAll (z : Size) (vs : List Word) (s : State) : Bool :=
  match vs with
  | [] => true
  | v :: rest => isOk (push z v s) && pushesAll z rest (okState (push z v s))

theorem pushChain_of {z : Size} : ∀ {vs : List Word} {s : State}, pushesAll z vs s = true → ∃ t, PushChain z vs s t
  | [], s, _ => ⟨s, rfl⟩
  | v :: rest, s, h => by
    simp only [pushesAll, Bool.and_eq_true] at h
    obtain ⟨t, ht⟩ := pushChain_of h.2
    exact ⟨t, _, ok_unit h.1, ht⟩

/-- As many pops can be made one after the other. -/
def popsAll (z : Size) (n : Nat) (s : State) : Bool :=
  match n with
  | 0 => true
  | n + 1 => isOk (pop z s) && popsAll z n (okState (pop z s))

theorem popChain_of {z : Size} : ∀ {n : Nat} {s : State}, popsAll z n s = true →
    ∃ vs t, vs.length = n ∧ PopChain z vs s t
  | 0, s, _ => ⟨[], s, rfl, rfl⟩
  | n + 1, s, h => by
    simp only [popsAll, Bool.and_eq_true] at h
    obtain ⟨vs, t, hn, ht⟩ := popChain_of h.2
    exact ⟨_ :: vs, t, by simp [hn], _, ok_of 0 h.1, ht⟩

/-- The values that PUSHA pushes. -/
def pushaVals (s : State) : List Word :=
  [s.regs.eax, s.regs.ecx, s.regs.edx, s.regs.ebx, s.regs.esp, s.regs.ebp, s.regs.esi, s.regs.edi]

theorem test_witness_PushaAndPopaMoveAllRegisters :
    (Plain rs ∧ Mem.wf rs.mem = true) ∧
      (pushaOdd (stackOff rs.stackSize (atStack rs 16).regs.esp) = false ∧
        ∃ t, PushChain .w (pushaVals (atStack rs 16)) (markPoint (atStack rs 16)) t) ∧
      (pushaOdd (stackOff rs.stackSize (atStack rs 17).regs.esp) = false ∧
        ∃ t, PushChain .w (pushaVals (atStack rs 17)) (markPoint (atStack rs 17)) t) ∧
      (ps0.isProtected = true ∧ ∃ t, PushChain .d (pushaVals (atStack ps0 39)) (markPoint (atStack ps0 39)) t) ∧
      (∃ vs t, vs.length = 8 ∧ PopChain .w vs (markPoint (atStack rs 0xFFF0)) t) ∧
      ∃ vs t, vs.length = 8 ∧ PopChain .d vs (markPoint (atStack rs 0xFFE0)) t :=
  ⟨by decide +kernel, ⟨by decide +kernel, pushChain_of (by decide +kernel)⟩,
    ⟨by decide +kernel, pushChain_of (by decide +kernel)⟩, ⟨by decide +kernel, pushChain_of (by decide +kernel)⟩,
    popChain_of (by decide +kernel), popChain_of (by decide +kernel)⟩

/-- A far pointer 0010H:00001234H at 300H. -/
def farAt (s : State) : State := withBytes 0x300 [0x34, 0x12, 0, 0, 0x10, 0] s

theorem test_witness_SegmentAndTableLoadsComplete :
    (Plain rs ∧ Plain ps0) ∧
      (∃ v u x t, readRm .w (.reg .eax) (markPoint rs) = .ok v u ∧ loadSeg .ss v u = .ok x t) ∧
      (∃ off sel u x t, readFarPtr .d (.abs32 0x300) (markPoint (farAt ps0)) = .ok (off, sel) u ∧
        loadSeg .ss sel u = .ok x t) ∧
      (∃ off sel u x t, readFarPtr .w (.abs16 0xFFFC) (markPoint rs) = .ok (off, sel) u ∧
        loadSeg .gs sel u = .ok x t) ∧
      ∃ v t, readMem (rs.dataSeg .ds)
        (stackOff .a16 (toWord .w (rs.regs.read .w .ebx) + (rs.regs.read .b .eax).setWidth 32)) 1 (markPoint rs)
          = .ok v t := by
  refine ⟨by decide +kernel, ⟨_, _, _, _, ok_of (BitVec.zero _) (by decide +kernel), ok_unit (by decide +kernel)⟩, ?_,
    ?_, runs_of (by decide +kernel)⟩
  · exact ⟨_, _, _, _, _, ok_of (0, 0) (by decide +kernel), ok_unit (by decide +kernel)⟩
  · exact ⟨_, _, _, _, _, ok_of (0, 0) (by decide +kernel), ok_unit (by decide +kernel)⟩

theorem test_witness_ArithmeticWritesResultAndFlags :
    Updatable .b lastB 0 (fun a => a + 1) true locked ∧ Updatable .w lastW 1 (fun a => a ||| 1) true rs ∧
      Updatable .d (.reg .ecx) 0 (fun a => a - 1) false rs ∧ Readable .b lastB rs ∧ Readable .d (.reg .eax) rs :=
  ⟨updatable (by decide) rfl (by decide +kernel) (by decide +kernel) (by decide +kernel),
    updatable (by decide) rfl (by decide +kernel) (by decide +kernel) (by decide +kernel),
    updatable (by decide) rfl (by decide +kernel) (by decide +kernel) (by decide +kernel),
    readable ⟨rfl, rfl⟩ (by decide +kernel), readable ⟨rfl, rfl⟩ (by decide +kernel)⟩

theorem test_witness_UnaryOperationsWriteTheirOperand :
    Updatable .b lastB 0 (fun a => a + 1) true locked ∧ Updatable .w lastW 0 (fun a => -a) true rs ∧
      Updatable .d lastD 0 (fun a => ~~~a) true rs ∧ Updatable .w (.reg .esp) 0 (fun a => a - 1) false rs :=
  ⟨updatable (by decide) rfl (by decide +kernel) (by decide +kernel) (by decide +kernel),
    updatable (by decide) rfl (by decide +kernel) (by decide +kernel) (by decide +kernel),
    updatable (by decide) rfl (by decide +kernel) (by decide +kernel) (by decide +kernel),
    updatable (by decide) rfl (by decide +kernel) (by decide +kernel) (by decide +kernel)⟩

theorem test_witness_MultiplicationWritesTheProduct :
    Readable .b lastB rs ∧ Readable .w (.reg .ecx) rs ∧ Readable .d lastD ps0 :=
  ⟨readable ⟨rfl, rfl⟩ (by decide +kernel), readable ⟨rfl, rfl⟩ (by decide +kernel), readable ⟨rfl, rfl⟩ (by decide +kernel)⟩

/-- A register operand and the dividend, for DIV and IDIV of a byte. -/
def dividing (ax cl : Word) : State := real [] (regs4 ax cl 0 0) flags0

/-- The quotient 255 fits and 256 does not; signed, 127 and -128 fit and 128 does not; 0 divides nothing. -/
theorem test_witness_DivisionWritesQuotientAndRemainder :
    (∀ ax cl, Plain (dividing ax cl) ∧ ∃ t, readRm .b (.reg .ecx) (markPoint (dividing ax cl))
        = .ok ((dividing ax cl).regs.read .b .ecx) t ∧ t.regs = (dividing ax cl).regs) ∧
      (let q := fun ax cl => (pairOf (dividing ax cl).regs .b).toNat / ((dividing ax cl).regs.read .b .ecx).toNat
       q 0xFF 1 < 2 ^ 8 ∧ 2 ^ 8 ≤ q 0x100 1 ∧ ((dividing 5 0).regs.read .b .ecx).toNat = 0) ∧
      let q := fun ax cl => (pairOf (dividing ax cl).regs .b).toInt.tdiv ((dividing ax cl).regs.read .b .ecx).toInt
      q 0x7F 1 = 127 ∧ q 0xFF80 1 = -128 ∧ q 0x80 1 = 128 ∧ q 0xFF81 0xFF = 127 ∧
        ((dividing 5 0).regs.read .b .ecx).toInt = 0 :=
  ⟨fun _ _ => ⟨⟨rfl, rfl⟩, _, rfl, rfl⟩, by decide +kernel, by decide +kernel⟩

/-- Masked counts of 0 (32), 1 and 31; SHLD of a word by 15 and 16. -/
theorem test_witness_ShiftsWriteResultAndFlags :
    Updatable .b lastB 6 (fun a => (ShiftOp.shl.apply flags0 (statusAt 0) a 1).1) false rs ∧
      Updatable .d (.reg .eax) 6 (fun a => (ShiftOp.rcr.apply flags0 (statusAt 0) a 31).1) false rs ∧
      Updatable .w lastW 7 (fun a => a) false rs ∧
      (32#8).toNat % 32 = 0 ∧ (1#8).toNat % 32 ≠ 0 ∧ (31#8).toNat % 32 ≠ 0 ∧ ((withCount 33).regs.read .b .ecx).toNat % 32 = 1 :=
  ⟨updatable (by decide) rfl (by decide +kernel) (by decide +kernel) (by decide +kernel),
    updatable (by decide) rfl (by decide +kernel) (by decide +kernel) (by decide +kernel),
    updatable (by decide) rfl (by decide +kernel) (by decide +kernel) (by decide +kernel), by decide +kernel⟩

/-- An offset in a register reaches the operand before and after the one addressed (-1 and 33); a source of 0 and one with
its top bit alone. -/
theorem test_witness_BitInstructionsTestAndChangeOneBit :
    Updatable .d lastD 6 (fun a => BitOp.set.apply a 31) true locked ∧ Readable .w (.reg .ebp) rs ∧
      (∃ p u a v x t, (do
          let off ← readReg .d .ecx
          bitPlace .d (.mem (.m16 .bx .none)) off) (markPoint (withCount 0xFFFFFFFF)) = .ok p u ∧
        p.readRmw .d u = .ok a v ∧
        p.write .d (BitOp.complement.apply a 31) { v with draws := v.draws + 6 } = .ok x t) ∧
      (∃ p u a v, (do
          let off ← readReg .d .ecx
          bitPlace .d (.mem (.m16 .bx .none)) off) (markPoint (withCount 33)) = .ok p u ∧ p.read .d u = .ok a v) ∧
      rs.regs.read .w .ebp = 0 ∧ (dividing 0x80000000 0).regs.read .d .eax ≠ 0 ∧ 31 < Size.d.bits ∧ 0 < Size.b.bits ∧
      eaUndefined (.m16 .bx .none) = false :=
  ⟨updatable (by decide) rfl (by decide +kernel) (by decide +kernel) (by decide +kernel), readable ⟨rfl, rfl⟩ (by decide +kernel),
    ⟨_, _, _, _, _, _, ok_of (.reg .eax) (by decide +kernel), ok_of (BitVec.zero _) (by decide +kernel),
      ok_unit (by decide +kernel)⟩,
    ⟨_, _, _, _, ok_of (.reg .eax) (by decide +kernel), ok_of (BitVec.zero _) (by decide +kernel)⟩, by decide +kernel⟩

theorem test_witness_SetccStoresTheCondition :
    Storable .b lastB (condByte .o rs) rs ∧ Storable .b (.reg .esp) (condByte .ne rs) rs :=
  ⟨storable ⟨rfl, rfl⟩ rfl (by decide +kernel) (by decide +kernel), storable ⟨rfl, rfl⟩ rfl (by decide +kernel) (by decide +kernel)⟩

/-- The statements whose only hypothesis is that no LOCK and no repeat prefix precedes: decimal adjustment, the flag
instructions, SAHF, NOP and
LAHF. -/
theorem test_witness_plain : Plain rs ∧ Plain ps3 ∧ Plain vs3 := by decide

/-- Level 0 in a code segment whose last byte is 1FFH. -/
def shortCs (s : State) : State := { s with segs := { s.segs with cs := { s.segs.cs with limit := 0x1FF } } }

/-- The condition true and false; the target at the limit and one past it. -/
theorem test_witness_ConditionalJumpsFollowTheirCondition :
    Plain rs ∧ condHolds .ne rs.flags = true ∧ condHolds .e rs.flags = false ∧
      NearFits rs (jccTarget (.rel8 .o16 0xFE) rs) ∧ NearFits (shortCs ps0) (jccTarget (.rel32 0xFF) (shortCs ps0)) ∧
      ¬NearFits (shortCs ps0) (jccTarget (.rel32 0x100) (shortCs ps0)) ∧
      ((withCount 0x10000).regs.read .w .ecx == 0) = true ∧ ((withCount 0x10000).regs.ecx == 0) = false := by
  decide +kernel

/-- Counts of 1 (the loop ends), 2 and 0 (it goes on), with ZF clear. -/
theorem test_witness_LoopsCountDownAndJump :
    (Plain (withCount 1) ∧ ((withCount 1).regs.read .w .ecx != 1) = false) ∧
      ((withCount 2).regs.read .w .ecx != 1) = true ∧ ((withCount 0).regs.read .d .ecx != 1) = true ∧
      rs.flags.zf = false ∧ NearFits rs (relTarget .o16 (0xFE#8 |>.signExtend 32) rs) ∧
      ¬NearFits (shortCs ps0) (relTarget .o32 0x100 (shortCs ps0)) := by
  decide +kernel

theorem test_witness_NearTransfersSetTheInstructionPointer :
    (Plain rs ∧ Mem.wf rs.mem = true ∧ NearFits rs (relTarget .o16 0 rs) ∧
      NearFits (shortCs ps0) (relTarget .o32 0xFF (shortCs ps0)) ∧
      ¬NearFits (shortCs ps0) (relTarget .o32 0x100 (shortCs ps0))) ∧
      (∃ v t, readRm .w (.reg .eax) (markPoint rs) = .ok v t ∧ NearFits rs (toWord .w v)) ∧
      (∃ u t, push .w rs.eip (markPoint (atStack rs 2)) = .ok u t) ∧
      (∃ v u x t, readRm .w lastW (markPoint rs) = .ok v u ∧ push .w rs.eip u = .ok x t) ∧
      (∃ v t, pop .w (markPoint (atStack rs 0xFFFE)) = .ok v t ∧ NearFits rs v) ∧
      ∃ v t, pop .d (markPoint (shortCs (atStack ps0 0x1008))) = .ok v t ∧ ¬NearFits (shortCs ps0) v :=
  ⟨by decide +kernel, ⟨_, _, rfl, by decide +kernel⟩, runs_of (by decide +kernel),
    ⟨_, _, _, _, ok_of (BitVec.zero _) (by decide +kernel), ok_unit (by decide +kernel)⟩,
    ⟨_, _, ok_of 0 (by decide +kernel), by decide +kernel⟩, ⟨_, _, ok_of 0 (by decide +kernel), by decide +kernel⟩⟩

theorem pushesReturn_of {z : Size} {s : State} (h1 : isOk (push z (padded z .cs s) { s with draws := s.draws + 1 }) = true)
    (h2 : isOk (push z s.eip (okState (push z (padded z .cs s) { s with draws := s.draws + 1 }))) = true) :
    ∃ t, PushesReturn z s t := ⟨_, _, ok_unit h1, ok_unit h2⟩

theorem test_witness_FarTransfersLoadSelectorAndBase :
    (Plain rs ∧ Mem.wf rs.mem = true ∧ rs.isProtected = false ∧ vs3.isProtected = false) ∧
      (∃ off sel u, readFarPtr .w (.abs16 0xFFFC) (markPoint rs) = .ok (off, sel) u ∧ ∃ t, PushesReturn .w u t) ∧
      (∃ t, PushesReturn .w (markPoint (atStack rs 4)) t) ∧ (∃ t, PushesReturn .d (markPoint vs3) t) ∧
      (∃ vs t, vs.length = 2 ∧ PopChain .w vs (markPoint (atStack rs 0xFFFC)) t) ∧
      ∃ vs t, vs.length = 2 ∧ PopChain .d vs (markPoint vs3) t :=
  ⟨by decide +kernel,
    ⟨_, _, _, ok_of (0, 0) (by decide +kernel), pushesReturn_of (by decide +kernel) (by decide +kernel)⟩,
    pushesReturn_of (by decide +kernel) (by decide +kernel), pushesReturn_of (by decide +kernel) (by decide +kernel),
    popChain_of (by decide +kernel), popChain_of (by decide +kernel)⟩

/-- The descriptor of a selector, and what its fetch leaves. -/
def descAt (sel : Half) (s : State) : EStateM.Result Err State (Word × Desc) :=
  fetchDesc sel (.gp (selCode sel false)) (markPoint s)
def noDesc : Word × Desc := (0, ⟨0, 0⟩)
def theDesc (sel : Half) (s : State) : Desc := (okVal noDesc (descAt sel s)).2

theorem descAt_of {sel : Half} {s : State} (h : isOk (descAt sel s) = true) :
    fetchDesc sel (.gp (selCode sel false)) (markPoint s)
      = .ok ((okVal noDesc (descAt sel s)).1, theDesc sel s) (okState (descAt sel s)) := ok_of _ h

/-- Nonconforming code of level 0 from level 0, conforming code of level 0 from level 3; a null selector, one just past the
table's last entry, one of data and one of a busy TSS. -/
theorem test_witness_FarTransfersCheckTheCodeSegment :
    (Plain ps0 ∧ Mem.wf ps0.mem = true ∧ ps0.isProtected = true ∧ selNull 0x0B = false ∧ selNull 3 = true ∧
      selNull 0x70 = false ∧ descAddr ps0 0x70 = none ∧ ¬(theDesc 0x10 ps0).isCode = true ∧ (theDesc 0x10 ps0).dt = true ∧
      (let d := theDesc 0x28 ps0
       ¬d.isCode = true ∧ d.dt = false ∧ d.typ ≠ 4 ∧ d.typ ≠ 12 ∧ d.typ ≠ 5 ∧ ¬IsFreeTss d) ∧
      FarCodeFits ps0 8 (theDesc 8 ps0) 0 ∧ FarCodeFits ps0 8 (theDesc 8 ps0) 0xFFFFFFFF ∧
      FarCodeFits ps3 0x43 (theDesc 0x43 ps3) 0 ∧ roomFor ps0.segs.ss 8 8 = true) ∧
      (∃ u t, markAccessed (okVal noDesc (descAt 8 ps0)).1 (theDesc 8 ps0) (okState (descAt 8 ps0)) = .ok u t) ∧
      (∃ t, PushesReturn .d (okState (descAt 8 ps0)) t) ∧
      isOk (descAt 8 ps0) = true ∧ isOk (descAt 0x43 ps3) = true ∧ isOk (descAt 0x10 ps0) = true ∧
      isOk (descAt 0x28 ps0) = true :=
  ⟨by decide +kernel, runs_of (by decide +kernel), pushesReturn_of (by decide +kernel) (by decide +kernel),
    by decide +kernel⟩

theorem test_witness_SoftwareInterruptsTakeTheirVector :
    (Plain rs ∧ vs3.isV86 = true ∧ vs3.flags.iopl = 3 ∧
      (v86 [] (regs4 0 0 0 0) flags0).flags.iopl ≠ 3 ∧ rs.flags.ov = false) ∧
      (∃ u t, enter (.soft 3) (markPoint rs) = .ok u t) ∧ (∃ u t, enter (.soft 0xFF) (markPoint rs) = .ok u t) ∧
      (∃ u t, enter (.soft 0x22) (markPoint ps3) = .ok u t) ∧
      ∃ u t, enter (.soft 4) (markPoint { rs with flags := { flags0 with ov := true } }) = .ok u t :=
  ⟨by decide +kernel, runs_of (by decide +kernel), runs_of (by decide +kernel), runs_of (by decide +kernel),
    runs_of (by decide +kernel)⟩

/-- The bounds -2 and 5 at 300H, and an index. -/
def bounded (dx : Word) : State := withBytes 0x300 [0xFE, 0xFF, 5, 0] (real [] (regs4 0 0 dx 0) flags0)

/-- The two bounds are read. -/
def BoundsRead (s : State) : Prop :=
  Plain s ∧ ∃ w u t, effAddr (.abs16 0x300) (markPoint s) = .ok 0x300 w ∧
    readMem (s.dataSeg .ds) 0x300 2 w = .ok 0xFFFE u ∧
    readMem (s.dataSeg .ds) (0x300 + BitVec.ofNat 32 2) 2 u = .ok 5 t

/-- The indexes -2 and 5 lie inside the bounds -2 and 5, -3 and 6 outside. -/
theorem test_witness_BoundComparesSignedBounds :
    BoundsRead (bounded 0xFFFE) ∧ BoundsRead (bounded 5) ∧ BoundsRead (bounded 0xFFFD) ∧ BoundsRead (bounded 6) ∧
      let v := fun dx => ((bounded dx).regs.read .w .edx).toInt
      let lo := (ofWord .w 0xFFFE : BitVec 16).toInt
      let hi := (ofWord .w 5 : BitVec 16).toInt
      (lo ≤ v 0xFFFE ∧ v 0xFFFE ≤ hi) ∧ (lo ≤ v 5 ∧ v 5 ≤ hi) ∧ ¬lo ≤ v 0xFFFD ∧ ¬v 6 ≤ hi := by
  refine ⟨⟨⟨rfl, rfl⟩, _, _, _, rfl, ok_eq 0 ?_ ?_, ok_eq 0 ?_ ?_⟩, ⟨⟨rfl, rfl⟩, _, _, _, rfl, ok_eq 0 ?_ ?_, ok_eq 0 ?_ ?_⟩,
    ⟨⟨rfl, rfl⟩, _, _, _, rfl, ok_eq 0 ?_ ?_, ok_eq 0 ?_ ?_⟩, ⟨⟨rfl, rfl⟩, _, _, _, rfl, ok_eq 0 ?_ ?_, ok_eq 0 ?_ ?_⟩, ?_⟩ <;>
    decide +kernel

/-- Nothing but a repeat prefix before the instruction, and ECX. -/
def repeated (k : RepKind) (c : Word) : State :=
  { withCount c with cur := { rs.cur with rep := some k } }

/-- No prefix; the counts 0 (in CX), 1 and 2; and a comparison that finds equality, which REPE goes on after, and one
that does not. -/
theorem test_witness_StringInstructionsRunAndRepeat :
    (Unlocked rs ∧ rs.cur.rep = none ∧ (repeated .repe 0).cur.rep = some .repe ∧
      indexOf .a16 .ecx (repeated .repe 0x10000) = 0 ∧ indexOf .a16 .ecx (repeated .repe 1) - 1 = 0 ∧
      indexOf .a16 .ecx (repeated .repe 2) - 1 ≠ 0) ∧
      (∃ t, MovsStep .a16 .d (markPoint rs) t) ∧ (∃ t, StosStep .a32 .b (markPoint rs) t) ∧
      (∃ t, LodsStep .a16 .w (markPoint rs) t) ∧
      (∃ t, CmpsStep .a16 .b (markPoint (repeated .repe 2)) t ∧ t.flags.zf = (RepKind.repe == .repe)) ∧
      ∃ t, ScasStep .a16 .b (markPoint (repeated .repe 2)) t ∧ t.flags.zf ≠ (RepKind.repe == .repe) :=
  ⟨by decide +kernel, ⟨_, _, _, _, ok_of 0 (by decide +kernel), ok_unit (by decide +kernel), rfl⟩,
    ⟨_, _, ok_unit (by decide +kernel), rfl⟩, ⟨_, _, _, ok_of 0 (by decide +kernel), rfl⟩,
    ⟨_, ⟨_, _, _, _, ok_of 0 (by decide +kernel), ok_of 0 (by decide +kernel), rfl⟩, by decide +kernel⟩,
    ⟨_, ⟨_, _, ok_of 0 (by decide +kernel), rfl⟩, by decide +kernel⟩⟩

theorem test_witness_CliAndStiNeedTheIoPrivilege :
    Plain ps3 ∧ MayChangeIf rs ∧ MayChangeIf ps0 ∧ MayChangeIf { ps3 with flags := { flags0 with iopl := 3 } } ∧
      ¬MayChangeIf { ps3 with flags := { flags0 with iopl := 2 } } ∧ ¬MayChangeIf ps3 := by
  decide +kernel

theorem test_witness_PrefixesAreNoted :
    locked.cur.lock = true ∧ lockAllowed (.movRm8R8 lastB .eax) = false ∧
      lockAllowed (.add (.rm8R8 (.reg .eax) .ecx)) = false ∧ lockAllowed (.cmp (.rm8R8 lastB .ecx)) = false ∧
      lockAllowed (.add (.rm8R8 lastB .ecx)) = true ∧ isPrefix (.movRm8R8 lastB .eax) = false ∧
      isReserved (.movRm8R8 lastB .eax) = false ∧
      (repeated .repne 1).cur.rep ≠ none ∧ (repeated .repne 1).cur.lock = false ∧ isString (.movRm8R8 lastB .eax) = false ∧
      (let s := { rs with cur := { locked.cur with rep := some .repe } }
       s.cur.rep ≠ none ∧ s.cur.lock = true ∧ isString (.add (.rm8R8 lastB .ecx)) = false) := by
  decide

/-- A state with CR0.MP, CR0.EM and CR0.TS as given. -/
def coprocessor (mp em ts : Bool) : State :=
  { rs with sys := { rs.sys with cr0 := { rs.sys.cr0 with mp := mp, em := em, ts := ts } } }

theorem test_witness_CoprocessorAndReservedOpcodes :
    (Plain rs ∧ (coprocessor false true false).sys.cr0.em = true ∧ (coprocessor false false true).sys.cr0.ts = true ∧
      rs.sys.cr0.em = false ∧ rs.sys.cr0.ts = false ∧ (coprocessor true false true).sys.cr0.mp = true ∧
      rs.now.busy = false ∧ rs.now.error = false ∧ isReserved (.reservedC0 (.reg .eax)) = true) ∧
      Readable .b lastB rs :=
  ⟨by decide +kernel, readable ⟨rfl, rfl⟩ (by decide +kernel)⟩

/-- The six bytes at the end of the segment. -/
theorem test_witness_TableRegistersAreStoredAndLoaded :
    (Plain rs ∧ Mem.wf rs.mem = true ∧ rs.curCpl = 0) ∧
      (∃ off u v w x t, effAddr (.abs16 0xFFFA) (markPoint rs) = .ok off u ∧ writeMem .ds off 2 0x3FF u = .ok v w ∧
        writeMem .ds (off + 2) 4 (if OSize.o16 = .o16 then 0x12345678 &&& 0x00FFFFFF else 0x12345678) w = .ok x t) ∧
      (∃ off u limit v base t, effAddr (.abs16 0xFFFA) (markPoint rs) = .ok off u ∧
        readMem (rs.dataSeg .ds) off 2 u = .ok limit v ∧ readMem (rs.dataSeg .ds) (off + 2) 4 v = .ok base t) ∧
      Storable .w lastW 0x10 rs ∧ Storable .w (.reg .eax) 0x28 ps0 ∧ ps0.isProtected = true ∧ (5 : Nat) ≤ 30 :=
  ⟨by decide +kernel,
    ⟨_, _, _, _, _, _, ok_of 0 (by decide +kernel), ok_unit (by decide +kernel), ok_unit (by decide +kernel)⟩,
    ⟨_, _, _, _, _, _, ok_of 0 (by decide +kernel), ok_of 0 (by decide +kernel), ok_of 0 (by decide +kernel)⟩,
    storable ⟨rfl, rfl⟩ rfl (by decide +kernel) (by decide +kernel), storable ⟨rfl, rfl⟩ (by decide +kernel) (by decide +kernel)
      (by decide +kernel), by decide +kernel⟩

/-- Level 0 with a selector in AX. -/
def selecting (sel : Word) : State := prot0 [] (regs4 sel 0 0 0) flags0

/-- The state after AX has been read. -/
def afterAx (sel : Word) : State := okState (readRm .w (.reg .eax) (markPoint (selecting sel)))

/-- Null selectors 0 and 3, the LDT, and both kinds of available TSS. -/
theorem test_witness_SystemRegistersAreLoaded :
    (∀ sel, Plain (selecting sel) ∧ (selecting sel).cpl = 0 ∧ (selecting sel).curCpl = 0 ∧
      (selecting sel).isProtected = true) ∧
      Mem.wf ps0.mem = true ∧ (∃ v t, readRm .w lastW (markPoint rs) = .ok v t) ∧ rs.curCpl = 0 ∧
      (∀ sel, ∃ t, readRm .w (.reg .eax) (markPoint (selecting sel)) = .ok (sel.setWidth 16) t) ∧
      (selNull 0 = true ∧ selNull 3 = true ∧ selNull 0x48 = false ∧ selTi 0x48 = false) ∧
      (let d := theDesc 0x48 ps0
       isOk (descAt 0x48 ps0) = true ∧ d.dt = false ∧ d.typ = 2 ∧ d.present = true) ∧
      (let d := theDesc 0x30 ps0
       isOk (descAt 0x30 ps0) = true ∧ d.dt = false ∧ d.typ = 9 ∧ d.present = true ∧
         isOk (setBusy (okVal noDesc (descAt 0x30 ps0)).1 true (okState (descAt 0x30 ps0))) = true) ∧
      (let d := theDesc 0x68 ps0
       isOk (descAt 0x68 ps0) = true ∧ d.dt = false ∧ d.typ = 1 ∧ d.present = true ∧
         isOk (setBusy (okVal noDesc (descAt 0x68 ps0)).1 true (okState (descAt 0x68 ps0))) = true) :=
  ⟨fun _ => ⟨⟨rfl, rfl⟩, rfl, rfl, rfl⟩, by decide +kernel, runs_of (by decide +kernel), rfl, fun _ => ⟨_, rfl⟩,
    by decide +kernel, by decide +kernel, by decide +kernel, by decide +kernel⟩

/-- A selector with no descriptor (null, and past the table), one that is visible and one that is not. -/
theorem test_witness_SelectorInspectionSetsZf :
    Updatable .w (.reg .eax) 0 (fun v => withRpl v 3) false ps0 ∧
      (Plain ps0 ∧ Mem.wf ps0.mem = true ∧ ps0.isProtected = true ∧ ps3.isProtected = true) ∧
      (isOk (peekDesc 3 (markPoint ps0)) = true ∧ okVal none (peekDesc 3 (markPoint ps0)) = none) ∧
      (isOk (peekDesc 0x70 (markPoint ps0)) = true ∧ okVal none (peekDesc 0x70 (markPoint ps0)) = none) ∧
      (isOk (peekDesc 8 (markPoint ps0)) = true ∧
        okVal none (peekDesc 8 (markPoint ps0)) = some ⟨0x0000FFFF, 0x00CF9A00⟩) ∧
      (let d : Desc := ⟨0x0000FFFF, 0x00CF9A00⟩
       Visible ps0 8 d false ∧ ¬Visible ps3 8 d false ∧ ¬Visible ps0 0x0B d false ∧ d.dt = true ∧ d.readable = true) ∧
      (theDesc 0x38 ps0).dt = false ∧ (theDesc 0x38 ps0).typ = 4 ∧ (rpl 3).toNat ≤ (rpl 3).toNat ∧
      (rpl 0).toNat < (rpl 3).toNat :=
  ⟨updatable (by decide) (by decide +kernel) (by decide +kernel) (by decide +kernel) (by decide +kernel),
    by decide +kernel⟩

theorem test_witness_ControlAndDebugRegisterMoves :
    Plain ps0 ∧ ps0.curCpl = 0 ∧ rs.curCpl = 0 ∧ ps0.now.ice = false ∧
      ((1#32).getLsbD 31 = false) ∧ ((0x80000001#32).getLsbD 0 = true) ∧
      ((0x80000000#32).getLsbD 31 = true ∧ (0x80000000#32).getLsbD 0 = false) ∧
      (let s := { rs with now := { Tick.quiet with ice := true } }
       Plain s ∧ s.curCpl = 0 ∧ s.now.ice = true) := by
  decide +kernel

/-- A TLB that a load of CR3 has flushed, with one entry written since, and TR7 with PL set. -/
def oneEntry : State :=
  { ps0 with
    tlb :=
      { entries := [{ block := 2, set := 3, page := 0x12345, valid := true, dirty := false, user := true,
                      writable := true, frame := 0x678 }]
        flushed := true
        tr6 := 0
        tr7 := 0x10 } }

theorem test_witness_PrivilegedInstructionsNeedLevelZero :
    Plain ps3 ∧ ps3.curCpl ≠ 0 ∧ vs3.curCpl ≠ 0 ∧ ps3.isProtected = true ∧ ps3.cpl ≠ 0 ∧ isPrivileged .hlt = true ∧
      isPrivileged (.movR32Tr .eax .tr6) = true ∧ isPrivileged .nop = false ∧
      onlyProtected (.arpl (.reg .eax) .ecx) = true ∧ rs.isProtected = false ∧ vs3.isProtected = false := by
  decide +kernel

/-- A stack at 0B000H with a return to 0008H:1234H, or, as words, to 001BH:1234H. -/
def returning : State := withBytes 0xB000 [0x34, 0x12, 0, 0, 8, 0, 0, 0, 3, 2, 0, 0] (atStack ps0 0xB000)
def returning16 : State := withBytes 0xB000 [0x34, 0x12, 0x1B, 0, 3, 2] (atStack ps3 0xB000)

theorem test_witness_InterruptReturnsRestoreTheirFrame :
    (Plain rs ∧ rs.isProtected = false ∧ vs3.isV86 = true ∧ vs3.flags.iopl = 3 ∧
      (v86 [] (regs4 0 0 0 0) flags0).flags.iopl ≠ 3) ∧
      (∃ vs t, vs.length = 3 ∧ PopChain .w vs (markPoint (atStack rs 0xFFFA)) t) ∧
      (∃ vs t, vs.length = 3 ∧ PopChain .d vs (markPoint vs3) t) := by
  exact ⟨by decide +kernel, popChain_of (by decide +kernel), popChain_of (by decide +kernel)⟩

/-- An IDT limit one byte short of vector 3's entry, and one that just holds it. -/
def idtLimit (s : State) (n : Half) : State :=
  { s with sys := { s.sys with idtr := { s.sys.idtr with limit := n } } }

theorem test_witness_RealModeEntryPushesFlagsCsAndIp :
    (rs.isReal = true ∧ Mem.wf rs.mem = true ∧ (idtLimit rs 14).sys.idtr.limit.toNat < 3 * 4 + 3 ∧
      3 * 4 + 3 ≤ (idtLimit rs 15).sys.idtr.limit.toNat ∧ (Event.soft 3).vec.toNat = 3) ∧
      (let s := idtLimit (atStack rs 6) 15
       let quiet : State → State := fun a => { a with flags := { s.flags with ie := false, tf := false } }
       ∃ u a v b w c ip d cs t, push .w (s.flags.low.setWidth 32) s = .ok u a ∧
         push .w (s.segs.cs.sel.setWidth 32) (quiet a) = .ok v b ∧ push .w s.eip b = .ok w c ∧
         sysRead (s.sys.idtr.base + BitVec.ofNat 32 12) 2 c = .ok ip d ∧
         sysRead (s.sys.idtr.base + BitVec.ofNat 32 12 + 2) 2 d = .ok cs t) :=
  ⟨by decide +kernel, _, _, _, _, _, _, _, _, _, _, ok_unit (by decide +kernel), ok_unit (by decide +kernel),
    ok_unit (by decide +kernel), ok_of 0 (by decide +kernel), ok_of 0 (by decide +kernel)⟩

/-- The gate of a vector, and what its fetch leaves. -/
def gateAt (n : Nat) (s : State) : EStateM.Result Err State Desc :=
  readDesc (s.sys.idtr.base + BitVec.ofNat 32 (n * 8)) s
def theGate (n : Nat) : Desc := okVal ⟨0, 0⟩ (gateAt n ps0)

/-- Vector 22H when the IDT ends one byte short of its entry and when it just holds it; an entry that is no gate (0), a gate
of level 0 for software at level 3 (21H), a gate that is not present (25H), and a 386 SX interrupt gate (24H). -/
theorem test_witness_ProtectedEntryUsesTheGate :
    (ps0.isReal = false ∧ (idtLimit ps0 0x116).sys.idtr.limit.toNat < 0x22 * 8 + 7 ∧
      0x22 * 8 + 7 ≤ (idtLimit ps0 0x117).sys.idtr.limit.toNat) ∧
      (isOk (gateAt 0 ps0) = true ∧ (theGate 0).isIdtGate = false) ∧
      (isOk (gateAt 0x21 ps3) = true ∧ (theGate 0x21).isIdtGate = true ∧ (theGate 0x21).dpl.toNat < ps3.curCpl.toNat) ∧
      (isOk (gateAt 0x25 ps0) = true ∧ (theGate 0x25).isIdtGate = true ∧ (theGate 0x25).present = false ∧
        ps0.curCpl.toNat ≤ (theGate 0x25).dpl.toNat) :=
  ⟨by decide +kernel, by decide +kernel, by decide +kernel, by decide +kernel⟩

/-- The exception that a computation raises. -/
def excOf {α : Type} (r : EStateM.Result Err State α) : Option Exc :=
  match r with
  | .ok _ _ => none
  | .error (.exc e) _ => some e
  | .error (.refuse _) _ => none

theorem exc_of {α : Type} {r : EStateM.Result Err State α} {e : Exc} (h : excOf r = some e) :
    ∃ t, r = .error (.exc e) t := by
  cases r with
  | ok a t => cases h
  | error x t =>
    cases x with
    | exc e' => cases h; exact ⟨t, rfl⟩
    | refuse r => cases h

/-- Protected mode with an empty IDT, and with paging on and an empty page directory. -/
def noIdt : State := idtLimit ps0 0
def noPages : State :=
  { ps0 with mem := [], sys := { ps0.sys with cr0 := { ps0.sys.cr0 with pg := true } } }

theorem test_witness_EncodedInstructionDecodesBack :
    Instr.wf (.movRvRmv .o32 .eax (.mem (.sib 3 .edi .ebp (.d8 0x80)))) = true ∧
      Instr.fits .o32 .a32 (.movRvRmv .o32 .eax (.mem (.sib 3 .edi .ebp (.d8 0x80)))) = true ∧
      Instr.wf .nop = true ∧ Instr.fits .o16 .a16 .nop = true := by
  decide

/-- One NOP at CS:IP, and the result of decoding the bytes there. -/
def nopAt : State := real [0x90] (regs4 0 0 0 0) flags0
def decoded (s : State) : Option (Instr × List Byte) :=
  let b := ready s
  match decode b.osize b.asize ((fetchAhead 16 b).1.map Prod.fst) with
  | .ok x => some x
  | .error _ => none

theorem next_of {s : State} (h : steps s (fun _ => true) = true) : ∃ t, step s = .next t := by
  unfold steps at h
  cases hs : step s with
  | next t => exact ⟨t, rfl⟩
  | fault f => rw [hs] at h; cases h
  | refused r => rw [hs] at h; cases h

/-- A paged state whose directory maps linear 0 by a table at 12000H: page 0 is not present, page 1 is for the supervisor
alone, page 2 may be used by all; linear 400000H has no table. -/
def pagedHere : State :=
  withBytes 0x12000 [6, 0, 0, 0, 3, 0x10, 0, 0, 7, 0x20, 0, 0]
    (withBytes 0x10000 [7, 0x20, 1, 0]
      { ps3 with mem := [], sys := { ps3.sys with cr3 := 0x10000, cr0 := { ps3.sys.cr0 with pg := true } } })

/-- The entries that a walk of a linear address reads. -/
def pdeRead (lin : Word) : EStateM.Result Err State Word :=
  readEntry (pdeAddr pagedHere.sys.cr3 (pageOf lin)) pagedHere
def pteRead (lin : Word) : EStateM.Result Err State Word :=
  readEntry (pteAddr (okVal 0 (pdeRead lin)) (pageOf lin)) (okState (pdeRead lin))

/-- Selectors: null (0 and 3), past the table (70H), of data (10H), of code (8), not present (50H); at level 3 data of
level 0 (10H) does not fit, and a stack of level 3 does (23H). -/
theorem test_witness_SegmentLoadsCheckTheirDescriptor :
    (rs.isReal = true ∧ vs3.isV86 = true ∧ ps0.isProtected = true ∧ ps3.isProtected = true ∧ selNull 3 = true ∧
      selNull 0x70 = false ∧ descAddr ps0 0x70 = none) ∧
      (isOk (descAt 0x10 ps0) = true ∧ (theDesc 0x10 ps0).present = true ∧
        isOk (markAccessed (okVal noDesc (descAt 0x10 ps0)).1 (theDesc 0x10 ps0) (okState (descAt 0x10 ps0))) = true) ∧
      SsFits ps0 0x10 (theDesc 0x10 ps0) ∧ SsFits ps3 0x23 (theDesc 0x23 ps3) ∧ ¬SsFits ps0 8 (theDesc 8 ps0) ∧
      SsFits ps0 0x50 (theDesc 0x50 ps0) ∧ (theDesc 0x50 ps0).present = false ∧
      DataFits ps0 0x10 (theDesc 0x10 ps0) ∧ DataFits ps0 0x50 (theDesc 0x50 ps0) ∧
      ¬DataFits ps3 0x10 (theDesc 0x10 ps3) ∧ DataFits ps3 0x43 (theDesc 0x43 ps3) := by
  unfold SsFits DataFits
  decide +kernel

/-- An instruction breakpoint at 100H, and instructions that have completed. -/
def breakHere : State := { rs with dbg := { rs.dbg with dr0 := 0x100, dr7 := 1 } }
def traced : State := { rs with flags := { flags0 with tf := true } }
def watching : State := { rs with dbg := { rs.dbg with dr7 := 0x0202 } }

/-- The counts 1 and 31, below and not below a width; the highest bit and CF above it. -/
theorem test_witness_ArithmeticIsExact :
    0 < 1 ∧ 31 < 32 ∧ 31 < Size.d.bits ∧ Size.w.bits ≤ 31 ∧ Size.w.bits ≤ 16 ∧ 15 < Size.w.bits ∧ 7 < Size.b.bits ∧
      8 ≤ Size.b.bits := by decide

/-- A stack at 0B000H with a far return to 0008H:1234H, and one with a far return to level 3 at 001BH:1234H, eight bytes of
parameters, and the stack 0023H:5000H of that level. -/
def farReturn : State := withBytes 0xB000 [0x34, 0x12, 0, 0, 8, 0] (atStack ps0 0xB000)
def farReturnOut : State :=
  withBytes 0xB000 [0x34, 0x12, 0, 0, 0x1B, 0, 0, 0, 0, 0, 0, 0, 0, 0, 0, 0, 0, 0x50, 0, 0, 0x23, 0] (atStack ps0 0xB000)

/-- The selector of a return is found on the stack. -/
theorem returnSelector_of {k : Nat} {s : State} {sel : Half}
    (h1 : s.segs.ss.inLimit (stackOff s.stackSize (s.regs.esp + BitVec.ofNat 32 k)) 2 = true)
    (h2 : isOk (peekStack .w k s) = true) (h3 : (okVal 0 (peekStack .w k s)).setWidth 16 = sel) :
    ReturnSelector k s sel (okState (peekStack .w k s)) := ⟨h1, _, ok_of 0 h2, h3.symm⟩

/-- RET far in protected mode to level 0 and, over parameters, to level 3. -/
theorem test_witness_FarTransfersLoadSelectorAndBase_protected :
    ((Plain farReturn ∧ farReturn.isProtected = true ∧ rpl 8 = farReturn.cpl ∧ selNull 8 = false ∧
      TopFits farReturn 8) ∧ ∃ s1 x s2 eip s3 u t, ReturnSelector 4 (markPoint farReturn) 8 s1 ∧
        fetchDesc 8 (.gp (selCode 8 false)) s1 = .ok x s2 ∧ peekStack .d 0 s2 = .ok eip s3 ∧ ReturnFits 8 x.2 eip ∧
        markAccessed x.1 x.2 s3 = .ok u t) ∧
      (Plain farReturnOut ∧ farReturnOut.isProtected = true ∧ farReturnOut.cpl.toNat < (rpl 0x1B).toNat ∧
        TopFits farReturnOut 24 ∧ selNull 0x1B = false ∧ selNull 0x23 = false) ∧
        ∃ s1 x s2 ss s3 y s4 eip s5 esp s6 u s7 w t, ReturnSelector 4 (markPoint farReturnOut) 0x1B s1 ∧
          fetchDesc 0x1B (.gp (selCode 0x1B false)) s1 = .ok x s2 ∧ peekStack .w 20 s2 = .ok ss s3 ∧
          ss.setWidth 16 = 0x23#16 ∧ fetchDesc 0x23 (.gp (selCode 0x23 false)) s3 = .ok y s4 ∧
          ReturnStackFits 0x23 (rpl 0x1B) y.2 ∧ peekStack .d 0 s4 = .ok eip s5 ∧ ReturnFits 0x1B x.2 eip ∧
          peekStack .d 16 s5 = .ok esp s6 ∧ markAccessed x.1 x.2 s6 = .ok u s7 ∧
          markAccessed y.1 y.2 (withSeg s7 .cs (x.2.accessed.toSeg 0x1B)) = .ok w t := by
  refine ⟨⟨by decide +kernel, _, _, _, _, _, _, _, returnSelector_of ?_ ?_ ?_, ok_of noDesc ?_, ok_of 0 ?_, ?_, ok_unit ?_⟩,
    by decide +kernel, _, _, _, _, _, _, _, _, _, _, _, _, _, _, _, returnSelector_of ?_ ?_ ?_, ok_of noDesc ?_, ok_of 0 ?_, ?_,
    ok_of noDesc ?_, ?_, ok_of 0 ?_, ?_, ok_of 0 ?_, ok_unit ?_, ok_unit ?_⟩ <;>
    decide +kernel

/-- Items can be pushed one after the other, and the state that this leaves. -/
def pushesItems (z : Size) (l : List Item) (s : State) : Bool :=
  match l with
  | [] => true
  | x :: rest =>
    isOk (push z (x.word z s.draws) (x.drawn s)) && pushesItems z rest (okState (push z (x.word z s.draws) (x.drawn s)))
def itemsState (z : Size) (l : List Item) (s : State) : State :=
  match l with
  | [] => s
  | x :: rest => itemsState z rest (okState (push z (x.word z s.draws) (x.drawn s)))

theorem pushesItems_of {z : Size} : ∀ {l : List Item} {s : State}, pushesItems z l s = true →
    PushesItems z l s (itemsState z l s)
  | [], _, _ => rfl
  | x :: rest, s, h => by
    simp only [pushesItems, Bool.and_eq_true] at h
    exact ⟨_, ok_unit h.1, pushesItems_of h.2⟩

/-- Items read on the stack, and the state that this leaves. -/
def readsItems (z : Size) (k n : Nat) (s : State) : Bool :=
  match n with
  | 0 => true
  | n + 1 => isOk (peekStack z (k * z.bytes) s) && readsItems z (k + 1) n (okState (peekStack z (k * z.bytes) s))
def itemsRead (z : Size) (k n : Nat) (s : State) : List Word × State :=
  match n with
  | 0 => ([], s)
  | n + 1 =>
    let r := peekStack z (k * z.bytes) s
    let x := itemsRead z (k + 1) n (okState r)
    (okVal 0 r :: x.1, x.2)

theorem readsItems_of {z : Size} : ∀ {n k : Nat} {s : State}, readsItems z k n s = true →
    (itemsRead z k n s).1.length = n ∧ ReadsItems z k (itemsRead z k n s).1 s (itemsRead z k n s).2
  | 0, _, _, _ => ⟨rfl, rfl⟩
  | n + 1, k, s, h => by
    simp only [readsItems, Bool.and_eq_true] at h
    have := readsItems_of h.2
    exact ⟨congrArg (· + 1) this.1, _, ok_of 0 h.1, this.2⟩

/-- The two reads of an inner stack in a 386 SX TSS, and its descriptor. -/
def espRead (level : BitVec 2) (s : State) : EStateM.Result Err State Word :=
  sysRead (s.sys.tr.base + BitVec.ofNat 32 (4 + 8 * level.toNat)) 4 s
def ssRead (level : BitVec 2) (s : State) : EStateM.Result Err State Word :=
  sysRead (s.sys.tr.base + BitVec.ofNat 32 (8 + 8 * level.toNat)) 2 (okState (espRead level s))
def ssDesc (level : BitVec 2) (ext : Bool) (ss : Half) (s : State) : EStateM.Result Err State (Word × Desc) :=
  fetchDesc ss (.ts (selCode ss ext)) (okState (ssRead level s))

theorem innerStack_of {s : State} {level : BitVec 2} {ext : Bool} {n : Nat} {ss : Half} {esp : Word} {x : Word × Desc}
    (h : s.sys.tr.typ.getLsbD 3 = true ∧ 8 * level.toNat + 9 ≤ s.sys.tr.limit.toNat ∧ selNull ss = false ∧
      isOk (espRead level s) = true ∧ okVal 0 (espRead level s) = esp ∧ isOk (ssRead level s) = true ∧
      (okVal 0 (ssRead level s)).setWidth 16 = ss ∧ isOk (ssDesc level ext ss s) = true ∧
      okVal noDesc (ssDesc level ext ss s) = x ∧ rpl ss = level ∧ x.2.dpl = level ∧ x.2.writable = true ∧
      x.2.present = true ∧ roomFor (x.2.toSeg ss) esp n = true) :
    InnerStack level ext n s ss esp x.1 x.2 (okState (ssDesc level ext ss s)) := by
  obtain ⟨h1, h2, h3, h4, h5, h6, h7, h8, h9, h10⟩ := h
  refine ⟨_, ?_, h3, (ok_eq noDesc h8 h9), h10⟩
  unfold TssStack
  rw [if_pos h1]
  exact ⟨h2, _, _, ok_eq 0 h4 h5, ok_of 0 h6, h7.symm⟩

/-- The state after a transfer to an inner level. -/
def innerCode (sel : Half) (level : BitVec 2) (x : Word × Desc) (off : Word) (s : State) : State :=
  atLevel (okState (markAccessed x.1 x.2 s)) sel level x.2 off
def innerState (sel : Half) (level : BitVec 2) (x : Word × Desc) (off : Word) (ss : Half) (y : Word × Desc) (big : Bool)
    (esp : Word) (s : State) : State :=
  onStack (okState (markAccessed y.1 y.2 (innerCode sel level x off s))) ss y.2 big esp

theorem entersLevel_of {sel : Half} {level : BitVec 2} {x : Word × Desc} {off : Word} {ss : Half} {y : Word × Desc}
    {big : Bool} {esp : Word} {s : State} (h1 : isOk (markAccessed x.1 x.2 s) = true)
    (h2 : isOk (markAccessed y.1 y.2 (innerCode sel level x off s)) = true) :
    EntersLevel sel level x.1 x.2 off ss y.1 y.2 big esp s (innerState sel level x off ss y big esp s) :=
  ⟨_, _, ok_unit h1, ok_unit h2, rfl⟩

/-- The code segment that a call gate names. -/
def gateCode (sel : Half) (s : State) : EStateM.Result Err State (Word × Desc) :=
  fetchDesc (theDesc sel s).gateSel (.gp (selCode (theDesc sel s).gateSel false)) (okState (descAt sel s))

theorem throughGate_of {sel : Half} {s : State} (h : selNull sel = false ∧ (theDesc sel s).dt = false ∧
      ((theDesc sel s).typ = 4 ∨ (theDesc sel s).typ = 12) ∧ (theDesc sel s).present = true ∧
      s.cpl.toNat ≤ (theDesc sel s).dpl.toNat ∧ (rpl sel).toNat ≤ (theDesc sel s).dpl.toNat ∧
      selNull (theDesc sel s).gateSel = false ∧ (okVal noDesc (gateCode sel s)).2.isCode = true ∧
      (okVal noDesc (gateCode sel s)).2.present = true) (h1 : isOk (descAt sel s) = true)
    (h2 : isOk (gateCode sel s) = true) :
    ThroughGate s sel (theDesc sel s) (okVal noDesc (gateCode sel s)).1 (okVal noDesc (gateCode sel s)).2 (markPoint s)
      (okState (gateCode sel s)) := by
  obtain ⟨a, b, c, d, e, f, g, i, j⟩ := h
  exact ⟨a, b, c, d, e, f, g, i, j, _, _, descAt_of h1, ok_of noDesc h2⟩

/-- JMP and CALL through the call gate 38H at level 0. -/
theorem test_witness_FarTransfersCheckTheCodeSegment_gate :
    let x := okVal noDesc (gateCode 0x38 ps0)
    ThroughGate ps0 0x38 (theDesc 0x38 ps0) x.1 x.2 (markPoint ps0) (okState (gateCode 0x38 ps0)) ∧
      ((x.2.toSeg 8).inLimit 0x5000 1 = true ∧ x.2.conforming = false ∧ x.2.dpl = ps0.cpl ∧
        gateSize (theDesc 0x38 ps0) = .w ∧ Mem.wf ps0.mem = true ∧ roomFor ps0.segs.ss ps0.regs.esp 4 = true) ∧
      (∃ u t, markAccessed x.1 x.2 (okState (gateCode 0x38 ps0)) = .ok u t) ∧
      ∃ t u v, PushesItems .w [.sel ps0.segs.cs.sel, .value (markPoint ps0).eip] (okState (gateCode 0x38 ps0)) t ∧
        markAccessed x.1 x.2 t = .ok u v := by
  refine ⟨throughGate_of ?_ ?_ ?_, by decide +kernel, runs_of ?_, _, _, _, pushesItems_of ?_, ok_unit ?_⟩ <;> decide +kernel

/-- The read of a parameter of a call gate. -/
def paramRead (old : State) (z : Size) (n : Nat) (s : State) : EStateM.Result Err State Word :=
  let lin := old.linear .ss (stackOff old.stackSize (old.regs.esp + BitVec.ofNat 32 (n * z.bytes)))
  linRead lin z.bytes (old.access false) (okState (recordHits lin z.bytes false s))
def paramPush (old : State) (z : Size) (n : Nat) (s : State) : EStateM.Result Err State Unit :=
  push z (okVal 0 (paramRead old z n s)) (okState (paramRead old z n s))

/-- Parameters can be copied, and the state that this leaves. -/
def copies (old : State) (z : Size) (n : Nat) (s : State) : Bool :=
  match n with
  | 0 => true
  | n + 1 =>
    segCheck old .ss (stackOff old.stackSize (old.regs.esp + BitVec.ofNat 32 (n * z.bytes))) z.bytes false &&
      isOk (paramRead old z n s) && isOk (paramPush old z n s) && copies old z n (okState (paramPush old z n s))
def copied (old : State) (z : Size) (n : Nat) (s : State) : State :=
  match n with
  | 0 => s
  | n + 1 => copied old z n (okState (paramPush old z n s))

theorem copies_of {old : State} {z : Size} : ∀ {n : Nat} {s : State}, copies old z n s = true →
    CopiesParams old z n s (copied old z n s)
  | 0, _, _ => rfl
  | n + 1, s, h => by
    simp only [copies, Bool.and_eq_true] at h
    obtain ⟨⟨⟨h1, h2⟩, h3⟩, h4⟩ := h
    exact ⟨_, _, _, h1, rfl, _, ok_of 0 h2, ok_unit h3, copies_of h4⟩

/-- CALL through the gate from level 3, with its two parameters and the stack 0010H:9000H of level 0. -/
theorem test_witness_FarTransfersCheckTheCodeSegment_inner :
    let x := okVal noDesc (gateCode 0x3B ps3)
    let m := okState (gateCode 0x3B ps3)
    let y := okVal noDesc (ssDesc 0 false 0x10 m)
    let e := innerState 8 0 x 0x5000 0x10 y y.2.db 0x9000 (okState (ssDesc 0 false 0x10 m))
    let old : List Item := [.sel ps3.segs.ss.sel, .value ps3.regs.esp]
    ThroughGate ps3 0x3B (theDesc 0x3B ps3) x.1 x.2 (markPoint ps3) m ∧
      (x.2.dpl = 0 ∧ x.2.conforming = false ∧ x.2.dpl.toNat < ps3.cpl.toNat ∧ (theDesc 0x3B ps3).gateCount = 2 ∧
        (theDesc 0x3B ps3).gateSel = 8 ∧ (theDesc 0x3B ps3).gateOff = 0x5000 ∧ Mem.wf ps3.mem = true) ∧
      InnerStack 0 false 12 m 0x10 0x9000 y.1 y.2 (okState (ssDesc 0 false 0x10 m)) ∧
      EntersLevel 8 0 x.1 x.2 0x5000 0x10 y.1 y.2 y.2.db 0x9000 (okState (ssDesc 0 false 0x10 m)) e ∧
      PushesItems .w old e (itemsState .w old e) ∧
      CopiesParams m .w 2 (itemsState .w old e) (copied m .w 2 (itemsState .w old e)) ∧
      ∃ t, PushesItems .w [.sel ps3.segs.cs.sel, .value (markPoint ps3).eip] (copied m .w 2 (itemsState .w old e)) t := by
  refine ⟨throughGate_of ?_ ?_ ?_, by decide +kernel, innerStack_of ?_, entersLevel_of ?_ ?_, pushesItems_of ?_, copies_of ?_,
    _, pushesItems_of ?_⟩ <;> decide +kernel

/-- The switch to the task of the TSS of a selector. -/
def switches (kind : TaskKind) (sel : Half) (s : State) : EStateM.Result Err State Unit :=
  switchTask kind sel (okVal noDesc (descAt sel s)).1 (theDesc sel s) false false (okState (descAt sel s))

/-- Code of level 3 that ends at 0FFFH, below the EIP of the tasks. -/
def shortCode3 (s : State) : State := withBytes 0x1018 [0xFF, 0x0F, 0, 0, 0, 0xFA, 0x40, 0] s

/-- The task of the 386 SX TSS 28H, whose TSS is in ROM, as is the link word of the next: the halves that the spec leaves
open when the task is saved do not reach memory, so that the switch can be evaluated. -/
def from386 : State := { ps0 with regions := [{ first := 0x2000, last := 0x3003, kind := .rom }] }

/-- The outcome of a switch: whether it ends, the trap of the new TSS waits, and its EIP lies in its code. -/
def taskOutcome (r : EStateM.Result Err State Unit) : Bool × Bool × Bool :=
  (isOk r, decide ((okState r).latches.trap ≠ 0), (okState r).segs.cs.inLimit (okState r).eip 1)

/-- A TSS at level 0 that both may use, from level 3 that neither may, and one that is not present; the new EIP inside and
outside its code, and a TSS with its T bit set. -/
theorem test_witness_FarTransfersCheckTheCodeSegment_tss :
    (let s := in286 ps0
     isOk (descAt 0x68 s) = true ∧ selNull 0x68 = false ∧ IsFreeTss (theDesc 0x68 s) ∧ GateAllows s 0x68 (theDesc 0x68 s) ∧
       selTi 0x68 = false ∧ (theDesc 0x68 s).present = true) ∧
      (isOk (descAt 0x68 ps3) = true ∧ IsFreeTss (theDesc 0x68 ps3) ∧ ¬GateAllows ps3 0x68 (theDesc 0x68 ps3)) ∧
      (let s := withBytes 0x106D [1] ps0
       isOk (descAt 0x68 s) = true ∧ IsFreeTss (theDesc 0x68 s) ∧ (theDesc 0x68 s).present = false) ∧
      taskOutcome (switches .jmp 0x68 (in286 ps0)) = (true, false, true) ∧
      taskOutcome (switches .call 0x68 (in286 (shortCode3 ps0))) = (true, false, false) ∧
      taskOutcome (switches .jmp 0x30 (withBytes 0x3064 [1] from386)) = (true, true, true) := by
  decide +kernel

/-- The 80286 task, and a task gate (58H) with its selector and its access byte as given. -/
def taskGate (sel access : Byte) (s : State) : State := withBytes 0x105A [sel, 0, 0, access] (in286 s)
def gateTo (sel : Byte) : State := taskGate sel 0xE5 ps0

/-- Task gates of level 0 from level 3, not present, to the null selector, into the LDT, past the table, to code, and to the
TSS 68H. -/
theorem test_witness_FarTransfersCheckTheCodeSegment_task :
    (let s := taskGate 0x68 0x85 ps3
     isOk (descAt 0x58 s) = true ∧ (theDesc 0x58 s).dt = false ∧ (theDesc 0x58 s).typ = 5 ∧
       ¬GateAllows s 0x58 (theDesc 0x58 s)) ∧
      (let s := taskGate 0x68 0x65 ps0
       GateAllows s 0x58 (theDesc 0x58 s) ∧ (theDesc 0x58 s).present = false) ∧
      (selNull 0x58 = false ∧ GateAllows (gateTo 0) 0x58 (theDesc 0x58 (gateTo 0)) ∧
        (theDesc 0x58 (gateTo 0)).present = true) ∧
      (selNull (theDesc 0x58 (gateTo 3)).gateSel = true ∧ selTi (theDesc 0x58 (gateTo 0x6C)).gateSel = true ∧
        descAddr (okState (descAt 0x58 (gateTo 0x70))) (theDesc 0x58 (gateTo 0x70)).gateSel = none) ∧
      (isOk (gateCode 0x58 (gateTo 8)) = true ∧ ¬IsFreeTss (okVal noDesc (gateCode 0x58 (gateTo 8))).2) ∧
      let r := gateCode 0x58 (gateTo 0x68)
      let x := okVal noDesc r
      isOk r = true ∧ IsFreeTss x.2 ∧ x.2.present = true ∧
        taskOutcome (switchTask .call 0x68 x.1 x.2 false false (okState r)) = (true, false, true) := by
  decide +kernel

/-- The current task has an 80286 TSS, which gives SP = 9000H for level 0, and the stack segment 10H is 16-bit. -/
def inner286 : State := withBytes 0x1016 [0x8F] (withBytes 0x3802 [0, 0x90, 0x10, 0] (in286 ps3))

theorem low_sub (hi lo : Half) (n : Nat) : ((hi ++ lo : Word) - BitVec.ofNat 32 n).setWidth 16 = lo - BitVec.ofNat 16 n := by
  apply BitVec.eq_of_toNat_eq
  have h := lo.isLt
  simp only [BitVec.toNat_setWidth, BitVec.toNat_sub, BitVec.toNat_append, BitVec.toNat_ofNat]
  rw [← Nat.shiftLeft_add_eq_or_of_lt h, Nat.shiftLeft_eq]
  omega

/-- The upper half of ESP from an 80286 TSS is open, and a 16-bit stack does not use it. -/
theorem test_witness_InnerStack_80286 :
    ∃ (hi : Half) (x : Word × Desc) (t : State), InnerStack 0 false 12 (markPoint inner286) 0x10 (hi ++ 0x9000#16) x.1 x.2 t := by
  let s := markPoint inner286
  let r1 := sysRead (s.sys.tr.base + BitVec.ofNat 32 2) 2 s
  let u : State := { okState r1 with draws := (okState r1).draws + 1 }
  let r2 := sysRead (s.sys.tr.base + BitVec.ofNat 32 4) 2 u
  let r3 := fetchDesc 0x10 (.ts (selCode 0x10 false)) (okState r2)
  have h : isOk r1 = true ∧ okVal 0 r1 = 0x9000 ∧ isOk r2 = true ∧ okVal 0 r2 = 0x10 ∧ isOk r3 = true ∧
      (okVal noDesc r3).2.dpl = 0 ∧ (okVal noDesc r3).2.writable = true ∧ (okVal noDesc r3).2.present = true ∧
      ((okVal noDesc r3).2.toSeg 0x10).db = false ∧ ¬s.sys.tr.typ.getLsbD 3 = true ∧
      4 * (0 : BitVec 2).toNat + 5 ≤ s.sys.tr.limit.toNat := by decide +kernel
  obtain ⟨o1, v1, o2, v2, o3, hp, hw, hq, hb, ht, hl⟩ := h
  refine ⟨(Config.freeWord (okState r1).draws).setWidth 16, okVal noDesc r3, okState r3, okState r2, ?_, by decide,
    ok_of noDesc o3, by decide, hp, hw, hq, ?_⟩
  · unfold TssStack
    rw [if_neg ht]
    exact ⟨hl, okState r1, 0x9000, 0x10, ok_eq 0 o1 v1, rfl, ok_eq 0 o2 v2, by decide⟩
  · unfold roomFor
    rw [hb]
    simp only [Bool.false_eq_true, if_false, stackOff, low_sub]
    decide +kernel

/-- The state after the test for a return to virtual-8086 mode. -/
def stayed (z : Size) (s : State) : State :=
  if z = .d ∧ s.cpl = 0 then okState (peekStack .d 8 (markPoint s)) else markPoint s

theorem stays_of {z : Size} {s : State} (h1 : isOk (peekStack .d 8 (markPoint s)) = true)
    (h2 : (okVal 0 (peekStack .d 8 (markPoint s))).getLsbD 17 = false) :
    StaysProtected z (markPoint s) (stayed z s) := by
  unfold StaysProtected stayed
  by_cases h : z = .d ∧ s.cpl = 0
  · rw [if_pos h, if_pos (show z = .d ∧ (markPoint s).cpl = 0 from h)]
    exact ⟨_, ok_of 0 h1, h2⟩
  · rw [if_neg h, if_neg (show ¬(z = .d ∧ (markPoint s).cpl = 0) from h)]

/-- IRETD at level 0 and IRET at level 3, to the same level. -/
theorem test_witness_InterruptReturnsRestoreTheirFrame_same :
    ((Plain returning ∧ returning.isProtected = true ∧ returning.flags.nt = false ∧ TopFits returning 12 ∧
      rpl 8 = returning.cpl ∧ selNull 8 = false) ∧ StaysProtected .d (markPoint returning) (stayed .d returning) ∧
      ∃ s1 x s2 eip s3 fl s4 u t, ReturnSelector 4 (stayed .d returning) 8 s1 ∧
        fetchDesc 8 (.gp (selCode 8 false)) s1 = .ok x s2 ∧ peekStack .d 0 s2 = .ok eip s3 ∧ ReturnFits 8 x.2 eip ∧
        markAccessed x.1 x.2 s3 = .ok u s4 ∧ peekStack .d 8 (withSeg s4 .cs (x.2.accessed.toSeg 8)) = .ok fl t) ∧
      (Plain returning16 ∧ returning16.isProtected = true ∧ returning16.flags.nt = false ∧ TopFits returning16 6 ∧
        rpl 0x1B = returning16.cpl ∧ selNull 0x1B = false) ∧
        StaysProtected .w (markPoint returning16) (stayed .w returning16) ∧
        ∃ s1 x s2 eip s3 fl s4 u t, ReturnSelector 2 (stayed .w returning16) 0x1B s1 ∧
          fetchDesc 0x1B (.gp (selCode 0x1B false)) s1 = .ok x s2 ∧ peekStack .w 0 s2 = .ok eip s3 ∧
          ReturnFits 0x1B x.2 eip ∧ markAccessed x.1 x.2 s3 = .ok u s4 ∧
          peekStack .w 4 (withSeg s4 .cs (x.2.accessed.toSeg 0x1B)) = .ok fl t := by
  refine ⟨⟨by decide +kernel, stays_of ?_ ?_, _, _, _, _, _, _, _, _, _, returnSelector_of ?_ ?_ ?_, ok_of noDesc ?_,
      ok_of 0 ?_, ?_, ok_unit ?_, ok_of 0 ?_⟩,
    by decide +kernel, stays_of ?_ ?_, _, _, _, _, _, _, _, _, _, returnSelector_of ?_ ?_ ?_, ok_of noDesc ?_, ok_of 0 ?_, ?_,
    ok_unit ?_, ok_of 0 ?_⟩ <;>
    decide +kernel

/-- IRETD from level 0 to level 3, with the stack 0023H:5000H. -/
def returningOut : State :=
  withBytes 0xB000 [0x34, 0x12, 0, 0, 0x1B, 0, 0, 0, 3, 2, 0, 0, 0, 0x50, 0, 0, 0x23, 0] (atStack ps0 0xB000)

theorem test_witness_InterruptReturnsRestoreTheirFrame_outer :
    (Plain returningOut ∧ returningOut.isProtected = true ∧ returningOut.flags.nt = false ∧
      TopFits returningOut 20 ∧ returningOut.cpl.toNat < (rpl 0x1B).toNat ∧ selNull 0x1B = false ∧
      selNull 0x23 = false) ∧ StaysProtected .d (markPoint returningOut) (stayed .d returningOut) ∧
      ∃ s1 x s2 ss s3 y s4 eip s5 fl s6 esp s7 u s8 w t, ReturnSelector 4 (stayed .d returningOut) 0x1B s1 ∧
        fetchDesc 0x1B (.gp (selCode 0x1B false)) s1 = .ok x s2 ∧ peekStack .w 16 s2 = .ok ss s3 ∧
        ss.setWidth 16 = 0x23#16 ∧ fetchDesc 0x23 (.gp (selCode 0x23 false)) s3 = .ok y s4 ∧
        ReturnStackFits 0x23 (rpl 0x1B) y.2 ∧ peekStack .d 0 s4 = .ok eip s5 ∧ ReturnFits 0x1B x.2 eip ∧
        peekStack .d 8 s5 = .ok fl s6 ∧ peekStack .d 12 s6 = .ok esp s7 ∧ markAccessed x.1 x.2 s7 = .ok u s8 ∧
        markAccessed y.1 y.2 (withSeg s8 .cs (x.2.accessed.toSeg 0x1B)) = .ok w t := by
  refine ⟨by decide +kernel, stays_of ?_ ?_, _, _, _, _, _, _, _, _, _, _, _, _, _, _, _, _, _, returnSelector_of ?_ ?_ ?_,
    ok_of noDesc ?_, ok_of 0 ?_, ?_, ok_of noDesc ?_, ?_, ok_of 0 ?_, ?_, ok_of 0 ?_, ok_of 0 ?_, ok_unit ?_, ok_unit ?_⟩ <;>
    decide +kernel

/-- IRETD from level 0 to virtual-8086 mode, at FFFFH, the last offset that R615 admits. -/
def returningV86 : State :=
  withBytes 0xB000 [0xFF, 0xFF, 0, 0, 0, 1, 0, 0, 2, 2, 2, 0, 0, 0x50, 0, 0, 0, 2] (atStack ps0 0xB000)

theorem test_witness_InterruptReturnsRestoreTheirFrame_v86 :
    let r := peekStack .d 8 (markPoint returningV86)
    let eip := peekStack .d 0 (okState r)
    let fl := peekStack .d 8 (okState eip)
    let vs := itemsRead .d 1 8 (okState fl)
    (Plain returningV86 ∧ returningV86.isProtected = true ∧ returningV86.flags.nt = false ∧ returningV86.cpl = 0 ∧
      TopFits returningV86 36) ∧
      (r = .ok (okVal 0 r) (okState r) ∧ eip = .ok (okVal 0 eip) (okState eip) ∧ fl = .ok (okVal 0 fl) (okState fl)) ∧
      (okVal 0 r).getLsbD 17 = true ∧ vs.1.length = 8 ∧ ReadsItems .d 1 vs.1 (okState fl) vs.2 ∧
      (okVal 0 eip).toNat = 0xFFFF :=
  ⟨by decide +kernel, ⟨ok_of 0 (by decide +kernel), ok_of 0 (by decide +kernel), ok_of 0 (by decide +kernel)⟩,
    by decide +kernel, (readsItems_of (by decide +kernel)).1, (readsItems_of (by decide +kernel)).2, by decide +kernel⟩

/-- An 80286 task with NT set whose back link is as given. -/
def linked (lo hi : Byte) : State :=
  withBytes 0x3800 [lo, hi] (withBytes 0x106D [0x83] (in286 { ps0 with flags := { flags0 with nt := true } }))
def linkRead (s : State) : EStateM.Result Err State Word := sysRead s.sys.tr.base 2 (markPoint s)
def linkDesc (s : State) : EStateM.Result Err State (Word × Desc) :=
  fetchDesc ((okVal 0 (linkRead s)).setWidth 16) (.ts (selCode ((okVal 0 (linkRead s)).setWidth 16) false))
    (okState (linkRead s))

/-- Back links that are null, in the LDT and past the table; to code, to a TSS that is not present, and to the busy TSS
68H, whose task is loaded, with its EIP inside and outside its code; the T bit of a new TSS; and a TR too short for the
link. -/
theorem test_witness_InterruptReturnsRestoreTheirFrame_task :
    (∀ lo hi, Plain (linked lo hi) ∧ (linked lo hi).isProtected = true ∧ (linked lo hi).flags.nt = true ∧
      1 ≤ (linked lo hi).sys.tr.limit.toNat) ∧
      (isOk (linkRead (linked 3 0)) = true ∧ selNull ((okVal 0 (linkRead (linked 3 0))).setWidth 16) = true) ∧
      (isOk (linkRead (linked 0x6C 0)) = true ∧ selTi ((okVal 0 (linkRead (linked 0x6C 0))).setWidth 16) = true) ∧
      (isOk (linkRead (linked 0x70 0)) = true ∧
        descAddr (linked 0x70 0) ((okVal 0 (linkRead (linked 0x70 0))).setWidth 16) = none) ∧
      (isOk (linkDesc (linked 8 0)) = true ∧ (okVal noDesc (linkDesc (linked 8 0))).2.dt = true) ∧
      (let x := okVal noDesc (linkDesc (withBytes 0x106D [3] (linked 0x68 0)))
       isOk (linkDesc (withBytes 0x106D [3] (linked 0x68 0))) = true ∧ x.2.dt = false ∧ x.2.typ = 3 ∧
         x.2.present = false) ∧
      (let s := { linked 0 0 with sys := { (linked 0 0).sys with tr := { (linked 0 0).sys.tr with limit := 0 } } }
       Plain s ∧ s.isProtected = true ∧ s.flags.nt = true ∧ s.sys.tr.limit.toNat < 1) ∧
      let r := linkDesc (linked 0x68 0)
      let x := okVal noDesc r
      isOk (linkRead (linked 0x68 0)) = true ∧ isOk r = true ∧ x.2.dt = false ∧ x.2.typ = 3 ∧ x.2.present = true ∧
        taskOutcome (switchTask .iret 0x68 x.1 x.2 false false (okState r)) = (true, false, true) ∧
        taskOutcome (switchTask .iret 0x68 x.1 x.2 false false (okState (linkDesc (shortCode3 (linked 0x68 0)))))
          = (true, false, false) ∧
        taskOutcome (switchTask .iret 0x30 0x1030 (theDesc 0x30 ps0) false false (withBytes 0x3064 [1] from386))
          = (true, true, true) :=
  ⟨fun _ _ => ⟨⟨rfl, rfl⟩, rfl, rfl, show 1 ≤ (0x2B#32).toNat by decide⟩, by decide +kernel⟩

/-- The gate of an event, the code segment that it names, and the state after both have been read. -/
def gateOf (ev : Event) (s : State) : Desc := okVal ⟨0, 0⟩ (gateAt ev.vec.toNat s)
def entryDesc (ev : Event) (s : State) : EStateM.Result Err State (Word × Desc) :=
  fetchDesc (gateOf ev s).gateSel (.gp (selCode (gateOf ev s).gateSel ev.ext)) (okState (gateAt ev.vec.toNat s))
def entered (ev : Event) (s : State) : State :=
  { okState (entryDesc ev s) with draws := (okState (entryDesc ev s)).draws + 1 }

/-- The hypotheses of ProtectedEntryUsesTheGate on the gate and its code segment. -/
def gateOpens (ev : Event) (s : State) : Bool :=
  !s.isReal && decide (ev.vec.toNat * 8 + 7 ≤ s.sys.idtr.limit.toNat) && isOk (gateAt ev.vec.toNat s) &&
    (gateOf ev s).isIdtGate && (ev.kind != .soft || decide (s.curCpl.toNat ≤ (gateOf ev s).dpl.toNat)) &&
    (gateOf ev s).present && (gateOf ev s).typ != 5 && !selNull (gateOf ev s).gateSel && isOk (entryDesc ev s) &&
    (okVal noDesc (entryDesc ev s)).2.isCode && (okVal noDesc (entryDesc ev s)).2.present &&
    ((okVal noDesc (entryDesc ev s)).2.toSeg (gateOf ev s).gateSel).inLimit (gateOf ev s).gateOff 1

/-- The items of the return frame. -/
def frameItems (ev : Event) (s : State) : List Item :=
  [.value (flagsSlot (gateSize (gateOf ev s)) s.flags (pushedFlags ev s (okState (entryDesc ev s)).draws)),
    .sel s.segs.cs.sel, .value s.eip]

/-- The hypotheses of EntersSame. -/
def EntersSameHere (ev : Event) (s : State) : Prop :=
  let z := gateSize (gateOf ev s)
  let x := okVal noDesc (entryDesc ev s)
  gateOpens ev s = true ∧ s.flags.vm = false ∧ x.2.dpl = s.cpl ∧ Mem.wf s.mem = true ∧
    roomFor s.segs.ss s.regs.esp (3 * z.bytes + codeBytes z ev.code) = true ∧
    ∃ b u t w, PushesItems z (frameItems ev s) (entered ev s) b ∧ markAccessed x.1 x.2 b = .ok u t ∧
      PushesItems z (codeItems ev.code) (atLevel t (gateOf ev s).gateSel s.cpl x.2 (gateOf ev s).gateOff) w

theorem entersSame_of {ev : Event} {s : State} (h1 : gateOpens ev s = true) (h2 : s.flags.vm = false)
    (h3 : (okVal noDesc (entryDesc ev s)).2.dpl = s.cpl) (h4 : Mem.wf s.mem = true)
    (h5 : roomFor s.segs.ss s.regs.esp (3 * (gateSize (gateOf ev s)).bytes + codeBytes (gateSize (gateOf ev s)) ev.code)
      = true)
    (h6 : pushesItems (gateSize (gateOf ev s)) (frameItems ev s) (entered ev s) = true)
    (h7 : isOk (markAccessed (okVal noDesc (entryDesc ev s)).1 (okVal noDesc (entryDesc ev s)).2
      (itemsState (gateSize (gateOf ev s)) (frameItems ev s) (entered ev s))) = true)
    (h8 : pushesItems (gateSize (gateOf ev s)) (codeItems ev.code)
      (atLevel (okState (markAccessed (okVal noDesc (entryDesc ev s)).1 (okVal noDesc (entryDesc ev s)).2
        (itemsState (gateSize (gateOf ev s)) (frameItems ev s) (entered ev s)))) (gateOf ev s).gateSel s.cpl
        (okVal noDesc (entryDesc ev s)).2 (gateOf ev s).gateOff) = true) : EntersSameHere ev s :=
  ⟨h1, h2, h3, h4, h5, _, _, _, _, pushesItems_of h6, ok_unit h7, pushesItems_of h8⟩

/-- A 386 SX gate without an error code, 80286 gates with one, and the least room on the stack. -/
theorem test_witness_ProtectedEntryUsesTheGate_same :
    EntersSameHere (.soft 0x24) (atStack ps0 12) ∧ EntersSameHere (.ofExc (.gp 0x10)) (atStack ps0 8) ∧
      EntersSameHere (.ofExc (.pf 2)) (atStack ps0 8) := by
  refine ⟨entersSame_of ?_ ?_ ?_ ?_ ?_ ?_ ?_ ?_, entersSame_of ?_ ?_ ?_ ?_ ?_ ?_ ?_ ?_,
    entersSame_of ?_ ?_ ?_ ?_ ?_ ?_ ?_ ?_⟩ <;> decide +kernel

/-- The hypotheses of EntersInner, with the stack 0010H:9000H of level 0. -/
def EntersInnerHere (ev : Event) (s : State) : Prop :=
  let z := gateSize (gateOf ev s)
  let x := okVal noDesc (entryDesc ev s)
  let y := okVal noDesc (ssDesc 0 ev.ext 0x10 (entered ev s))
  let w := okState (ssDesc 0 ev.ext 0x10 (entered ev s))
  gateOpens ev s = true ∧ s.flags.vm = false ∧ x.2.conforming = false ∧ x.2.dpl = 0 ∧ 0 < s.cpl.toNat ∧
    Mem.wf s.mem = true ∧ InnerStack 0 ev.ext (5 * z.bytes + codeBytes z ev.code) (entered ev s) 0x10 0x9000 y.1 y.2 w ∧
    ∃ e t, EntersLevel (gateOf ev s).gateSel 0 x.1 x.2 (gateOf ev s).gateOff 0x10 y.1 y.2 y.2.db 0x9000 w e ∧
      PushesItems z
        ([.sel s.segs.ss.sel, .value s.regs.esp] ++ frameItems ev s ++ codeItems ev.code) e t

theorem test_witness_ProtectedEntryUsesTheGate_inner :
    EntersInnerHere (.soft 0x24) ps3 ∧ EntersInnerHere (.ofExc (.gp 0x10)) ps3 := by
  refine ⟨⟨?_, ?_, ?_, ?_, ?_, ?_, innerStack_of ?_, _, _, entersLevel_of ?_ ?_, pushesItems_of ?_⟩,
    ⟨?_, ?_, ?_, ?_, ?_, ?_, innerStack_of ?_, _, _, entersLevel_of ?_ ?_, pushesItems_of ?_⟩⟩ <;> decide +kernel

/-- Virtual-8086 mode with a 386 SX gate for vector 13. -/
def vs13 : State := withBytes 0x86D [0x8E] vs3

/-- The hypotheses of EntersFromV86, with the stack 0010H:9000H of level 0. -/
def EntersV86Here (ev : Event) (s : State) : Prop :=
  let x := okVal noDesc (entryDesc ev s)
  let y := okVal noDesc (ssDesc 0 ev.ext 0x10 (entered ev s))
  let w := okState (ssDesc 0 ev.ext 0x10 (entered ev s))
  gateOpens ev s = true ∧ s.flags.vm = true ∧ x.2.conforming = false ∧ x.2.dpl = 0 ∧ gateSize (gateOf ev s) = .d ∧
    Mem.wf s.mem = true ∧ InnerStack 0 ev.ext (36 + codeBytes .d ev.code) (entered ev s) 0x10 0x9000 y.1 y.2 w ∧
    ∃ e u a b t v, markAccessed y.1 y.2 { w with flags := flagsEntered s.flags (gateOf ev s), cpl := 0 } = .ok u e ∧
      PushesItems .d [.sel s.segs.gs.sel, .sel s.segs.fs.sel, .sel s.segs.ds.sel, .sel s.segs.es.sel]
        (onStack e 0x10 y.2 true 0x9000) a ∧
      PushesItems .d
        ([.sel s.segs.ss.sel, .value s.regs.esp, .value (pushedFlags ev s (okState (entryDesc ev s)).draws),
          .sel s.segs.cs.sel, .value s.eip] ++ codeItems ev.code) (nullSegs a) b ∧
      markAccessed x.1 x.2 b = .ok v t

/-- With and without an error code; and vector 13 by an 80286 gate, which V86 mode may not use. -/
theorem test_witness_ProtectedEntryUsesTheGate_v86 :
    EntersV86Here (.soft 0x24) vs3 ∧ EntersV86Here (.ofExc (.gp 0)) vs13 ∧
      (gateOpens (.ofExc (.gp 0)) vs3 = true ∧ gateSize (gateOf (.ofExc (.gp 0)) vs3) ≠ .d) := by
  refine ⟨⟨?_, ?_, ?_, ?_, ?_, ?_, innerStack_of ?_, _, _, _, _, _, _, ok_unit ?_, pushesItems_of ?_, pushesItems_of ?_,
      ok_unit ?_⟩,
    ⟨?_, ?_, ?_, ?_, ?_, ?_, innerStack_of ?_, _, _, _, _, _, _, ok_unit ?_, pushesItems_of ?_, pushesItems_of ?_,
      ok_unit ?_⟩, ?_⟩ <;>
    decide +kernel

/-- The gate of an event, and the TSS that it names. -/
def gateTss (ev : Event) (s : State) : EStateM.Result Err State (Word × Desc) :=
  fetchDesc (gateOf ev s).gateSel (.ts (selCode (gateOf ev s).gateSel ev.ext)) (okState (gateAt ev.vec.toNat s))
def tssSwitch (ev : Event) (s : State) : EStateM.Result Err State Unit :=
  switchTask .call (gateOf ev s).gateSel (okVal noDesc (gateTss ev s)).1 (okVal noDesc (gateTss ev s)).2 ev.rf ev.ext
    (okState (gateTss ev s))

/-- Vector 23H by a task gate to a selector, and vector 13 by one to the TSS 30H, with the last bytes of its stack in ROM. -/
def taskVector (sel : Byte) (s : State) : State := withBytes 0x91A [sel] s
def taskVector13 : State :=
  { withBytes 0x86A [0x30, 0, 0, 0x85] from386 with
    regions := [{ first := 0x2000, last := 0x3003, kind := .rom }, { first := 0xAFFC, last := 0xAFFF, kind := .rom }] }

/-- The hypotheses of EntersTask up to its switch, and how it ends. -/
def EntersTaskHere (ev : Event) (s : State) (out : Bool × Bool × Bool) : Prop :=
  let x := okVal noDesc (gateTss ev s)
  let a := okState (tssSwitch ev s)
  let z : Size := if x.2.typ = 9 then .d else .w
  let start := { a with flags := { a.flags with rf := false } }
  (isOk (gateAt ev.vec.toNat s) = true ∧ (gateOf ev s).isIdtGate = true ∧ (gateOf ev s).present = true ∧
    (gateOf ev s).typ = 5 ∧ isOk (gateTss ev s) = true ∧ IsFreeTss x.2 ∧ x.2.present = true ∧ Mem.wf a.mem = true ∧
    taskOutcome (tssSwitch ev s) = out ∧ (ev.code ≠ none → roomFor a.segs.ss a.regs.esp z.bytes = true)) ∧
    ∃ t, PushesItems z (codeItems ev.code) start t

/-- Selectors of the task gate that are null, in the LDT, past the table, and of a busy TSS; a TSS that is not present; and
tasks that are entered, with and without an error code, with EIP inside and outside its code, and with the T bit. -/
theorem test_witness_ProtectedEntryUsesTheGate_task :
    (let gate := fun sel => gateOf (.soft 0x23) (taskVector sel ps0)
     selNull (gate 3).gateSel = true ∧ selTi (gate 0x34).gateSel = true ∧
       descAddr (okState (gateAt 0x23 (taskVector 0x70 ps0))) (gate 0x70).gateSel = none) ∧
      (isOk (gateTss (.soft 0x23) (taskVector 0x28 ps0)) = true ∧
        ¬IsFreeTss (okVal noDesc (gateTss (.soft 0x23) (taskVector 0x28 ps0))).2) ∧
      (let x := okVal noDesc (gateTss (.soft 0x23) (withBytes 0x1035 [9] ps0))
       IsFreeTss x.2 ∧ x.2.present = false) ∧
      EntersTaskHere (.soft 0x23) from386 (true, false, true) ∧
      EntersTaskHere (.soft 0x23) (shortCode3 from386) (true, false, false) ∧
      EntersTaskHere (.soft 0x23) (withBytes 0x3064 [1] from386) (true, true, true) ∧
      EntersTaskHere (.ofExc (.gp 0x10)) taskVector13 (true, false, true) := by
  refine ⟨?_, ?_, ?_, ⟨?_, _, pushesItems_of ?_⟩, ⟨?_, _, pushesItems_of ?_⟩, ⟨?_, _, pushesItems_of ?_⟩, ?_, _,
    pushesItems_of ?_⟩ <;> decide +kernel

/-- The check of port DX, and the translation of the destination after it. -/
def portCheck (z : Size) (s : State) : EStateM.Result Err State Unit := checkPort (portDx s) z.bytes s
def insProbe (a : ASize) (z : Size) (s : State) : EStateM.Result Err State (Trans × Trans) :=
  probeMem .es (indexOf a .edi s) z.bytes (okState (portCheck z s))

theorem insStep_of {a : ASize} {z : Size} {s : State} (h1 : PortFits (portDx s) z) (h2 : isOk (portCheck z s) = true)
    (h3 : isOk (insProbe a z s) = true)
    (h4 : isOk (writeProbed .es (indexOf a .edi s) z.bytes (okVal (.direct 0, .direct 0) (insProbe a z s))
      (portIn z (okState (insProbe a z s))) (portReadDone (portDx s) z (okState (insProbe a z s)))) = true) :
    ∃ t, InsStep a z s t := ⟨_, _, _, _, _, h1, ok_unit h2, ok_of _ h3, ok_unit h4, rfl⟩

/-- A port in real-address mode, and port 6 at level 3, which the I/O map of the TSS frees; a word that ends at port FFFFH,
and one that runs past it. -/
theorem test_witness_PortInstructionsMoveTheirData :
    (Plain rs ∧ PortFits 0xFFFE .w ∧ ¬PortFits 0xFFFF .w ∧ PortFits 0xFFFF .b) ∧
      (∃ u t, checkPort 0x60 1 (markPoint rs) = .ok u t) ∧ (∃ u t, checkPort 0xFFFF 2 (markPoint rs) = .ok u t) ∧
      (∃ u t, checkPort 6 1 (markPoint ps3) = .ok u t) ∧ (∃ t, InsStep .a16 .w (markPoint rs) t) ∧
      ∃ t, OutsStep .a16 .d (markPoint rs) t := by
  refine ⟨by decide +kernel, runs_of ?_, runs_of ?_, runs_of ?_, insStep_of ?_ ?_ ?_ ?_,
    ⟨_, _, _, _, ?_, ok_unit ?_, ok_of 0 ?_, rfl⟩⟩ <;> decide +kernel

/-- INS and OUTS of a word at port FFFFH, once and repeated, with their operands in reach. -/
theorem test_witness_PortInstructionsMoveTheirData_past :
    ∀ k : Option RepKind, k = none ∨ k = some .repe →
      let s := { rs with
        regs := { rs.regs with edx := 0xFFFF, ecx := 2 }
        cur := { Cur.none with rep := k } }
      Unlocked s ∧ (s.cur.rep = none ∨ indexOf .a16 .ecx s ≠ 0) ∧ ¬PortFits (portDx s) .w ∧
        ∃ u, checkPort (portDx s) 2 (markPoint s) = .ok () u ∧
          (∃ ts v, probeMem .es (indexOf .a16 .edi s) 2 u = .ok ts v) ∧
          ∃ x v, readMem (s.dataSeg .ds) (indexOf .a16 .esi s) 2 u = .ok x v := by
  rintro k (rfl | rfl) <;>
    exact ⟨by decide +kernel, by decide +kernel, by decide +kernel, _, ok_unit (by decide +kernel), runs_of (by decide +kernel),
      _, _, ok_of 0 (by decide +kernel)⟩

theorem test_witness_StringElementsChangeOnlyTheirOperands :
    Mem.wf rs.mem = true ∧ (∃ t, MovsStep .a16 .d rs t) ∧ (∃ t, CmpsStep .a16 .w rs t) ∧ (∃ t, StosStep .a16 .b rs t) ∧
      (∃ t, LodsStep .a32 .d rs t) ∧ (∃ t, ScasStep .a16 .d rs t) ∧ (∃ t, InsStep .a16 .b rs t) ∧
      ∃ t, OutsStep .a16 .b rs t :=
  ⟨rfl, ⟨_, _, _, _, ok_of 0 (by decide +kernel), ok_unit (by decide +kernel), rfl⟩,
    ⟨_, _, _, _, _, ok_of 0 (by decide +kernel), ok_of 0 (by decide +kernel), rfl⟩,
    ⟨_, _, ok_unit (by decide +kernel), rfl⟩, ⟨_, _, _, ok_of 0 (by decide +kernel), rfl⟩,
    ⟨_, _, _, ok_of 0 (by decide +kernel), rfl⟩,
    insStep_of (by decide +kernel) (by decide +kernel) (by decide +kernel) (by decide +kernel),
    ⟨_, _, _, _, by decide +kernel, ok_unit (by decide +kernel), ok_of 0 (by decide +kernel), rfl⟩⟩

theorem test_witness_ClearTaskSwitchedAndHalt :
    (Plain rs ∧ rs.curCpl = 0 ∧ ps0.curCpl = 0 ∧ rs.flags.tf = false) ∧
      let s := { rs with flags := { flags0 with tf := true } }
      Plain s ∧ s.curCpl = 0 ∧ s.flags.tf = true := by
  decide +kernel

/-- A TLB choice that drops nothing, and one that drops the entry. -/
theorem test_witness_TestRegisterMovesReachTheTlb :
    (Plain oneEntry ∧ oneEntry.curCpl = 0 ∧ oneEntry.tlb.tr7.getLsbD 4 = true) ∧
      (let v : Word := 0x12345D40
       v.getLsbD 0 = false ∧ v.getLsbD 10 ≠ v.getLsbD 9 ∧ v.getLsbD 8 ≠ v.getLsbD 7 ∧ v.getLsbD 6 ≠ v.getLsbD 5) ∧
      (0x12345B41#32).getLsbD 0 = true ∧ (∃ c m, nextChoice (markPoint oneEntry) = .ok c m ∧ m = markPoint oneEntry) ∧
      tlbUnknown oneEntry.tlb 0x12345B41 = false ∧
      oneEntry.tlb.entries.filter (tlbMatches 0x12345B41)
        = [{ block := 2, set := 3, page := 0x12345, valid := true, dirty := false, user := true, writable := true,
             frame := 0x678 }] ∧
      tlbUnknown oneEntry.tlb 0x54321B41 = false ∧ oneEntry.tlb.entries.filter (tlbMatches 0x54321B41) = [] ∧
      (let c : PageChoice := { PageChoice.walk with drop := 0xFFFFFFFF }
       let s := markPoint { oneEntry with now := { Tick.quiet with pages := [c] } }
       ∃ m, nextChoice s = .ok c m ∧ tlbUnknown m.tlb 0x12345B41 = false ∧
         m.tlb.entries.filter (tlbMatches 0x12345B41) = []) := by
  refine ⟨by decide +kernel, by decide +kernel, by decide +kernel, ⟨_, _, rfl, rfl⟩, ?_, by decide +kernel, ?_,
    by decide +kernel, _, rfl, ?_, by decide +kernel⟩ <;>
    simp [tlbUnknown, oneEntry, dropTlb, markPoint]

/-- An event that is entered; and exceptions raised in the delivery of a double fault, of a contributory exception and a
page fault (each meeting #GP and #PF), and of a benign one; and the double faults of a real-mode table that is too short. -/
theorem test_witness_DeliveryFollowsTheDoubleFaultTable :
    (∃ u t, enter (.ofExc (.gp 0)) (markPoint (currentMode ps0)) = .ok u t) ∧
      (∃ t, enter (.ofExc .df) (markPoint (currentMode noIdt)) = .error (.exc (.gp 0x43)) t) ∧
      (∃ t, enter (.ofExc (.gp 0)) (markPoint (currentMode noIdt)) = .error (.exc (.gp 0x6B)) t) ∧
      (∃ t, enter (.ofExc (.pf 0)) (markPoint (currentMode noIdt)) = .error (.exc (.gp 0x73)) t) ∧
      (∃ t, enter (.ofExc (.pf 0)) (markPoint (currentMode noPages)) = .error (.exc (.pf 0)) t) ∧
      (∃ t, enter (.ofExc (.gp 0)) (markPoint (currentMode noPages)) = .error (.exc (.pf 0)) t) ∧
      (∃ t, enter (.ofExc .ud) (markPoint (currentMode noIdt)) = .error (.exc (.gp 0x33)) t) ∧
      (∃ t, enter (.ofExc (.gp 0)) (markPoint (currentMode (idtLimit rs 0))) = .error (.exc .df) t) ∧
      (∃ t, enter (.ofExc .df) (markPoint (currentMode (idtLimit rs 0))) = .error (.exc .df) t) ∧
      (Event.ofExc .df).cls = .double ∧ (Event.ofExc (.gp 0)).cls = .contributory ∧ (Event.ofExc (.pf 0)).cls = .page ∧
      (Event.ofExc .ud).cls = .benign ∧ vecClass (Exc.gp 0).vec = .contributory ∧ vecClass (Exc.pf 0).vec = .page ∧
      vecClass Exc.df.vec = .double := by
  refine ⟨runs_of ?_, exc_of ?_, exc_of ?_, exc_of ?_, exc_of ?_, exc_of ?_, exc_of ?_, exc_of ?_, exc_of ?_, ?_⟩ <;>
    decide +kernel

/-- How the bytes at CS:EIP are rejected. -/
def rejected (s : State) : Option DecErr :=
  let b := ready s
  match decode b.osize b.asize ((fetchAhead 16 b).1.map Prod.fst) with
  | .ok _ => none
  | .error e => some e

/-- One NOP; AAM with base 5, MOV EAX,CR0 with mod 00, an undefined opcode, MOV EAX,CR1 at level 0 and at level 3; and an
instruction whose second byte lies past the limit of CS. -/
theorem test_witness_StepRunsDecodedInstruction :
    (NothingPending (latchNmi (takeTick nopAt)) ∧ (decoded nopAt).map Prod.fst = some .nop) ∧
      (let s := real [0xD4, 5] (regs4 0 0 0 0) flags0
       NothingPending (latchNmi (takeTick s)) ∧ rejected s = some .aamAadBase) ∧
      (let s := real [0x0F, 0x20, 0] (regs4 0 0 0 0) flags0
       NothingPending (latchNmi (takeTick s)) ∧ rejected s = some .specialMod) ∧
      (let s := real [0x0F, 0x0B] (regs4 0 0 0 0) flags0
       NothingPending (latchNmi (takeTick s)) ∧ rejected s = some .undefinedOpcode) ∧
      (let s := prot0 [0x0F, 0x20, 0xC8] (regs4 0 0 0 0) flags0
       NothingPending (latchNmi (takeTick s)) ∧ rejected s = some .badSpecial ∧ (ready s).curCpl = 0) ∧
      (let s := prot3 [0x0F, 0x20, 0xC8] (regs4 0 0 0 0) flags0
       NothingPending (latchNmi (takeTick s)) ∧ rejected s = some .badSpecial ∧ (ready s).curCpl ≠ 0) ∧
      let s := { real [] (regs4 0 0 0 0) flags0 with eip := 0xFFFF, mem := putBytes 0xFFFF [0xB0] [] }
      NothingPending (latchNmi (takeTick s)) ∧ rejected s = some .truncated ∧
        ∃ t, (fetchAhead 16 (ready s)).2 = some (.exc (.gp 0), t) := by
  unfold NothingPending
  refine ⟨?_, ?_, ?_, ?_, ?_, ?_, ?_, ?_, _, rfl⟩ <;> decide +kernel

/-- RESET# before a step, and after its first bus event: PUSH AX in real-address mode. -/
def resetting (n : Nat) : State :=
  { real [0x50] (regs4 0 0 0 0) flags0 with inputs := [{ Tick.quiet with reset := some n }] }

theorem test_witness_ResetLoadsTheTableOfInitialValues :
    ((resetting 0).inputs = { Tick.quiet with reset := some 0 } :: [] ∧ ({ Tick.quiet with reset := some 0 } : Tick).reset = some 0) ∧
      (resetting 1).inputs = { Tick.quiet with reset := some 1 } :: [] ∧
        ∃ u, boundary (latchNmi (takeTick (resetting 1))) = .next u ∧ (newEvents (resetting 1) u).length = 1 := by
  have h : (match boundary (latchNmi (takeTick (resetting 1))) with
      | .next u => decide ((newEvents (resetting 1) u).length = 1)
      | .fault _ => false
      | .refused _ => false) = true := by decide +kernel
  refine ⟨by decide, rfl, ?_⟩
  split at h
  · exact ⟨_, by assumption, of_decide_eq_true h⟩
  · cases h
  · cases h

/-- A legal state, and its step. -/
theorem test_witness_EveryStepKeepsTheInvariant : Legal State.reset ∧ ∃ t, step State.reset = .next t :=
  ⟨⟨rfl, by decide, by decide, by decide, rfl, rfl⟩, next_of (by decide +kernel)⟩

theorem test_witness_BoundariesTakeEventsByPriority :
    (let s := { State.reset with latches := { State.reset.latches with shutdown := true, nmiPending := true } }
     s.latches.shutdown = true ∧ s.latches.nmiPending = true ∧ s.latches.nmiBlocked = false ∧
       s.latches.inhibit = false) ∧
      (let s := { State.reset with latches := { State.reset.latches with shutdown := true } }
     Legal s ∧ s.inputs = [] ∧ Idle s) ∧
      (let s := { State.reset with latches :=
         { State.reset.latches with halted := true, nmiPending := true, nmiBlocked := true } }
       Legal s ∧ s.inputs = [] ∧ Idle s) ∧
      (let s := { State.reset with
         latches := { State.reset.latches with halted := true }
         inputs := [{ Tick.quiet with intr := some 0x20, busy := true, ice := true }] }
       Legal s ∧ Idle s ∧ ∀ x, s.inputs.head? = some x → x.reset = none ∧ x.nmi = false) ∧
      (rs.latches.shutdown = false ∧ rs.latches.halted = false ∧ takesTrap rs = false ∧ takesBreakpoint rs = false ∧
        rs.latches.inhibit = false ∧ rs.latches.stiShadow = false ∧ rs.latches.nmiPending = false ∧
        rs.flags.ie = false ∧ rs.now.intr = none) ∧
      (let s := { rs with latches := { rs.latches with nmiPending := true } }
       s.latches.shutdown = false ∧ takesTrap s = false ∧ takesBreakpoint s = false ∧ s.latches.nmiPending = true ∧
         s.latches.nmiBlocked = false ∧ s.latches.inhibit = false) ∧
      let s := { rs with flags := { flags0 with ie := true }, now := { Tick.quiet with intr := some 0xFF } }
      takesTrap s = false ∧ takesBreakpoint s = false ∧ s.now.intr = some 0xFF ∧ s.flags.ie = true := by
  refine ⟨by decide, ⟨⟨rfl, by decide, by decide, by decide, rfl, rfl⟩, rfl, ?_⟩,
    ⟨⟨rfl, by decide, by decide, by decide, rfl, rfl⟩, rfl, ?_⟩,
    ⟨⟨rfl, by decide, by decide, by decide, rfl, rfl⟩, ?_, fun x h => by cases h; exact ⟨rfl, rfl⟩⟩, ?_⟩ <;>
    try (unfold Idle)
  all_goals decide +kernel

/-- Level 3 with IOPL 3, real-address mode, an 80286 TSS, and the I/O map of the TSS at 2000H: its last port byte lies in
the last byte that the limit admits (port 15), and port 16 past it. -/
theorem test_witness_PortsNeedPermission :
    (¬(rs.pe = true ∧ (rs.flags.vm = true ∨ rs.flags.iopl.toNat < rs.cpl.toNat)) ∧
      ¬(ps0.pe = true ∧ (ps0.flags.vm = true ∨ ps0.flags.iopl.toNat < ps0.cpl.toNat))) ∧
      (ps3.pe = true ∧ ps3.flags.iopl.toNat < ps3.cpl.toNat ∧ vs3.pe = true ∧ vs3.flags.vm = true ∧
        ps3.sys.tr.typ = 11 ∧ (in286 ps3).sys.tr.typ = 3) ∧
      (isOk (sysRead (ps3.sys.tr.base + 0x66) 2 ps3) = true ∧ okVal 0 (sysRead (ps3.sys.tr.base + 0x66) 2 ps3) = 0x68) ∧
      (0x15 / 8 + 0x68 + 1 > ps3.sys.tr.limit.toNat ∧ 0xF / 8 + 0x68 + 1 ≤ ps3.sys.tr.limit.toNat) ∧
      (isOk (sysRead (ps3.sys.tr.base + 0x68) 2 (okState (sysRead (ps3.sys.tr.base + 0x66) 2 ps3))) = true) ∧
      (0x67 ≤ ps3.sys.tr.limit.toNat ∧ 0x66 < 0x67) ∧
      let bits := okVal 0 (sysRead (ps3.sys.tr.base + 0x68) 2 (okState (sysRead (ps3.sys.tr.base + 0x66) 2 ps3)))
      bits.getLsbD 6 = false ∧ bits.getLsbD 7 = true := by
  decide +kernel

/-- Stack pointers 1, 3 and 5, which shut the processor down, and 7 to 15, in real-address and virtual-8086 mode. -/
theorem test_witness_PushaAndPopaMoveAllRegisters_odd :
    (∀ k, Plain (atStack rs k) ∧ (atStack rs k).isProtected = false ∧ (atStack rs k).stackSize = .a16 ∧
      Plain (atStack vs3 k) ∧ (atStack vs3 k).isProtected = false ∧ (atStack vs3 k).stackSize = .a16 ∧
      (atStack rs k).regs.esp = k ∧ (atStack vs3 k).regs.esp = k) ∧
      stackOff .a16 1 = 1 ∧ stackOff .a16 3 = 3 ∧ stackOff .a16 5 = 5 ∧ stackOff .a16 7 = 7 ∧ stackOff .a16 9 = 9 ∧
      stackOff .a16 11 = 11 ∧ stackOff .a16 13 = 13 ∧ stackOff .a16 15 = 15 :=
  ⟨fun _ => ⟨⟨rfl, rfl⟩, rfl, rfl, ⟨rfl, rfl⟩, rfl, rfl, rfl, rfl⟩, by decide⟩

/-- A stack segment of level 0 whose last byte is 1FFFH. -/
def shortSs (s : State) : State :=
  { s with segs := { s.segs with ss := { s.segs.ss with typ := 7, limit := 0x1FFF } } }

/-- Levels 0 (32), 1 and 31, under a 16-bit and a 32-bit stack pointer; and room for the locals: just in a segment that
expands down from 2000H, and one byte too many. -/
theorem test_witness_EnterAndLeaveBuildStackFrames :
    (Plain rs ∧ Mem.wf rs.mem = true ∧ (32#8).toNat % 32 = 0 ∧ (1#8).toNat % 32 ≠ 0 ∧ (31#8).toNat % 32 ≠ 0) ∧
      (∃ u t, push .w (toWord .w (rs.regs.read .w .ebp)) (markPoint (atStack rs 2)) = .ok u t) ∧
      (∃ a t b u c w, push .w 0 (markPoint rs) = .ok a t ∧ copyFrames .w 0 rs.regs.ebp t = .ok b u ∧
        push .w (frameWord .o16 rs t.regs.esp u.draws) (frameDrawn .o16 rs u) = .ok c w) ∧
      (∃ a t b u c w, push .d 0 (markPoint rs) = .ok a t ∧ copyFrames .d 30 0x800 t = .ok b u ∧
        push .d (frameWord .o32 rs t.regs.esp u.draws) (frameDrawn .o32 rs u) = .ok c w) ∧
      (let s := shortSs (atStack ps0 0x2008)
       s.isProtected = true ∧ ∃ u t, push .d 0 (markPoint s) = .ok u t ∧
         s.segs.ss.inLimit (stackOff s.stackSize (t.regs.esp - 4)) 1 = true ∧
         ¬s.segs.ss.inLimit (stackOff s.stackSize (t.regs.esp - 5)) 1 = true) ∧
      ∃ v t, pop .w (atSp (markPoint rs) rs.regs.ebp) = .ok v t :=
  ⟨by decide +kernel, runs_of (by decide +kernel),
    ⟨_, _, _, _, _, _, ok_unit (by decide +kernel), ok_unit (by decide +kernel), ok_unit (by decide +kernel)⟩,
    ⟨_, _, _, _, _, _, ok_unit (by decide +kernel), ok_unit (by decide +kernel), ok_unit (by decide +kernel)⟩,
    ⟨by decide +kernel, _, _, ok_unit (by decide +kernel), by decide +kernel, by decide +kernel⟩,
    runs_of (by decide +kernel)⟩

/-- The last doubleword of a segment, one that passes its end, and the events of the store. -/
theorem test_witness_AccessesReachTheirBytes :
    rs.sys.cr0.pg = false ∧ Mem.wf rs.mem = true ∧
      (∀ i, i < 4 → regionAt rs.regions (physAt (rs.linear .ds 0xFFFC) i) = .ram) ∧
      segCheck rs .ds 0xFFFC 4 false = true ∧ segCheck rs .ds 0xFFFC 4 true = true ∧
      segCheck rs .ss 0xFFFD 4 false = false ∧ segCheck rs .ds 0xFFFF 2 true = false := by
  decide +kernel

/-- The translation of a page, and what marking it leaves. -/
def transAt (lin : Word) (acc : Access) (s : State) : EStateM.Result Err State Trans := translate lin acc s
def touched (lin : Word) (acc : Access) (r : EStateM.Result Err State Trans) (s : State) : EStateM.Result Err State Unit :=
  touchPage (pageOf lin) acc (okVal (.direct 0) r) s

theorem pagesReached_one {lin : Word} {n : Nat} {acc : Access} {s : State}
    (h : pageOf (lin + BitVec.ofNat 32 (n - 1)) = pageOf lin) (h1 : isOk (transAt lin acc s) = true)
    (h2 : isOk (touched lin acc (transAt lin acc s) (okState (transAt lin acc s))) = true) :
    let t := okVal (.direct 0) (transAt lin acc s)
    PagesReached lin n acc t t s (okState (touched lin acc (transAt lin acc s) (okState (transAt lin acc s)))) := by
  refine ⟨_, _, _, ok_of _ h1, ?_, ok_unit h2, ?_⟩
  · rw [if_pos h]; exact ⟨rfl, rfl⟩
  · rw [if_pos h]; rfl

theorem pagesReached_two {lin : Word} {n : Nat} {acc : Access} {s : State}
    (h : ¬pageOf (lin + BitVec.ofNat 32 (n - 1)) = pageOf lin) :
    let next : Word := pageOf (lin + BitVec.ofNat 32 (n - 1)) ++ 0#12
    let r1 := transAt lin acc s
    let r2 := transAt next acc (okState r1)
    let x1 := touched lin acc r1 (okState r2)
    let x2 := touchPage (pageOf (lin + BitVec.ofNat 32 (n - 1))) acc (okVal (.direct 0) r2) (okState x1)
    isOk r1 = true → isOk r2 = true → isOk x1 = true → isOk x2 = true →
    PagesReached lin n acc (okVal (.direct 0) r1) (okVal (.direct 0) r2) s (okState x2) := by
  intro next r1 r2 x1 x2 h1 h2 h3 h4
  refine ⟨_, _, _, ok_of _ h1, ?_, ok_unit h3, ?_⟩
  · rw [if_neg h]; exact ok_of _ h2
  · rw [if_neg h]; exact ok_unit h4

/-- Paging at level 3 with nothing else in memory, and the state after the record of an access. -/
def pagedUser : State := paged [] { ps3 with mem := [] }
def recorded (off : Word) (write : Bool) : State := okState (recordHits (pagedUser.linear .ds off) 4 write pagedUser)

/-- With paging: the last doubleword of a page, and one that lies across two pages. -/
theorem test_witness_AccessesReachTheirBytes_paged :
    (segCheck pagedUser .ds 0x5FFC 4 false = true ∧ segCheck pagedUser .ds 0x5FFE 4 true = true) ∧
      recordHits (pagedUser.linear .ds 0x5FFC) 4 false pagedUser = .ok () (recorded 0x5FFC false) ∧
      recordHits (pagedUser.linear .ds 0x5FFE) 4 true pagedUser = .ok () (recorded 0x5FFE true) ∧
      (∃ t1 t2 u, PagesReached 0x5FFC 4 (pagedUser.access false) t1 t2 (recorded 0x5FFC false) u ∧
        ∀ i, i < 4 → regionAt u.regions (pagedAt 0x5FFC t1 t2 i) ≠ .unmapped) ∧
      ∃ t1 t2 u, PagesReached 0x5FFE 4 (pagedUser.access true) t1 t2 (recorded 0x5FFE true) u ∧ Mem.wf u.mem = true ∧
        ∀ i, i < 4 → regionAt u.regions (pagedAt 0x5FFE t1 t2 i) = .ram := by
  refine ⟨?_, rfl, rfl, ⟨_, _, _, pagesReached_one ?_ ?_ ?_, ?_⟩, ⟨_, _, _, pagesReached_two ?_ ?_ ?_ ?_ ?_, ?_, ?_⟩⟩ <;>
    decide +kernel

/-- The paged state with a TLB entry for page 5, which no table maps, and a choice that may use it. -/
def cachedHere : State :=
  { pagedHere with
    tlb :=
      { entries := [{ block := 0, set := 5, page := 5, valid := true, dirty := false, user := true, writable := false,
                      frame := 0x678 }]
        flushed := true
        tr6 := 0
        tr7 := 0 }
    now := { Tick.quiet with pages := [{ PageChoice.walk with use := 0xFFFFFFFF }] } }

/-- Without a TLB entry (in the order of the clauses: no table, no page, supervisor only, all users), and with one, read
and written by a user. -/
theorem test_witness_PageWalksTranslateAndProtect :
    (pagedHere.sys.cr0.pg = true ∧ nextChoice pagedHere = .ok .walk pagedHere ∧
      (∀ lin, tlbLookup pagedHere PageChoice.walk.use (pageOf lin) = none)) ∧
      (Mem.wf pagedHere.mem = true ∧ regionAt pagedHere.regions 0x10000 = .ram ∧
        regionAt pagedHere.regions 0x12008 = .ram ∧ (0x10000#24) ≠ 0x12008) ∧
      (isOk (pdeRead 0x400000) = true ∧ (okVal 0 (pdeRead 0x400000)).getLsbD 0 = false) ∧
      (isOk (pdeRead 0) = true ∧ (okVal 0 (pdeRead 0)).getLsbD 0 = true) ∧
      (isOk (pteRead 0) = true ∧ (okVal 0 (pteRead 0)).getLsbD 0 = false) ∧
      (isOk (pteRead 0x1000) = true ∧ (okVal 0 (pteRead 0x1000)).getLsbD 0 = true ∧
        (okVal 0 (pteRead 0x1000)).getLsbD 2 = false) ∧
      (isOk (pteRead 0x2000) = true ∧
        EntriesAllow ⟨true, true⟩ (okVal 0 (pdeRead 0x2000)) (okVal 0 (pteRead 0x2000))) ∧
      ∃ c m e, cachedHere.sys.cr0.pg = true ∧ nextChoice cachedHere = .ok c m ∧
        tlbLookup m c.use (pageOf 0x5000) = some e ∧ EntryAllows ⟨false, true⟩ e ∧ ¬EntryAllows ⟨true, true⟩ e := by
  unfold EntriesAllow EntryAllows
  refine ⟨⟨by decide +kernel, rfl, fun _ => rfl⟩, by decide +kernel, by decide +kernel, by decide +kernel, by decide +kernel,
    by decide +kernel, by decide +kernel, { PageChoice.walk with use := 0xFFFFFFFF }, _,
    { block := 0, set := 5, page := 5, valid := true, dirty := false, user := true, writable := false, frame := 0x678 },
    by decide +kernel, rfl, by decide +kernel⟩

/-- A read that a page for the supervisor stops; an entry of the TLB whose Dirty bit is clear, and the tables of its page,
for a write that a supervisor makes. -/
theorem test_witness_PageWalksTranslateAndProtect_touch :
    (∃ t, readMem .ds 0x1000 4 pagedHere = .error (.exc (.pf 5)) t) ∧
      (let page := pageOf 0x5000
       let pa := (pdeAddr cachedHere.sys.cr3 page).toNat
       let pde := readEntry (pdeAddr cachedHere.sys.cr3 page) cachedHere
       let ta := (pteAddr (okVal 0 pde) page).toNat
       isOk pde = true ∧ Mem.wf cachedHere.mem = true ∧ pa ≠ ta ∧ regionAt cachedHere.regions pa = .ram ∧
         regionAt cachedHere.regions ta = .ram ∧ (cachedHere.tlb.entries.map TlbEntry.dirty) = [false]) ∧
      PageChoice.walk.fill = none ∧ ({ PageChoice.walk with fill := some 3 } : PageChoice).fill = some 3 := by
  refine ⟨exc_of ?_, ?_, ?_⟩ <;> decide +kernel

/-- A debug trap that waits. -/
def trapping : State := { rs with latches := { rs.latches with trap := 0x8000 } }

theorem test_witness_DebugExceptionsFollowTheirCauses :
    (breakHere.latches.shutdown = false ∧ takesTrap breakHere = false ∧ takesBreakpoint breakHere = true ∧
      ({ breakHere with flags := { flags0 with rf := true } } : State).flags.rf = true) ∧
      (trapping.latches.shutdown = false ∧ takesTrap trapping = true) ∧
      ((completed rs).cur.stage = .completed ∧ (completed rs).latches.inhibit = false ∧ (completed rs).cur.soft = false ∧
        traced.flags.tf = true ∧ rs.flags.tf = false ∧ (completed rs).cur.hits = 0 ∧ (completed rs).latches.late = 0 ∧
        (completed rs).latches.trap = 0 ∧ (completed rs).cur.again = false ∧ (completed rs).cur.keepRf = false) ∧
      (let t := completed { rs with cur := { rs.cur with hits := 1 } }
       t.cur.stage = .completed ∧ t.cur.hits.getLsbD 0 = true ∧ watching.dbg.dr7.getLsbD 1 = true ∧
         watching.dbg.dr7.getLsbD 9 = true) := by
  decide +kernel

/-- The T bit of a 386 SX TSS can be read. -/
theorem trapWaits_of {d : Desc} {s w : State} (h1 : d.typ.getLsbD 3 = true)
    (h2 : isOk (sysRead (d.base + 0x64) 2 w) = true) : ∃ t, TrapWaits d s w t :=
  ⟨_, (if_pos h1).mpr ⟨_, _, ok_of 0 h2, (accessed_sysRead _ _).ok (ok_of 0 h2), rfl⟩⟩

/-- A switch to the 80286 task of selector 68H by JMP, CALL and IRET, from the 386 SX task 28H to 30H by the same,
the read of that TSS, and TSSs whose limits are one byte short. -/
theorem test_witness_TaskSwitchLoadsTheNewTask :
    [switches .jmp 0x68 (in286 ps0), switches .call 0x68 (in286 ps0), switches .iret 0x68 (in286 ps0),
      switches .jmp 0x30 from386, switches .call 0x30 from386, switches .iret 0x30 from386].all isOk = true ∧
      ((theDesc 0x30 ps0).typ.getLsbD 3 = true ∧ ps0.sys.cr0.pg = false ∧
        (∀ k, k < 0x68 → regionAt ps0.regions (physAt (theDesc 0x30 ps0).base k) ≠ .unmapped) ∧
        ∃ img v, readTask (theDesc 0x30 ps0) ps0 = .ok img v ∧ img.eip = 0xA000 ∧ img.cs = 0x1B) ∧
      ((∀ k, k < 2 → regionAt ps0.regions (physAt ((theDesc 0x30 ps0).base + 0x64) k) ≠ .unmapped) ∧
        (∃ t, TrapWaits (theDesc 0x30 ps0) ps0 ps0 t) ∧
        ∃ t, TrapWaits (theDesc 0x30 ps0) ps0 (withBytes 0x3064 [1] ps0) t) ∧
      (let d : Desc := ⟨0x30000066, 0x00008900⟩
       d.limit.toNat < (if d.typ.getLsbD 3 then 0x67 else 0x2B)) ∧
      (let d : Desc := ⟨0x3900002A, 0x00008100⟩
       d.limit.toNat < (if d.typ.getLsbD 3 then 0x67 else 0x2B)) := by
  have h : (match readTask (theDesc 0x30 ps0) ps0 with
      | .ok img _ => decide (img.eip = 0xA000) && decide (img.cs = 0x1B)
      | .error _ _ => false) = true := by decide +kernel
  refine ⟨by decide +kernel, ⟨by decide +kernel, by decide +kernel, by decide +kernel, ?_⟩,
    ⟨by decide +kernel, trapWaits_of (by decide +kernel) (by decide +kernel),
      trapWaits_of (by decide +kernel) (by decide +kernel)⟩, by decide +kernel, by decide +kernel⟩
  split at h
  · rw [Bool.and_eq_true] at h
    exact ⟨_, _, by assumption, of_decide_eq_true h.1, of_decide_eq_true h.2⟩
  · cases h

/-- A state whose TR and GDT have the given limits. -/
def tableLimits (tr : Word) (gdt : Half) (s : State) : State :=
  { s with sys := { s.sys with tr := { s.sys.tr with limit := tr }, gdtr := { s.sys.gdtr with limit := gdt } } }

/-- A GDT that ends one byte before the end of the descriptor of TR, and a TR that ends one byte before the end of what is
saved in an 80286 and a 386 SX TSS, with the Busy bit of its descriptor cleared where it is found. -/
theorem test_witness_TaskSwitchLoadsTheNewTask_limits :
    (if (theDesc 0x68 ps0).typ.getLsbD 3 then 0x67 else 0x2B) ≤ (theDesc 0x68 ps0).limit.toNat ∧
      (let s := tableLimits 0x6A 0x2E ps0
       descAddr s (s.sys.tr.sel &&& 0xFFF8) = none) ∧
      (let s := tableLimits 0x28 0x6F (in286 ps0)
       s.sys.tr.limit.toNat < savedEnd s.sys.tr.typ ∧ ∃ a, OldNotBusy s a) ∧
      let s := tableLimits 0x5E 0x2F ps0
      s.sys.tr.limit.toNat < savedEnd s.sys.tr.typ ∧ ∃ a, OldNotBusy s a := by
  refine ⟨?_, ?_, ⟨?_, _, 0x1060, ?_, ok_unit ?_⟩, ?_, _, 0x1028, ?_, ok_unit ?_⟩ <;> decide +kernel

end

end Sys2Proof.Tests
end

section
/-! PROOFS. What a step keeps (O52), from the laws of Laws/Keeps.lean, Laws/KeepsOps.lean and Laws/KeepsBodies.lean: every
instruction, the fetch of its bytes, what a boundary does, and RESET#. -/

namespace Sys2Proof.Machine

/-! Rules that the laws before lack. -/

theorem outKeep_ite {c : Prop} [Decidable c] {s : State} {a b : StepOut} (ha : OutKeep s a) (hb : OutKeep s b) :
    OutKeep s (if c then a else b) := by
  split
  · exact ha
  · exact hb

/-- A computation after a requirement may rely on it. -/
theorem keeps_require_bind {β : Type} {c : Bool} {e : Exc} {f : Unit → M β} (h : c = true → Keeps (f ())) :
    Keeps (require c e >>= f) := by
  cases c with
  | false => exact keeps_raise e
  | true => exact h rfl

/-- A change of CR0 alone that leaves paging with protection. -/
theorem keep_cr0 {s : State} {c : Cr0} {l : BitVec 2}
    (h : (s.sys.cr0.pg = true → s.sys.cr0.pe = true) → c.pg = true → c.pe = true) :
    Keep s { s with sys := { s.sys with cr0 := c }, cpl := l } := fun g =>
  ⟨⟨g.canonical, g.directory, h g.paging⟩, [], ⟨rfl, rfl, rfl, rfl, fun _ h => absurd h List.not_mem_nil⟩⟩

/-! The shared shapes of an instruction. -/

theorem keep_aluInstr (op : AluOp) (f : AluForm) (s : State) : OutKeep s (aluInstr op f s) :=
  keep_lockable (keeps_aluBody op f) s

theorem keep_storeRm {z : Size} {rm : Rm} {v : M z.Val} (h : Keeps v) (s : State) : OutKeep s (storeRm z rm v s) :=
  keep_instr (keeps_bind (keeps_place rm) fun _ => keeps_bind h fun _ => keeps_placeWrite ..) s

theorem keep_testRm {z : Size} {rm : Rm} {v : M z.Val} (h : Keeps v) (s : State) : OutKeep s (testRm z rm v s) :=
  keep_instr (keeps_bind (keeps_place rm) fun _ => keeps_bind h fun _ => keeps_testTo ..) s

theorem keep_loadPointer (sr : SReg) (o : OSize) (r : Reg) (ea : Ea) (s : State) :
    OutKeep s (loadPointer sr o r ea s) :=
  keep_instr (keeps_bind (keeps_readFarPtr ..) fun _ => keeps_bind (keeps_loadSeg ..) fun _ => keeps_writeReg ..) s

theorem keep_popReg (z : Size) (r : Reg) (s : State) : OutKeep s (popReg z r s) :=
  keep_instr (keeps_bind (keeps_pop z) fun _ => keeps_writeReg ..) s

theorem keep_popSeg (sr : SReg) (o : OSize) (s : State) : OutKeep s (popSeg sr o s) :=
  keep_instr (keeps_bind (keeps_pop _) fun _ => keeps_bind (keeps_loadSeg ..) fun _ => keeps_inhibitAfter sr) s

theorem keep_pushReg (z : Size) (r : Reg) (s : State) : OutKeep s (pushReg z r s) :=
  keep_instr (keeps_bind (keeps_readReg ..) fun _ => keeps_push ..) s

theorem keep_pushSeg (sr : SReg) (o : OSize) (s : State) : OutKeep s (pushSeg sr o s) :=
  keep_instr (keeps_bind keeps_get fun _ => keeps_pushSel ..) s

theorem keep_bitRmR (op : BitOp) (o : OSize) (rm : Rm) (r : Reg) (s : State) : OutKeep s (bitRmR op o rm r s) :=
  keep_lockable (keeps_bind (keeps_readReg ..) fun _ => keeps_bind (keeps_bitPlace ..) fun _ => keeps_bitTo ..) s

theorem keep_bitRmImm (op : BitOp) (o : OSize) (rm : Rm) (n : BitVec 8) (s : State) :
    OutKeep s (bitRmImm op o rm n s) :=
  keep_lockable (keeps_bind (keeps_place rm) fun _ => keeps_bitTo ..) s

theorem keep_setCond (c : Cond) (rm : Rm) (s : State) : OutKeep s (setCond c rm s) :=
  keep_instr (keeps_bind keeps_get fun _ => keeps_writeRm ..) s

theorem keep_changeFlags (f : Flags → Flags) (s : State) : OutKeep s (changeFlags f s) := by
  refine keep_instr (keeps_modify fun _ => ?_) s
  exact keep_same rfl rfl rfl rfl rfl rfl

theorem keep_prefixStep (f : Cur → Cur) (s : State) : OutKeep s (prefixStep f s) :=
  outKeep_next (keep_same rfl rfl rfl rfl rfl rfl)

@[simp] theorem keeps_writeAx (ah al : Byte) : Keeps (writeAx ah al) := keeps_writeReg ..

@[simp] theorem keeps_asciiAdjust (f g : Byte → Byte) : Keeps (asciiAdjust f g) := by
  refine keeps_bind (keeps_readReg ..) fun _ => keeps_bind keeps_freeStatus fun _ => keeps_bind keeps_get fun _ => ?_
  exact keeps_ite (keeps_bind (keeps_writeAx ..) fun _ => keeps_setFlags _)
    (keeps_bind (keeps_writeAx ..) fun _ => keeps_setFlags _)

@[simp] theorem keeps_aadBody : Keeps aadBody :=
  keeps_bind (keeps_readReg ..) fun _ => keeps_bind (keeps_writeAx ..) fun _ => keeps_bind keeps_freeStatus fun _ =>
    keeps_bind keeps_get fun _ => keeps_setFlags _

@[simp] theorem keeps_aamBody : Keeps aamBody :=
  keeps_bind (keeps_readReg ..) fun _ => keeps_bind (keeps_writeAx ..) fun _ => keeps_bind keeps_freeStatus fun _ =>
    keeps_bind keeps_get fun _ => keeps_setFlags _

@[simp] theorem keeps_decimalAdjust (f : Byte → Byte → Byte) : Keeps (decimalAdjust f) :=
  keeps_bind (keeps_readReg ..) fun _ => keeps_bind keeps_freeBit fun _ => keeps_bind keeps_get fun _ =>
    keeps_bind (keeps_writeReg ..) fun _ => keeps_setFlags _

@[simp] theorem keeps_scanBody (z : Size) (r : Reg) (f : z.Val → Nat) (v : z.Val) : Keeps (scanBody z r f v) :=
  keeps_bind (keeps_freeBits _) fun _ => keeps_bind keeps_freeStatus fun _ => keeps_bind (keeps_writeReg ..) fun _ =>
    keeps_bind keeps_get fun _ => keeps_setFlags _

/-! The instructions with a body of their own. -/

theorem keep_execLeave (o : OSize) (s : State) : OutKeep s (execLeave o s) :=
  keep_instr (keeps_bind keeps_get fun _ => keeps_bind (keeps_setSp _) fun _ => keeps_bind (keeps_pop _) fun _ =>
    keeps_writeReg ..) s

theorem keep_execEnter (o : OSize) (n : BitVec 16) (lvl : BitVec 8) (s : State) : OutKeep s (execEnter o n lvl s) := by
  have frame (t : State) (v : Word) : Keeps (do
      let bp ← padFrame o.size t.stackSize v
      writeReg o.size .ebp (ofWord o.size bp)
      let u ← get
      let sp := u.regs.esp - n.setWidth 32
      require (!u.isProtected || u.segs.ss.inLimit (stackOff u.stackSize sp) 1) (.ss 0)
      setSp sp) :=
    keeps_bind (keeps_padFrame ..) fun _ => keeps_bind (keeps_writeReg ..) fun _ => keeps_bind keeps_get fun _ =>
      keeps_bind (keeps_require _ _) fun _ => keeps_setSp _
  refine keep_instr (keeps_bind keeps_get fun t => keeps_bind (keeps_push ..) fun _ =>
    keeps_bind keeps_get fun v => ?_) s
  refine keeps_ite ?_ (frame t _)
  exact keeps_bind (keeps_copyFrames ..) fun _ => keeps_bind (keeps_padFrame ..) fun _ =>
    keeps_bind (keeps_push ..) fun _ => frame t _

theorem keep_execBound (o : OSize) (r : Reg) (ea : Ea) (s : State) : OutKeep s (execBound o r ea s) :=
  keep_instr (keeps_bind (keeps_readReg ..) fun _ => keeps_bind (keeps_effAddr ea) fun _ =>
    keeps_bind keeps_get fun _ => keeps_bind (keeps_readMem ..) fun _ => keeps_bind (keeps_readMem ..) fun _ =>
      keeps_require _ _) s

theorem keep_execArpl (rm : Rm) (r : Reg) (s : State) : OutKeep s (execArpl rm r s) :=
  keep_instr (keeps_bind keeps_needProtected fun _ => keeps_bind (keeps_place rm) fun _ =>
    keeps_bind (keeps_placeReadRmw ..) fun _ => keeps_bind (keeps_readReg ..) fun _ =>
      keeps_ite (keeps_bind (keeps_placeWrite ..) fun _ => keeps_setZf _) (keeps_setZf _)) s

theorem keep_execLar (o : OSize) (r : Reg) (rm : Rm) (s : State) : OutKeep s (execLar o r rm s) := by
  refine keep_instr (keeps_bind keeps_needProtected fun _ => keeps_bind (keeps_selectorOf ..) fun sel =>
    keeps_bind (keeps_peekDesc _) fun d => keeps_bind keeps_get fun _ => ?_) s
  cases d with
  | none => exact keeps_setZf _
  | some d =>
    exact keeps_ite (keeps_bind (keeps_freeBits _) fun _ => keeps_bind (keeps_writeReg ..) fun _ => keeps_setZf _)
      (keeps_setZf _)

theorem keep_execLsl (o : OSize) (r : Reg) (rm : Rm) (s : State) : OutKeep s (execLsl o r rm s) := by
  refine keep_instr (keeps_bind keeps_needProtected fun _ => keeps_bind (keeps_selectorOf ..) fun sel =>
    keeps_bind (keeps_peekDesc _) fun d => keeps_bind keeps_get fun _ => ?_) s
  cases d with
  | none => exact keeps_setZf _
  | some d => exact keeps_ite (keeps_bind (keeps_writeReg ..) fun _ => keeps_setZf _) (keeps_setZf _)

theorem keep_execLldt (rm : Rm) (s : State) : OutKeep s (execLldt rm s) := by
  refine keep_instr (keeps_bind keeps_needProtected fun _ => keeps_bind keeps_privileged fun _ =>
    keeps_bind (keeps_readRm ..) fun sel => keeps_ite ?_ ?_) s
  · exact keeps_modify fun _ => keep_same rfl rfl rfl rfl rfl rfl
  · refine keeps_bind (keeps_require _ _) fun _ => keeps_bind (keeps_fetchDesc ..) fun _ => ?_
    refine keeps_bind (keeps_require _ _) fun _ => keeps_bind (keeps_require _ _) fun _ => ?_
    exact keeps_modify fun _ => keep_same rfl rfl rfl rfl rfl rfl

theorem keep_execLtr (rm : Rm) (s : State) : OutKeep s (execLtr rm s) := by
  refine keep_instr (keeps_bind keeps_needProtected fun _ => keeps_bind keeps_privileged fun _ =>
    keeps_bind (keeps_readRm ..) fun sel => keeps_bind (keeps_require _ _) fun _ => ?_) s
  refine keeps_bind (keeps_fetchDesc ..) fun _ => keeps_bind (keeps_require _ _) fun _ => ?_
  refine keeps_bind (keeps_require _ _) fun _ => keeps_bind (keeps_setBusy ..) fun _ => ?_
  exact keeps_modify fun _ => keep_same rfl rfl rfl rfl rfl rfl

theorem keep_execHlt (s : State) : OutKeep s (execHlt s) := by
  have halts : Keeps (modify fun s => { s with latches := { s.latches with halted := true }, io := .halt :: s.io }) :=
    keeps_modify fun _ => keep_event rfl rfl rfl rfl rfl rfl trivial
  exact keep_instr (keeps_bind keeps_privileged fun _ => keeps_bind keeps_get fun _ =>
    keeps_ite (keeps_bind (keeps_refuse _) fun _ => halts) halts) s

theorem keep_execWait (s : State) : OutKeep s (execWait s) := by
  refine keep_instr (keeps_bind keeps_get fun _ => keeps_bind (keeps_require _ _) fun _ =>
    keeps_ite (keeps_modify fun _ => ?_) (keeps_require _ _)) s
  exact keep_same rfl rfl rfl rfl rfl rfl

/-- After STI interrupts wait for one instruction (R768). -/
theorem keep_execSti (s : State) : OutKeep s (execSti s) := by
  refine keep_instr (keeps_bind keeps_get fun _ => keeps_bind (keeps_require _ _) fun _ =>
    keeps_bind (keeps_setFlags _) fun _ => keeps_modify fun _ => ?_) s
  exact keep_same rfl rfl rfl rfl rfl rfl

theorem keep_execSahf (s : State) : OutKeep s (execSahf s) := by
  refine keep_instr (keeps_bind (keeps_readReg ..) fun _ => keeps_modify fun _ => ?_) s
  exact keep_same rfl rfl rfl rfl rfl rfl

theorem keep_execClts (s : State) : OutKeep s (execClts s) := by
  refine keep_instr (keeps_bind keeps_privileged fun _ => keeps_modify fun _ => ?_) s
  exact keep_cr0 (fun h => h)

/-- LMSW can set PE and leaves PG, so that paging stays with protection (R827). -/
theorem keep_execLmsw (rm : Rm) (s : State) : OutKeep s (execLmsw rm s) := by
  refine keep_instr (keeps_bind keeps_privileged fun _ => keeps_bind (keeps_readRm ..) fun v =>
    ends_get_bind fun t => ?_) s
  exact keep_cr0 fun paged h => Bool.or_eq_true_iff.mpr (.inl (paged h))

theorem keep_execMovR32Cr (r : Reg) (cr : CrReg) (s : State) : OutKeep s (execMovR32Cr r cr s) :=
  keep_instr (keeps_bind keeps_privileged fun _ => keeps_bind keeps_get fun _ => keeps_bind (keeps_writeReg ..) fun _ =>
    keeps_undefineStatus) s

/-- MOV to CR0 refuses PG without PE (D56), and MOV to CR3 clears the low twelve bits (D72). -/
theorem keep_execMovCrR32 (cr : CrReg) (r : Reg) (s : State) : OutKeep s (execMovCrR32 cr r s) := by
  refine keep_instr (keeps_bind keeps_privileged fun _ => keeps_bind (keeps_readReg ..) fun v => ?_) s
  cases cr with
  | cr0 =>
    refine keeps_require_bind fun h => keeps_bind (keeps_setCr0 fun hpg => ?_) fun _ => keeps_undefineStatus
    rw [show v.getLsbD 31 = true from hpg] at h
    simpa using h
  | cr2 => exact keeps_bind (keeps_modify fun _ => keep_same rfl rfl rfl rfl rfl rfl) fun _ => keeps_undefineStatus
  | cr3 =>
    exact keeps_bind (keeps_modify fun _ => keep_trans (keep_cr3 (aligned_and v)) (keep_flushTlb _)) fun _ =>
      keeps_undefineStatus

theorem keep_execMovR32Dr (r : Reg) (dr : DrReg) (s : State) : OutKeep s (execMovR32Dr r dr s) :=
  keep_movDebug (keeps_bind keeps_privileged fun _ => keeps_bind keeps_get fun _ =>
    keeps_bind (keeps_exposed ..) fun _ => keeps_bind (keeps_writeReg ..) fun _ => keeps_undefineStatus) s

theorem keep_execMovDrR32 (dr : DrReg) (r : Reg) (s : State) : OutKeep s (execMovDrR32 dr r s) := by
  refine keep_movDebug (keeps_bind keeps_privileged fun _ => keeps_bind (keeps_readReg ..) fun _ =>
    keeps_bind (keeps_modify fun _ => ?_) fun _ => keeps_undefineStatus) s
  exact keep_same rfl rfl rfl rfl rfl rfl

theorem keep_execMovR32Tr (r : Reg) (tr : TrReg) (s : State) : OutKeep s (execMovR32Tr r tr s) := by
  refine keep_instr (keeps_bind keeps_privileged fun _ => keeps_bind keeps_get fun _ => ?_) s
  cases tr with
  | tr6 => exact keeps_bind (keeps_exposed ..) fun _ => keeps_bind (keeps_writeReg ..) fun _ => keeps_undefineStatus
  | tr7 => exact keeps_bind (keeps_exposed ..) fun _ => keeps_bind (keeps_writeReg ..) fun _ => keeps_undefineStatus

theorem keep_execMovTrR32 (tr : TrReg) (r : Reg) (s : State) : OutKeep s (execMovTrR32 tr r s) := by
  refine keep_instr (keeps_bind keeps_privileged fun _ => keeps_bind (keeps_readReg ..) fun v => ?_) s
  cases tr with
  | tr6 =>
    refine keeps_bind (keeps_modify fun _ => keep_same rfl rfl rfl rfl rfl rfl) fun _ => ?_
    exact keeps_ite (keeps_bind (keeps_tlbRead v) fun _ => keeps_undefineStatus)
      (keeps_bind (keeps_tlbWrite v) fun _ => keeps_undefineStatus)
  | tr7 => exact keeps_bind (keeps_modify fun _ => keep_same rfl rfl rfl rfl rfl rfl) fun _ => keeps_undefineStatus

theorem keep_execLgdt (o : OSize) (ea : Ea) (s : State) : OutKeep s (execLgdt o ea s) := by
  refine keep_instr (keeps_bind keeps_privileged fun _ => keeps_bind (keeps_readTable ..) fun _ =>
    keeps_modify fun _ => ?_) s
  exact keep_same rfl rfl rfl rfl rfl rfl

theorem keep_execLidt (o : OSize) (ea : Ea) (s : State) : OutKeep s (execLidt o ea s) := by
  refine keep_instr (keeps_bind keeps_privileged fun _ => keeps_bind (keeps_readTable ..) fun _ =>
    keeps_modify fun _ => ?_) s
  exact keep_same rfl rfl rfl rfl rfl rfl

/-- Every instruction keeps the form of the state and records what it writes, whatever it ends with. -/
theorem keep_exec (i : Instr) (s : State) : OutKeep s (exec i s) := by
  unfold exec
  cases i
  case add | or | adc | sbb | and | sub | xor | cmp => exact keep_aluInstr _ _ s
  case movRm8R8 | movRmvRv => exact keep_storeRm (keeps_readReg ..) s
  case movRm8Imm8 | movRm16Imm16 | movRm32Imm32 => exact keep_storeRm (keeps_pure _) s
  case testRm8R8 | testRmvRv => exact keep_testRm (keeps_readReg ..) s
  case testRm8Imm8 | testRm16Imm16 | testRm32Imm32 => exact keep_testRm (keeps_pure _) s
  case lds | les | lss | lfs | lgs => exact keep_loadPointer _ _ _ _ s
  case popR16 | popR32 => exact keep_popReg _ _ s
  case popDs | popEs | popSs | popFs | popGs => exact keep_popSeg _ _ s
  case pushR16 | pushR32 => exact keep_pushReg _ _ s
  case pushCs | pushSs | pushDs | pushEs | pushFs | pushGs => exact keep_pushSeg _ _ s
  case btRmvRv | btsRmvRv | btrRmvRv | btcRmvRv => exact keep_bitRmR _ _ _ _ s
  case btRmvImm8 | btsRmvImm8 | btrRmvImm8 | btcRmvImm8 => exact keep_bitRmImm _ _ _ _ s
  case seto | setno | setb | setae | sete | setne | setbe | seta | sets | setns | setp | setnp | setl | setge | setle
      | setg =>
    exact keep_setCond _ _ s
  case clc | cld | cmc | stc | std => exact keep_changeFlags _ s
  case lock | repne | rep | segEs | segCs | segSs | segDs | segFs | segGs | opsize | adsize =>
    exact keep_prefixStep _ s
  case xchgRm8R8 | xchgRmvRv => exact keep_unary (fun _ => keeps_xchgTo ..) _ s
  case incRm8 | incRmv => exact keep_unary (keeps_incTo _) _ s
  case decRm8 | decRmv => exact keep_unary (keeps_decTo _) _ s
  case notRm8 | notRmv => exact keep_unary (keeps_notTo _) _ s
  case negRm8 | negRmv => exact keep_unary (keeps_negTo _) _ s
  case pusha | pushad => exact keep_pushaOrShut _ s
  case reservedF6 | reservedF7 | reservedC0 | reservedC1 | reservedD0 | reservedD1 | reservedD2 | reservedD3
      | reserved82 | reservedD6 | reservedF1 | reserved0F07 | reserved0F10 | reserved0F11 | reserved0F12
      | reserved0F13 =>
    exact outKeep_refused _
  case movsb | movsw | movsd => exact keep_stringInstr (keeps_repeated _ _ (keeps_movsBody ..)) s
  case cmpsb | cmpsw | cmpsd => exact keep_stringInstr (keeps_repeated _ _ (keeps_cmpsBody ..)) s
  case stosb | stosw | stosd => exact keep_stringInstr (keeps_repeated _ _ (keeps_stosBody ..)) s
  case lodsb | lodsw | lodsd => exact keep_stringInstr (keeps_repeated _ _ (keeps_lodsBody ..)) s
  case scasb | scasw | scasd => exact keep_stringInstr (keeps_repeated _ _ (keeps_scasBody ..)) s
  case insb | insw | insd => exact keep_stringInstr (keeps_repeated _ _ (keeps_insBody ..)) s
  case outsb | outsw | outsd => exact keep_stringInstr (keeps_repeated _ _ (keeps_outsBody ..)) s
  case rol | ror | rcl | rcr | shl | shr | sar => exact keep_instr (keeps_shiftBody ..) s
  case jo | jno | jb | jae | je | jne | jbe | ja | js | jns | jp | jnp | jl | jge | jle | jg =>
    exact keep_instr (keeps_jccBody ..) s
  case movR8Rm8 | movRvRmv | movsxRvRm8 | movsxRvRm16 | movzxRvRm8 | movzxRvRm16 =>
    exact keep_useRm (fun _ => keeps_writeReg ..) s
  case mulRm8 | mulRmv => exact keep_useRm (keeps_mulBy _) s
  case imulRm8 | imulRmv => exact keep_useRm (keeps_imulBy _) s
  case divRm8 | divRmv => exact keep_useRm (keeps_divBy _) s
  case idivRm8 | idivRmv => exact keep_useRm (keeps_idivBy _) s
  case imulRvRmv => exact keep_useRm (fun _ => keeps_bind (keeps_readReg ..) fun _ => keeps_imulTo ..) s
  case imulRvRmvImm8 | imulR16Rm16Imm16 | imulR32Rm32Imm32 => exact keep_useRm (fun _ => keeps_imulTo ..) s
  case bsf | bsr => exact keep_useRm (fun _ => keeps_scanBody ..) s
  case pushRmv => exact keep_useRm (fun _ => keeps_push ..) s
  case callRmv => exact keep_useRm (fun _ => keeps_callNear ..) s
  case jmpRmv => exact keep_useRm (fun _ => keeps_jumpNear _) s
  case movSregRm16 => exact keep_useRm (fun _ => keeps_bind (keeps_loadSeg ..) fun _ => keeps_inhibitAfter _) s
  case movRmvSreg => exact keep_instr (keeps_storeWord _ _ (keeps_gets _)) s
  case movAlMoffs8 | movAccMoffs =>
    exact keep_instr (keeps_bind (keeps_moffsPlace _) fun _ => keeps_bind (keeps_placeRead ..) fun _ =>
      keeps_writeReg ..) s
  case movMoffs8Al | movMoffsAcc =>
    exact keep_instr (keeps_bind (keeps_moffsPlace _) fun _ => keeps_bind (keeps_readReg ..) fun _ =>
      keeps_placeWrite ..) s
  case movR8Imm8 | movR16Imm16 | movR32Imm32 => exact keep_instr (keeps_writeReg ..) s
  case lea => exact keep_instr (keeps_bind (keeps_effAddr _) fun _ => keeps_writeReg ..) s
  case cbw | cwde | cwd | cdq => exact keep_instr (keeps_bind (keeps_readReg ..) fun _ => keeps_writeReg ..) s
  case xchgAxR16 | xchgEaxR32 => exact keep_instr (keeps_xchgTo ..) s
  case popRmv => exact keep_instr (keeps_bind (keeps_pop _) fun _ => keeps_writeRm ..) s
  case pushImm8 | pushImm16 | pushImm32 => exact keep_instr (keeps_push ..) s
  case popa | popad => exact keep_instr (keeps_popaBody _) s
  case xlat =>
    exact keep_instr (keeps_bind (keeps_addrReg ..) fun _ => keeps_bind (keeps_readReg ..) fun _ =>
      keeps_bind keeps_get fun _ => keeps_bind (keeps_readMem ..) fun _ => keeps_writeReg ..) s
  case incR16 | incR32 => exact keep_instr (keeps_incTo ..) s
  case decR16 | decR32 => exact keep_instr (keeps_decTo ..) s
  case testAlImm8 | testAxImm16 | testEaxImm32 => exact keep_instr (keeps_testTo ..) s
  case shldRmvRvImm8 | shrdRmvRvImm8 => exact keep_instr (keeps_doubleTo _ _ _ _ (keeps_pure _)) s
  case shldRmvRvCl | shrdRmvRvCl => exact keep_instr (keeps_doubleTo _ _ _ _ (keeps_readReg ..)) s
  case aaa | aas => exact keep_instr (keeps_asciiAdjust ..) s
  case daa | das => exact keep_instr (keeps_decimalAdjust _) s
  case aad => exact keep_instr keeps_aadBody s
  case aam => exact keep_instr keeps_aamBody s
  case callRel16 | callRel32 => exact keep_instr (keeps_bind keeps_get fun _ => keeps_callNear ..) s
  case callPtr16 | callPtr32 => exact keep_instr (keeps_callFar ..) s
  case callFarM => exact keep_instr (keeps_bind (keeps_readFarPtr ..) fun _ => keeps_callFar ..) s
  case jmpRel8 | jmpRel16 | jmpRel32 => exact keep_instr (keeps_jumpRel ..) s
  case jmpPtr16 | jmpPtr32 => exact keep_instr (keeps_jmpFar ..) s
  case jmpFarM => exact keep_instr (keeps_bind (keeps_readFarPtr ..) fun _ => keeps_jmpFar ..) s
  case jcxz | jecxz =>
    exact keep_instr (keeps_bind (keeps_readReg ..) fun _ => keeps_ite (keeps_jumpRel ..) (keeps_pure _)) s
  case loop | loope | loopne => exact keep_instr (keeps_loopBody ..) s
  case retNear | retNearImm16 => exact keep_instr (keeps_retNearBody ..) s
  case retFar | retFarImm16 => exact keep_instr (keeps_retFarBody ..) s
  case intImm8 =>
    exact keep_instr (keeps_bind keeps_get fun _ => keeps_bind (keeps_require ..) fun _ => keeps_softInt _) s
  case int3 => exact keep_instr (keeps_softInt _) s
  case into => exact keep_instr (keeps_bind keeps_get fun _ => keeps_ite (keeps_softInt _) (keeps_pure _)) s
  case iret | iretd => exact keep_instr (keeps_iretOp _) s
  case bound => exact keep_execBound _ _ _ s
  case inAlImm8 | inAccImm8 => exact keep_instr (keeps_inBody ..) s
  case inAlDx | inAccDx => exact keep_instr (keeps_bind (keeps_readReg ..) fun _ => keeps_inBody ..) s
  case outImm8Al | outImm8Acc => exact keep_instr (keeps_outBody ..) s
  case outDxAl | outDxAcc => exact keep_instr (keeps_bind (keeps_readReg ..) fun _ => keeps_outBody ..) s
  case leave => exact keep_execLeave _ s
  case enter => exact keep_execEnter _ _ _ s
  case escD8 | escD9 | escDA | escDB | escDC | escDD | escDE | escDF => exact keep_instr (keeps_escBody _) s
  case arpl => exact keep_execArpl _ _ s
  case lar => exact keep_execLar _ _ _ s
  case lsl => exact keep_execLsl _ _ _ s
  case verr | verw => exact keep_instr (keeps_verifyBody ..) s
  case sgdt | sidt => exact keep_instr (keeps_bind keeps_get fun _ => keeps_writeTable ..) s
  case lgdt => exact keep_execLgdt _ _ s
  case lidt => exact keep_execLidt _ _ s
  case smsw => exact keep_instr (keeps_storeSys _ (keeps_gets _)) s
  case sldt | str => exact keep_instr (keeps_bind keeps_needProtected fun _ => keeps_storeSys _ (keeps_gets _)) s
  case lmsw => exact keep_execLmsw _ s
  case lldt => exact keep_execLldt _ s
  case ltr => exact keep_execLtr _ s
  case clts => exact keep_execClts s
  case hlt => exact keep_execHlt s
  case wait => exact keep_execWait s
  case nop => exact keep_instr (keeps_pure _) s
  case cli =>
    exact keep_instr (keeps_bind keeps_get fun _ => keeps_bind (keeps_require ..) fun _ => keeps_setFlags _) s
  case sti => exact keep_execSti s
  case lahf =>
    exact keep_instr (keeps_bind keeps_get fun _ => keeps_bind (keeps_freeBits _) fun _ => keeps_writeReg ..) s
  case sahf => exact keep_execSahf s
  case popf | popfd => exact keep_instr (keeps_popfBody _) s
  case pushf =>
    exact keep_instr (keeps_bind keeps_needIopl3 fun _ => keeps_bind keeps_get fun _ => keeps_push ..) s
  case pushfd =>
    exact keep_instr (keeps_bind keeps_needIopl3 fun _ => keeps_bind keeps_get fun _ =>
      keeps_bind keeps_freeBit fun _ => keeps_bind (keeps_eflagsImage _) fun _ => keeps_push ..) s
  case movR32Cr => exact keep_execMovR32Cr _ _ s
  case movCrR32 => exact keep_execMovCrR32 _ _ s
  case movR32Dr => exact keep_execMovR32Dr _ _ s
  case movDrR32 => exact keep_execMovDrR32 _ _ s
  case movR32Tr => exact keep_execMovR32Tr _ _ s
  case movTrR32 => exact keep_execMovTrR32 _ _ s

/-! The fetch of an instruction, and its end. -/

theorem keep_takeTick (s : State) : Keep { s with inputs := s.inputs.tail } (takeTick s) := by
  unfold takeTick
  cases h : s.inputs with
  | nil => exact keep_same rfl rfl rfl rfl rfl rfl
  | cons x rest => exact keep_same rfl rfl rfl rfl rfl rfl

theorem keep_latchNmi (s : State) : Keep s (latchNmi s) := keep_same rfl rfl rfl rfl rfl rfl

theorem keep_usedHits (s : State) : Keep s (usedHits s) := keep_same rfl rfl rfl rfl rfl rfl

theorem keep_setDr6 (bits : Word) (s : State) : Keep s (setDr6 bits s) := keep_same rfl rfl rfl rfl rfl rfl

/-- A change of the latches alone. -/
theorem keep_latches (l : Latches) (s : State) : Keep s { s with latches := l } := keep_same rfl rfl rfl rfl rfl rfl

theorem keep_beginInstr (s : State) : Keep s (beginInstr s) := keep_same rfl rfl rfl rfl rfl rfl

@[simp] theorem keeps_codeByte (off : Word) : Keeps (codeByte off) :=
  keeps_bind keeps_get fun _ => keeps_bind (keeps_require _ _) fun _ => keeps_bind (keeps_linRead ..) fun _ =>
    keeps_pure _

@[simp] theorem keeps_fetchByte : Keeps fetchByte := by
  refine keeps_bind keeps_get fun s => keeps_bind (keeps_require _ _) fun _ => ?_
  cases s.queue with
  | nil =>
    refine keeps_bind (keeps_codeByte _) fun _ => keeps_bind (keeps_modify fun _ => ?_) fun _ => keeps_pure _
    exact keep_same rfl rfl rfl rfl rfl rfl
  | cons q rest =>
    refine keeps_bind (keeps_modify fun _ => ?_) fun _ => keeps_pure _
    exact keep_same rfl rfl rfl rfl rfl rfl

/-- Every state on the way of a fetch, and the one in which it stops. -/
theorem keep_fetchAhead (n : Nat) (s : State) :
    (∀ x ∈ (fetchAhead n s).1, Keep s x.2) ∧ ∀ e t, (fetchAhead n s).2 = some (e, t) → Keep s t := by
  induction n generalizing s with
  | zero => exact ⟨fun _ h => absurd h List.not_mem_nil, fun _ _ h => nomatch h⟩
  | succ n ih =>
    cases hf : fetchByte s with
    | error e t =>
      simp only [fetchAhead, hf]
      refine ⟨fun _ h => absurd h List.not_mem_nil, fun e' t' h => ?_⟩
      cases h
      exact keeps_fetchByte.error hf
    | ok b t =>
      have first := keeps_fetchByte.ok hf
      obtain ⟨rest, stop⟩ := ih t
      simp only [fetchAhead, hf]
      refine ⟨fun x h => ?_, fun e' t' h => keep_trans first (stop e' t' h)⟩
      obtain rfl | h := List.mem_cons.mp h
      · exact first
      · exact keep_trans first (rest x h)

theorem keep_afterBytes {s t : State} {fs : List (Byte × State)} (hs : Keep s t) (h : ∀ x ∈ fs, Keep s x.2)
    (n : Nat) : Keep s (afterBytes t fs n) := by
  induction fs generalizing t n with
  | nil => cases n <;> exact hs
  | cons x rest ih =>
    cases n with
    | zero => exact hs
    | succ n => exact ih (h x List.mem_cons_self) (fun y hy => h y (List.mem_cons_of_mem _ hy)) n

theorem keep_afterFetched (s : State) (n k : Nat) : Keep s (afterBytes s (fetchAhead n s).1 k) :=
  keep_afterBytes (keep_refl s) (keep_fetchAhead n s).1 k

theorem keep_prefetchMore (n : Nat) (s : State) : Keep s (prefetchMore n s) := by
  induction n generalizing s with
  | zero => exact keep_refl s
  | succ n ih =>
    unfold prefetchMore
    split
    · rename_i b t h
      refine keep_trans ((keeps_codeByte _).ok h) (keep_trans ?_ (ih _))
      exact keep_same rfl rfl rfl rfl rfl rfl
    · exact keep_refl s

theorem keep_prefetch (s : State) : Keep s (prefetch s) := by
  unfold prefetch
  split
  · exact keep_refl s
  · exact keep_prefetchMore _ s

theorem keep_forJmp (i : Instr) (s : State) : Keep s (forJmp i s) := by
  unfold forJmp
  split
  · exact keep_currentMode s
  · exact keep_refl s

/-- An exception of the fetch or of the decoding, raised in a state that the fetch has reached. -/
theorem keep_stopped {e : Exc} {s t : State} (h : Keep s t) : OutKeep s (deliverExc e (markPoint s) t) := by
  have back : Keep (markPoint s) s := keep_same rfl rfl rfl rfl rfl rfl
  exact outKeep_trans (keep_markPoint s) (keep_deliverExc (keep_trans back h))

theorem keep_stopFetch {s : State} {stop : Option (Err × State)} (h : ∀ e t, stop = some (e, t) → Keep s t) :
    OutKeep s (stopFetch s stop) := by
  rcases stop with _ | ⟨e | r, t⟩
  · exact keep_stopped (keep_refl s)
  · exact keep_stopped (h _ _ rfl)
  · exact outKeep_refused r

theorem keep_undecodable (s : State) (n : Nat) : OutKeep s (undecodable s (fetchAhead n s).1) :=
  keep_stopped (keep_afterFetched _ _ _)

theorem keep_noSpecial (s : State) (n : Nat) : OutKeep s (noSpecial s (fetchAhead n s).1) := by
  unfold noSpecial
  split
  · exact keep_undecodable _ _
  · exact keep_stopped (keep_afterFetched _ _ _)

theorem keep_clearRf (t : State) : Keep t (clearRf t) := by
  unfold clearRf
  split
  · exact keep_refl t
  · exact keep_same rfl rfl rfl rfl rfl rfl

theorem keep_debugTraps (s t : State) : OutKeep t (debugTraps s t) := by
  refine outKeep_ite (outKeep_next (keep_latches _ t)) (outKeep_trans ?_ (keep_deliver _ _))
  exact keep_same rfl rfl rfl rfl rfl rfl

theorem keep_finish (s : State) (bytes : List Byte) (t : State) : OutKeep t (finish s bytes t) := by
  unfold finish
  cases t.cur.stage with
  | prefixes => exact outKeep_next (keep_refl t)
  | excepted => exact outKeep_next (keep_latches _ t)
  | completed =>
    have requeued (u : State) :
        Keep u (if u.cur.again then { u with queue := bytes.map (fun b => ⟨b, u.pe⟩) ++ u.queue } else u) := by
      split
      · exact keep_same rfl rfl rfl rfl rfl rfl
      · exact keep_refl u
    refine outKeep_trans (keep_trans (keep_clearRf t) (requeued _)) ?_
    exact outKeep_ite (outKeep_next (keep_latches _ _))
      (outKeep_ite (outKeep_next (keep_latches _ _)) (keep_debugTraps s _))

/-- One item of an instruction after the other, to the end of the instruction. -/
theorem keep_runItem (fuel : Nat) (s0 : State) (bytes : List Byte) (s : State) :
    OutKeep s (runItem fuel s0 bytes s) := by
  induction fuel generalizing bytes s with
  | zero => exact outKeep_next (keep_refl s)
  | succ k ih =>
    unfold runItem
    dsimp only
    split
    · exact keep_stopFetch (keep_fetchAhead 16 s).2
    · exact outKeep_refused _
    · exact outKeep_refused _
    · exact keep_noSpecial _ _
    · exact keep_undecodable _ _
    · rename_i i rest _
      have begun : Keep s (forJmp i (prefetch (afterBytes s (fetchAhead 16 s).1
          (((fetchAhead 16 s).1.map Prod.fst).length - rest.length)))) :=
        keep_trans (keep_trans (keep_afterFetched _ _ _) (keep_prefetch _)) (keep_forJmp i _)
      have ran := outKeep_trans begun (keep_exec i _)
      split
      · exact fun _ e => nomatch e
      · exact outKeep_refused _
      · rename_i t h
        have reached : Keep s t := ran t h
        split
        · exact outKeep_trans reached (ih _ t)
        · exact outKeep_trans reached (keep_finish s0 _ t)

theorem keep_runInstr (s : State) : OutKeep s (runInstr s) :=
  outKeep_trans (keep_beginInstr s) (keep_runItem _ _ _ _)

/-! What a boundary does, and the end of the step. -/

theorem keep_deliverTrap (s : State) : OutKeep s (deliverTrap s) := by
  refine outKeep_trans ?_ (keep_deliver _ _)
  exact keep_same rfl rfl rfl rfl rfl rfl

theorem keep_deliverBreakpoint (s : State) : OutKeep s (deliverBreakpoint s) :=
  outKeep_trans (keep_trans (keep_usedHits s) (keep_setDr6 _ _)) (keep_deliver _ _)

theorem keep_deliverNmi (s : State) : OutKeep s (deliverNmi s) :=
  outKeep_trans (keep_latches _ s) (keep_deliver _ _)

theorem keep_deliverIntr (n : Byte) (s : State) : OutKeep s (deliverIntr n s) := by
  refine outKeep_trans ?_ (keep_deliver _ _)
  exact keep_event (e := .intAck n) rfl rfl rfl rfl rfl rfl trivial

theorem keep_boundary (s : State) : OutKeep s (boundary s) := by
  unfold boundary
  split
  · split
    · exact outKeep_refused _
    · exact outKeep_next (keep_refl s)
  split
  · exact keep_deliverTrap s
  split
  · exact keep_deliverBreakpoint s
  split
  · exact keep_deliverNmi s
  split
  · exact keep_deliverIntr _ s
  · split
    · exact outKeep_next (keep_refl s)
    · exact keep_runInstr s

/-- A state of the form of a step, once it is settled, is legal. -/
theorem legal_settled {s : State} (g : Good s) : Legal (settled s) := by
  refine ⟨g.canonical, g.directory, g.paging, fun h => ?_, rfl, rfl⟩
  rw [settled_cpl, if_neg (by rw [show s.sys.cr0.pe = false from h]; decide)]

/-- What a step may answer: a legal state that leaves what lies outside the processor's reach. -/
def Leaves (s : State) (o : StepOut) : Prop := ∀ t, o = .next t → Legal t ∧ Outside s t

theorem leaves_endStep {s : State} {o : StepOut} (g : Good s) (h : OutKeep s o) : Leaves s (endStep o) := by
  intro t e
  cases o with
  | next u =>
    cases e
    obtain ⟨gu, l, r⟩ := h u rfl g
    exact ⟨legal_settled gu, onRecord_outside ⟨r.map, r.inputs, r.io, r.mem, r.range⟩ g.canonical⟩
  | fault f => cases e
  | refused r => cases e

/-- RESET# leaves memory and the platform as the record says (R1050, R1070). -/
theorem leaves_resetState {s u : State} {l : List IoEvent} (g : Good s) (r : OnRecord s u l) :
    Leaves s (.next (resetState u)) := by
  intro t e
  cases e
  have kept : OnRecord s (resetState u) l := ⟨r.map, r.inputs, r.io, r.mem, r.range⟩
  have directory : (resetState u).sys.cr3 &&& 0xFFF = 0 := (by decide : (0 : Word) &&& 0xFFF = 0)
  exact ⟨⟨onRecord_wf kept g.canonical, directory, fun h => (nomatch h), fun _ => rfl, rfl, rfl⟩,
    onRecord_outside kept g.canonical⟩

/-- Events written to memory and put on record, oldest first. -/
theorem onRecord_written {s : State} {es : List IoEvent} (d : Nat) (h : ∀ e ∈ es, e.inRange) :
    OnRecord s { s with mem := Mem.after s.regions es s.mem, io := es.reverse ++ s.io, draws := d } es.reverse :=
  ⟨rfl, rfl, rfl, by rw [List.reverse_reverse], fun e he => h e (List.mem_reverse.mp he)⟩

/-- RESET# in mid-step: the first events of the step stay on record, with what they wrote (D12). -/
theorem leaves_cutShort {n : Nat} {s₀ s : State} {o : StepOut} (g : Good s₀) (k : Keep s₀ s) (h : OutKeep s o) :
    Leaves s₀ (cutShort n s o) := by
  obtain ⟨gs, l₀, r₀⟩ := k g
  cases o with
  | next u =>
    obtain ⟨-, l, r⟩ := h u rfl gs
    refine leaves_resetState g (onRecord_trans r₀ (onRecord_written u.draws fun e he => ?_))
    rw [newEvents_eq r.io] at he
    exact r.range e (List.mem_reverse.mp (List.mem_of_mem_take he))
  | fault f => exact fun _ e => nomatch e
  | refused r => exact fun _ e => nomatch e

theorem leaves_runTick {s₀ s : State} (g : Good s₀) (k : Keep s₀ s) : Leaves s₀ (runTick s) := by
  have h : OutKeep s (boundary (latchNmi s)) := outKeep_trans (keep_latchNmi s) (keep_boundary _)
  unfold runTick
  split
  · exact leaves_endStep g (outKeep_trans k h)
  · obtain ⟨-, l, r⟩ := k g
    exact leaves_resetState g r
  · exact leaves_cutShort g k h

/-- Settles O52: every instruction and every delivery keeps the form of the state and records what it writes, and the
end of the step settles the level and the instruction in progress. -/
theorem everyStepKeepsTheInvariant : Obligations.EveryStepKeepsTheInvariant := by
  unfold Obligations.EveryStepKeepsTheInvariant
  intro s t legal e
  have good : Good { s with inputs := s.inputs.tail } := ⟨legal.canonical, legal.directory, legal.paging⟩
  exact leaves_runTick good (keep_takeTick s) t e

end Sys2Proof.Machine
end

section
/-! PROOFS. The return from an event (O43): IRET and IRETD in every mode. -/

namespace Sys2Proof.Machine

/-! Rules for the parts of a return. -/

/-- The return that the mode and NT ask for (R613). -/
def modeReturn (z : Size) (s : State) : M Unit :=
  if s.isReal then iretReal z else if s.flags.vm then iretV86 z else if s.flags.nt then iretTask else iretStack z

/-- A return that completes accepts NMI again and keeps the loaded RF (R906, R943). -/
theorem iretOp_ok {z : Size} {s t : State} (h : modeReturn z s s = .ok () t) :
    iretOp z s = .ok () (returned t t.flags) := by
  unfold modeReturn at h
  simp only [iretOp, run_get_bind]
  split at h
  · rw [if_pos ‹_›, run_bind_ok h]; rfl
  rw [if_neg ‹_›]
  split at h
  · rw [if_pos ‹_›, run_bind_ok h]; rfl
  rw [if_neg ‹_›]
  split at h
  · rw [if_pos ‹_›, run_bind_ok h]; rfl
  · rw [if_neg ‹_›, run_bind_ok h]; rfl

theorem iretOp_error {z : Size} {s t : State} {e : Err} (h : modeReturn z s s = .error e t) :
    iretOp z s = .error e t := by
  unfold modeReturn at h
  simp only [iretOp, run_get_bind]
  split at h
  · rw [if_pos ‹_›, run_bind_error h]
  rw [if_neg ‹_›]
  split at h
  · rw [if_pos ‹_›, run_bind_error h]
  rw [if_neg ‹_›]
  split at h
  · rw [if_pos ‹_›, run_bind_error h]
  · rw [if_neg ‹_›, run_bind_error h]

/-- IRET and IRETD: the instruction `i` is the return of width `z`. -/
def IsReturn (i : Instr) (z : Size) : Prop := ∀ s, exec i s = instr (iretOp z) s

theorem isReturn_iret : IsReturn .iret .w := fun _ => rfl

theorem isReturn_iretd : IsReturn .iretd .d := fun _ => rfl

theorem completes_return {i : Instr} {z : Size} {s t : State} {f : Flags} (hi : IsReturn i z) (hs : Plain s)
    (h : modeReturn z s (markPoint s) = .ok () { t with flags := f }) : Completes i s (returned t f) :=
  (hi s).trans (instr_ok hs (iretOp_ok (t := { t with flags := f }) h))

theorem raises_return {i : Instr} {z : Size} {s t : State} {e : Exc} (hi : IsReturn i z) (hs : Plain s)
    (h : modeReturn z s (markPoint s) = .error (.exc e) t) : exec i s = deliverExc e (markPoint s) t :=
  (hi s).trans (instr_exc hs (iretOp_error h))

/-! The flags that a return loads. -/

theorem loadedFlags_eq (s : State) (v : Word) : loadedFlags s v = flagsLoaded s false v := by
  simp [loadedFlags, flagsLoaded, Flags.load, Flags.ofImage]

theorem iretFlags_eq (s : State) (z : Size) (v : Word) : iretFlags s z v = flagsLoaded s (z == .d) v := by
  unfold iretFlags
  rw [loadedFlags_eq]
  cases z <;> rfl

/-! Outside protected mode (R613). -/

theorem modeReturn_real {z : Size} {s : State} (h : s.isReal = true) : modeReturn z s = iretReal z := if_pos h

theorem modeReturn_v86 {z : Size} {s : State} (h : s.isV86 = true) : modeReturn z s = iretV86 z := by
  obtain ⟨hpe, hvm⟩ := Bool.and_eq_true_iff.mp h
  simp [modeReturn, State.isReal, hpe, hvm]

theorem modeReturn_task {z : Size} {s : State} (h : s.isProtected = true) (hnt : s.flags.nt = true) :
    modeReturn z s = iretTask := by
  obtain ⟨hpe, hvm⟩ := Bool.and_eq_true_iff.mp h
  simp_all [modeReturn, State.isReal]

theorem modeReturn_stack {z : Size} {s : State} (h : s.isProtected = true) (hnt : s.flags.nt = false) :
    modeReturn z s = iretStack z := by
  obtain ⟨hpe, hvm⟩ := Bool.and_eq_true_iff.mp h
  simp_all [modeReturn, State.isReal]

/-- Three pops one after the other. -/
theorem run_pop3 {β : Type} {z : Size} {a b c : Word} {s t : State} (h : PopChain z [a, b, c] s t)
    (f : Word → Word → Word → M β) :
    (do let x ← pop z; let y ← pop z; let w ← pop z; f x y w) s = f a b c t := by
  obtain ⟨u, hu, v, hv, w, hw, rfl⟩ := h
  rw [run_bind_ok hu, run_bind_ok hv, run_bind_ok hw]

theorem popped_of_popChain {z : Size} {vs : List Word} {s t : State} (h : PopChain z vs s t) :
    PoppedChain z vs.length s t := by
  induction vs generalizing s with
  | nil => exact h
  | cons v rest ih =>
    obtain ⟨u, hu, hrest⟩ := h
    exact ⟨u, pop_popped hu, ih hrest⟩

theorem returns8086 {i : Instr} {z : Size} (hi : IsReturn i z) : Returns8086 i z := by
  intro s ip cs fl t hs hp hiopl h
  refine ⟨popped_of_popChain h, ?_⟩
  cases hr : s.isReal with
  | true =>
    have run : modeReturn z s (markPoint s) = .ok ()
        { goFar t (csOf8086 s (cs.setWidth 16)) ip with flags := flagsLoaded s (z == .d) fl } := by
      rw [modeReturn_real hr, iretReal, run_get_bind, run_pop3 h, iretFlags_eq, csOf8086, if_pos hr]
      rfl
    exact completes_return hi hs run
  | false =>
    have hv : s.isV86 = true := by
      simp_all [State.isReal, State.isProtected, State.isV86]
    have run : modeReturn z s (markPoint s) = .ok ()
        { goFar t (csOf8086 s (cs.setWidth 16)) ip with flags := flagsLoaded s (z == .d) fl } := by
      rw [modeReturn_v86 hv, iretV86, run_get_bind, require_bind (by simp [hiopl hv]), run_pop3 h, iretFlags_eq,
        csOf8086, if_neg (by simp [hr])]
      rfl
    exact completes_return hi hs run

theorem v86NeedsIopl3 {i : Instr} {z : Size} (hi : IsReturn i z) {s : State} (hs : Plain s) (hv : s.isV86 = true)
    (h : s.flags.iopl ≠ 3) : exec i s = deliverExc (.gp 0) (markPoint s) (markPoint s) := by
  refine raises_return hi hs ?_
  have hne : (s.flags.iopl == 3) = false := beq_eq_false_iff_ne.mpr h
  rw [modeReturn_v86 hv, iretV86, run_get_bind, markPoint_flags, hne]
  rfl

/-! In protected mode (R614 to R616): what the reads of a frame leave, and the checks on what they gave. -/

theorem accessed_peekStack (z : Size) (k : Nat) : Ends Accessed AccessedStop (peekStack z k) :=
  ends_get_any fun _ => accessed_readMem ..

theorem accessed_trans {s t u : State} (h : Accessed s t) (h' : Accessed t u) : Accessed s u :=
  composes_accessed.trans _ _ _ h h'

theorem accessed_peek {z : Size} {k : Nat} {s t : State} {v : Word} (h : peekStack z k s = .ok v t) : Accessed s t :=
  (accessed_peekStack z k).ok h

theorem accessed_fetch {sel : Half} {e : Exc} {s t : State} {x : Word × Desc} (h : fetchDesc sel e s = .ok x t) :
    Accessed s t := (accessed_fetchDesc sel e).ok h

theorem accessed_mark {lin : Word} {d : Desc} {s t : State} (h : markAccessed lin d s = .ok () t) : Accessed s t :=
  (accessed_markAccessed lin d).ok h

theorem accessed_readsItems {z : Size} {k : Nat} {vs : List Word} {s t : State} (h : ReadsItems z k vs s t) :
    Accessed s t := by
  induction vs generalizing k s with
  | nil =>
    subst h
    exact composes_accessed.refl _
  | cons v rest ih =>
    obtain ⟨u, hu, hrest⟩ := h
    exact accessed_trans (accessed_peek hu) (ih hrest)

theorem accessed_staysProtected {z : Size} {s t : State} (h : StaysProtected z s t) : Accessed s t := by
  unfold StaysProtected at h
  split at h
  · obtain ⟨f, hf, -⟩ := h
    exact accessed_peek hf
  · subst h
    exact composes_accessed.refl _

theorem accessed_returnSelector {k : Nat} {s t : State} {sel : Half} (h : ReturnSelector k s sel t) : Accessed s t := by
  obtain ⟨-, w, hw, -⟩ := h
  exact accessed_peek hw

/-- An access changes nothing that the flags of a return depend on. -/
theorem flagsLoaded_accessed {s t : State} (h : Accessed s t) (rf : Bool) (v : Word) :
    flagsLoaded t rf v = flagsLoaded s rf v := by
  obtain ⟨x, -, rfl⟩ := h
  rfl

theorem esp_accessed {s t : State} (h : Accessed s t) : t.regs.esp = s.regs.esp := by
  obtain ⟨x, -, rfl⟩ := h
  rfl

theorem run_needTop {k n : Nat} {s : State}
    (h : s.segs.ss.inLimit (stackOff s.stackSize (s.regs.esp + BitVec.ofNat 32 k)) n = true) :
    needTop k n s = .ok () s := by
  rw [needTop, run_get_bind, h]
  rfl

/-- The top of the stack lies where it lay before an access. -/
theorem run_needTop_accessed {n : Nat} {s t : State} (ha : Accessed s t) (h : TopFits s n) :
    needTop 0 n t = .ok () t := by
  obtain ⟨x, -, rfl⟩ := ha
  exact run_needTop (by simpa using h)

theorem run_returnSel {k : Nat} {s t : State} {sel : Half} (h : ReturnSelector k s sel t) :
    returnSel k s = .ok sel t := by
  obtain ⟨hfit, w, hw, rfl⟩ := h
  rw [returnSel, run_bind_ok (run_needTop hfit), run_bind_ok hw]
  rfl

theorem run_checkReturnCs {sel : Half} {lin eip : Word} {d : Desc} {s t : State} (hn : selNull sel = false)
    (hd : fetchDesc sel (.gp (selCode sel false)) s = .ok (lin, d) t) (h : ReturnFits sel d eip) :
    checkReturnCs sel s = .ok (lin, d) t := by
  obtain ⟨hcode, hpres, -, hpl⟩ := h
  have level : (if d.conforming then decide (d.dpl.toNat ≤ (rpl sel).toNat) else d.dpl == rpl sel) = true := by
    split at hpl
    · rw [if_pos ‹_›]
      exact decide_eq_true hpl
    · rw [if_neg ‹_›]
      exact beq_iff_eq.mpr hpl
  rw [checkReturnCs, require_bind (by rw [hn]; rfl), run_bind_ok hd]
  dsimp only
  rw [require_bind hcode, require_bind level, require_bind hpres]
  rfl

theorem run_checkReturnSs {sel : Half} {l : BitVec 2} {lin : Word} {d : Desc} {s t : State} (hn : selNull sel = false)
    (hd : fetchDesc sel (.gp (selCode sel false)) s = .ok (lin, d) t) (h : ReturnStackFits sel l d) :
    checkReturnSs sel l s = .ok (lin, d) t := by
  obtain ⟨hrpl, hdpl, hw, hpres⟩ := h
  rw [checkReturnSs, require_bind (by rw [hn]; rfl), run_bind_ok hd]
  dsimp only
  rw [require_bind (beq_iff_eq.mpr hrpl), require_bind hw, require_bind (beq_iff_eq.mpr hdpl), require_bind hpres]
  rfl

theorem run_checkTarget {sel : Half} {d : Desc} {eip : Word} (h : ReturnFits sel d eip) (s : State) :
    checkTarget d eip s = .ok () s := by
  obtain ⟨-, -, hfit, -⟩ := h
  rw [checkTarget, show (d.toSeg 0).inLimit eip 1 = true from hfit]
  rfl

theorem run_loadFromDesc {r : SReg} {sel : Half} {lin : Word} {d : Desc} {s t : State}
    (h : markAccessed lin d s = .ok () t) :
    loadFromDesc r sel lin d s = .ok () (withSeg t r (d.accessed.toSeg sel)) := by
  rw [loadFromDesc, run_bind_ok h]
  rfl

/-- A return that stays in protected mode goes by the level of the selector in its frame. -/
theorem run_iretStack {z : Size} {s s₀ s₁ : State} {sel : Half} (hv : StaysProtected z s s₀)
    (hsel : ReturnSelector z.bytes s₀ sel s₁) (hl : s.cpl.toNat ≤ (rpl sel).toNat) :
    iretStack z s = (if rpl sel == s.cpl then iretSame z sel else iretOuter z sel) s₁ := by
  have byStack : (do
      let sel ← returnSel z.bytes
      require (decide (s.cpl.toNat ≤ (rpl sel).toNat)) (.gp (selCode sel false))
      if rpl sel == s.cpl then iretSame z sel else iretOuter z sel : M Unit) s₀
        = (if rpl sel == s.cpl then iretSame z sel else iretOuter z sel) s₁ := by
    rw [run_bind_ok (run_returnSel hsel), require_bind (decide_eq_true hl)]
  unfold StaysProtected at hv
  rw [iretStack, run_get_bind]
  split at hv
  · rename_i h
    obtain ⟨f, hf, hvm⟩ := hv
    rw [if_pos (by simpa using h), run_bind_ok hf, run_pure_bind, hvm]
    exact byStack
  · rename_i h
    subst hv
    rw [if_neg (by simpa using h)]
    exact byStack

/-- Where CS already holds the value that a far transfer loads, the transfer is a near one: an access between the two
leaves CS alone. -/
theorem goFar_same {s t : State} {g : SegReg} (h : Accessed (withSeg s .cs g) t) (v : Word) :
    goFar t g v = goTo t v := by
  obtain ⟨x, -, rfl⟩ := h
  rfl

/-- The return to the same level runs to its end (R616). -/
theorem run_iretSame {z : Size} {sel : Half} {lin eip fl : Word} {d : Desc} {s s₂ s₃ s₄ t : State}
    (htop : needTop 0 (3 * z.bytes) s = .ok () s) (hn : selNull sel = false)
    (hd : fetchDesc sel (.gp (selCode sel false)) s = .ok (lin, d) s₂) (heip : peekStack z 0 s₂ = .ok eip s₃)
    (hfits : ReturnFits sel d eip) (hmark : markAccessed lin d s₃ = .ok () s₄)
    (hfl : peekStack z (2 * z.bytes) (withSeg s₄ .cs (d.accessed.toSeg sel)) = .ok fl t) :
    iretSame z sel s = .ok ()
      { atSp (goFar t (d.accessed.toSeg sel) eip) (s.regs.esp + BitVec.ofNat 32 (3 * z.bytes)) with
        flags := iretFlags s z fl } := by
  rw [goFar_same (accessed_peek hfl), iretSame, run_bind_ok htop, run_get_bind,
    run_bind_ok (run_checkReturnCs hn hd hfits)]
  dsimp only
  rw [run_bind_ok heip, run_bind_ok (run_checkTarget hfits s₃), run_bind_ok (run_loadFromDesc hmark), run_bind_ok hfl]
  rfl

theorem returnsSame {i : Instr} {z : Size} (hi : IsReturn i z) : ReturnsSame i z := by
  intro s s₀ sel s₁ lin d s₂ eip s₃ fl s₄ t hs hp hnt hstay hsel htop hrpl hn hd heip hfits hmark hfl
  have a₁ : Accessed (markPoint s) s₁ := accessed_trans (accessed_staysProtected hstay) (accessed_returnSelector hsel)
  have a₄ : Accessed s₁ s₄ :=
    accessed_trans (accessed_fetch hd) (accessed_trans (accessed_peek heip) (accessed_mark hmark))
  refine ⟨accessed_trans a₁ a₄, accessed_peek hfl, ?_⟩
  have same : (rpl sel == (markPoint s).cpl) = true := beq_iff_eq.mpr hrpl
  have level : (markPoint s).cpl.toNat ≤ (rpl sel).toNat := by rw [hrpl]; exact le_refl _
  have run := run_iretSame (run_needTop_accessed a₁ htop) hn hd heip hfits hmark hfl
  rw [iretFlags_eq, flagsLoaded_accessed a₁, esp_accessed a₁] at run
  refine completes_return hi hs ?_
  rw [modeReturn_stack hp hnt, run_iretStack hstay hsel level, if_pos same]
  exact run

/-! To an outer level. -/

theorem withSp_self (a : ASize) (v : Word) : withSp a v v = v := by
  cases a with
  | a16 => exact (BitVec.extractLsb'_append_extractLsb'_eq_extractLsb' rfl).trans BitVec.extractLsb'_eq_self
  | a32 => rfl

/-- Adding nothing to the stack pointer changes nothing. -/
theorem atSp_add_zero (s : State) : atSp s (s.regs.esp + BitVec.ofNat 32 0) = s := by
  rw [show s.regs.esp + BitVec.ofNat 32 0 = s.regs.esp from BitVec.add_zero _, atSp, withSp_self]

theorem afterOuter_eq (g : SegReg) (l : BitVec 2) : g.afterOuter l = outerSeg l g := by
  cases hcode : g.isCode <;> simp [SegReg.afterOuter, outerSeg, SegReg.null, hcode, and_assoc]

/-- The end of a return to an outer level, once its segments are loaded: the stack pointer by the operand size, the
level, and the data segments that the level may not hold (R616, D61). -/
theorem run_outerEnd {z : Size} (hz : z ≠ .b) (t : State) (f : Flags) (l : BitVec 2) (ss : Half) (sd : Desc)
    (esp eip : Word) :
    (do outerEsp z sd esp; setCpl l; nullOuter l; setEip eip : M Unit)
        { withSeg t .ss (sd.accessed.toSeg ss) with flags := f }
      = .ok () { atOuter t z (z == .d) 0 l ss sd esp eip with flags := f } := by
  unfold atOuter
  simp only [atSp_add_zero, ← afterOuter_eq]
  cases z with
  | b => exact absurd rfl hz
  | d => rfl
  | w =>
    cases hb : sd.db with
    | true => simp [outerEsp, hb]; rfl
    | false => simp [outerEsp, hb]; rfl

/-- The return to an outer level runs to its end (R616). -/
theorem run_iretOuter {z : Size} (hz : z ≠ .b) {sel ssel : Half} {lin slin eip fl esp : Word} {ss : Word} {d sd : Desc}
    {s s₂ s₃ s₄ s₅ s₆ s₇ s₈ t : State} (hss : ssel = ss.setWidth 16)
    (htop : needTop 0 (5 * z.bytes) s = .ok () s) (hn : selNull sel = false)
    (hd : fetchDesc sel (.gp (selCode sel false)) s = .ok (lin, d) s₂)
    (hpeek : peekStack .w (4 * z.bytes) s₂ = .ok ss s₃) (hsn : selNull ssel = false)
    (hsd : fetchDesc ssel (.gp (selCode ssel false)) s₃ = .ok (slin, sd) s₄)
    (hsfits : ReturnStackFits ssel (rpl sel) sd)
    (heip : peekStack z 0 s₄ = .ok eip s₅) (hfits : ReturnFits sel d eip)
    (hfl : peekStack z (2 * z.bytes) s₅ = .ok fl s₆) (hesp : peekStack z (3 * z.bytes) s₆ = .ok esp s₇)
    (hmark : markAccessed lin d s₇ = .ok () s₈)
    (hsmark : markAccessed slin sd (withSeg s₈ .cs (d.accessed.toSeg sel)) = .ok () t) :
    iretOuter z sel s = .ok ()
      { atOuter t z (z == .d) 0 (rpl sel) ssel sd esp eip with flags := iretFlags s z fl } := by
  subst hss
  rw [iretOuter, run_bind_ok htop, run_get_bind, run_bind_ok (run_checkReturnCs hn hd hfits)]
  dsimp only
  rw [run_bind_ok hpeek, run_bind_ok (run_checkReturnSs hsn hsd hsfits)]
  dsimp only
  rw [run_bind_ok heip, run_bind_ok (run_checkTarget hfits s₅), run_bind_ok hfl, run_bind_ok hesp,
    run_bind_ok (run_loadFromDesc hmark), run_bind_ok (run_loadFromDesc hsmark)]
  exact run_outerEnd hz t (iretFlags s z fl) (rpl sel) (ss.setWidth 16) sd esp eip

theorem returnsOuter {i : Instr} {z : Size} (hi : IsReturn i z) (hz : z ≠ .b) : ReturnsOuter i z := by
  intro s s₀ sel s₁ lin d s₂ ss s₃ slin sd s₄ eip s₅ fl s₆ esp s₇ s₈ t hs hp hnt hstay hsel hrpl htop hn hd hpeek hsn
    hsd hsfits heip hfits hfl hesp hmark hsmark
  have a₁ : Accessed (markPoint s) s₁ := accessed_trans (accessed_staysProtected hstay) (accessed_returnSelector hsel)
  have a₄ : Accessed (markPoint s) s₄ :=
    accessed_trans (accessed_trans a₁ (accessed_fetch hd)) (accessed_trans (accessed_peek hpeek) (accessed_fetch hsd))
  have a₇ : Accessed s₄ s₇ :=
    accessed_trans (accessed_peek heip) (accessed_trans (accessed_peek hfl) (accessed_peek hesp))
  refine ⟨accessed_trans a₄ (accessed_trans a₇ (accessed_mark hmark)), accessed_mark hsmark, ?_⟩
  have other : ¬(rpl sel == (markPoint s).cpl) = true := fun h => absurd (beq_iff_eq.mp h ▸ hrpl) (lt_irrefl _)
  have run := run_iretOuter hz rfl (run_needTop_accessed a₁ htop) hn hd hpeek hsn hsd hsfits heip hfits hfl hesp hmark
    hsmark
  rw [iretFlags_eq, flagsLoaded_accessed a₁] at run
  refine completes_return hi hs ?_
  rw [modeReturn_stack hp hnt, run_iretStack hstay hsel (le_of_lt hrpl), if_neg other]
  exact run

/-! To virtual-8086 mode. -/

/-- Eight items read one after the other. -/
theorem run_readsItems₈ {β : Type} {z : Size} {k : Nat} {a b c d e f g h : Word} {s t : State}
    (hr : ReadsItems z k [a, b, c, d, e, f, g, h] s t)
    (F : Word → Word → Word → Word → Word → Word → Word → Word → M β) :
    (do
      let a ← peekStack z (k * z.bytes)
      let b ← peekStack z ((k + 1) * z.bytes)
      let c ← peekStack z ((k + 2) * z.bytes)
      let d ← peekStack z ((k + 3) * z.bytes)
      let e ← peekStack z ((k + 4) * z.bytes)
      let f ← peekStack z ((k + 5) * z.bytes)
      let g ← peekStack z ((k + 6) * z.bytes)
      let h ← peekStack z ((k + 7) * z.bytes)
      F a b c d e f g h) s = F a b c d e f g h t := by
  obtain ⟨_, h₁, _, h₂, _, h₃, _, h₄, _, h₅, _, h₆, _, h₇, _, h₈, rfl⟩ := hr
  rw [run_bind_ok h₁, run_bind_ok h₂, run_bind_ok h₃, run_bind_ok h₄, run_bind_ok h₅, run_bind_ok h₆, run_bind_ok h₇,
    run_bind_ok h₈]

theorem returnsToV86 : ReturnsToV86 := by
  intro s image s₀ eip s₁ fl s₂ cs thrown esp ss es ds fs gs t hs hp hnt hcpl himage hvm htop heip hfits hfl hitems
  have a₀ : Accessed (markPoint s) s₀ := accessed_peek himage
  refine ⟨accessed_trans a₀ (accessed_trans (accessed_peek heip)
    (accessed_trans (accessed_peek hfl) (accessed_readsItems hitems))), completes_return isReturn_iretd hs ?_⟩
  have toV86 : iretStack .d (markPoint s) = iretToV86 s₀ := by
    rw [iretStack, run_get_bind, if_pos (by simp [hcpl]), run_bind_ok himage, run_pure_bind, hvm]
    rfl
  rw [modeReturn_stack hp hnt, toV86, iretToV86, run_bind_ok (run_needTop_accessed a₀ htop), run_bind_ok heip,
    require_bind (decide_eq_true hfits), run_bind_ok hfl]
  exact run_readsItems₈ hitems _

/-! To the task of the back link. -/

theorem descAddr_accessed {s t : State} (h : Accessed s t) (sel : Half) : descAddr t sel = descAddr s sel := by
  obtain ⟨x, -, rfl⟩ := h
  rfl

theorem fetchDesc_none {s : State} {sel : Half} (e : Exc) (h : descAddr s sel = none) :
    fetchDesc sel e s = .error (.exc e) s := by
  rw [fetchDesc, run_get_bind, h]
  rfl

theorem busyTss_iff (d : Desc) : d.busyTss = true ↔ d.dt = false ∧ (d.typ = 3 ∨ d.typ = 11) := by
  simp [Desc.busyTss]

theorem require_bind_false {β : Type} {c : Bool} {e : Exc} {f : Unit → M β} {s : State} (h : c = false) :
    (require c e >>= f) s = .error (.exc e) s := by
  subst h
  rfl

/-- The task of the back link `sel` is resumed: what IRET does once it has read the link (R614). -/
def resumeTask (sel : Half) : M Unit := do
  let e := Exc.ts (selCode sel false)
  require (!selNull sel && !selTi sel) e
  let (lin, d) ← fetchDesc sel e
  require d.busyTss e
  require d.present (.np (selCode sel false))
  switchTask .iret sel lin d false false
  checkNewEip

theorem run_iretTask {s u : State} {link : Word} (hlim : 1 ≤ s.sys.tr.limit.toNat)
    (hlink : sysRead s.sys.tr.base 2 s = .ok link u) : iretTask s = resumeTask (link.setWidth 16) u := by
  rw [iretTask, run_get_bind, require_bind (decide_eq_true hlim), run_bind_ok hlink]
  rfl

/-- A back link that names no descriptor of the GDT is an invalid TSS. -/
theorem resumeTask_invalid {sel : Half} {u : State}
    (h : selNull sel = true ∨ selTi sel = true ∨ descAddr u sel = none) :
    resumeTask sel u = .error (.exc (.ts (selCode sel false))) u := by
  rw [resumeTask]
  cases hok : !selNull sel && !selTi sel with
  | false => exact require_bind_false rfl
  | true =>
    obtain ⟨hn, hti⟩ : selNull sel = false ∧ selTi sel = false := by simpa using hok
    have hnone : descAddr u sel = none := by simpa [hn, hti] using h
    rw [require_bind rfl, run_bind_error (fetchDesc_none _ hnone)]

/-- A back link that names a descriptor goes on with that descriptor. -/
theorem run_resumeTask {sel : Half} {lin : Word} {d : Desc} {u v : State} (hn : selNull sel = false)
    (hti : selTi sel = false) (hd : fetchDesc sel (.ts (selCode sel false)) u = .ok (lin, d) v) :
    resumeTask sel u = (do
      require d.busyTss (.ts (selCode sel false))
      require d.present (.np (selCode sel false))
      switchTask .iret sel lin d false false
      checkNewEip : M Unit) v := by
  rw [resumeTask, require_bind (by simp [hn, hti]), run_bind_ok hd]

theorem checkNewEip_ok {t : State} (h : t.latches.trap ≠ 0 ∨ t.segs.cs.inLimit t.eip 1 = true) :
    checkNewEip t = .ok () t := by
  rw [checkNewEip, run_get_bind, show (t.latches.trap != 0 || t.segs.cs.inLimit t.eip 1) = true by simpa using h]
  rfl

theorem checkNewEip_error {t : State} (htrap : t.latches.trap = 0) (h : t.segs.cs.inLimit t.eip 1 = false) :
    checkNewEip t = .error (.exc (.gp 0)) t := by
  rw [checkNewEip, run_get_bind, show (t.latches.trap != 0 || t.segs.cs.inLimit t.eip 1) = false by simp [htrap, h]]
  rfl

theorem returnsToTask {i : Instr} {z : Size} (hi : IsReturn i z) : ReturnsToTask i := by
  refine ⟨fun s hs hp hnt hlim => raises_return hi hs ?_, fun s link u hs hp hnt hlim hlink => ?_⟩
  · rw [modeReturn_task hp hnt, iretTask, run_get_bind]
    exact require_bind_false (decide_eq_false (by simpa using hlim))
  have acc : Accessed (markPoint s) u := (accessed_sysRead ..).ok hlink
  have resumes : modeReturn z s (markPoint s) = resumeTask (link.setWidth 16) u :=
    (congrFun (modeReturn_task hp hnt) _).trans (run_iretTask hlim hlink)
  refine ⟨acc, fun hbad => raises_return hi hs ?_, fun lin d v hn hti hd => ?_⟩
  · rw [resumes]
    refine resumeTask_invalid (hbad.imp_right (Or.imp_right fun hnone => ?_))
    rw [descAddr_accessed acc]
    exact hnone
  rw [run_resumeTask hn hti hd] at resumes
  refine ⟨accessed_fetch hd, fun hbusy => raises_return hi hs ?_, fun hdt htyp hpres => raises_return hi hs ?_,
    fun t hdt htyp hpres hswitch => ⟨fun hfit => completes_return hi hs ?_, fun htrap hout => raises_return hi hs ?_⟩⟩
  · rw [resumes, require_bind_false (Bool.eq_false_iff.mpr (mt (busyTss_iff d).mp hbusy))]
  · rw [resumes, require_bind ((busyTss_iff d).mpr ⟨hdt, htyp⟩), require_bind_false hpres]
  · rw [resumes, require_bind ((busyTss_iff d).mpr ⟨hdt, htyp⟩), require_bind hpres, run_bind_ok hswitch,
      checkNewEip_ok hfit]
  · rw [resumes, require_bind ((busyTss_iff d).mpr ⟨hdt, htyp⟩), require_bind hpres, run_bind_ok hswitch,
      checkNewEip_error htrap hout]

/-- Settles O43: its clauses are the returns by mode (R613 to R616), for IRET and for IRETD; in each of them the reads
and checks of the frame succeed or stop one after the other, and the loads that follow give the stated state. -/
theorem interruptReturnsRestoreTheirFrame : Obligations.InterruptReturnsRestoreTheirFrame := by
  unfold Obligations.InterruptReturnsRestoreTheirFrame
  exact ⟨loadedFlags_eq, returns8086 isReturn_iret, returns8086 isReturn_iretd, returnsSame isReturn_iret,
    returnsSame isReturn_iretd, returnsOuter isReturn_iret (by decide), returnsOuter isReturn_iretd (by decide),
    returnsToV86, returnsToTask isReturn_iret, returnsToTask isReturn_iretd,
    fun s hs hv h => ⟨v86NeedsIopl3 isReturn_iret hs hv h, v86NeedsIopl3 isReturn_iretd hs hv h⟩⟩

end Sys2Proof.Machine
end

section
/-! PROOFS. The loads of data and stack segment registers (O55): where a descriptor lies, what its fields are, and the
checks on a load in every mode. -/

namespace Sys2Proof.Machine

/-! Descriptors in whole numbers (R82, R83, R160, R170). -/

theorem toNat_append_eq {m n : Nat} (x : BitVec m) (y : BitVec n) :
    (x ++ y).toNat = x.toNat * 2 ^ n + y.toNat := by
  rw [BitVec.toNat_append, ← Nat.shiftLeft_add_eq_or_of_lt y.isLt, Nat.shiftLeft_eq]

theorem toNat_extract {w : Nat} (x : BitVec w) (k n : Nat) : (x.extractLsb' k n).toNat = x.toNat / 2 ^ k % 2 ^ n := by
  rw [BitVec.extractLsb'_toNat, Nat.shiftRight_eq_div_pow]

theorem getLsbD_eq_decide {w : Nat} (x : BitVec w) (k : Nat) :
    x.getLsbD k = decide (x.toNat / 2 ^ k % 2 = 1) := by
  rw [BitVec.getLsbD, Nat.testBit_eq_decide_div_mod_eq]

/-- The offset of a selector's descriptor in its table. -/
theorem toNat_selOffset (sel : Half) : (sel &&& 0xFFF8).toNat = sel.toNat / 8 * 8 := by
  have clear : sel &&& 0xFFF8#16 = sel >>> 3 <<< 3 := by
    apply BitVec.eq_of_getLsbD_eq
    intro i hi
    interval_cases i <;> simp
  have := sel.isLt
  calc (sel &&& 0xFFF8).toNat = (sel >>> 3 <<< 3).toNat := congrArg BitVec.toNat clear
    _ = sel.toNat / 8 * 8 := by
      rw [BitVec.toNat_shiftLeft, BitVec.toNat_ushiftRight]
      omega

theorem descriptorPlace : DescriptorPlace := by
  intro s sel lin
  dsimp only
  rw [descAddr, toNat_selOffset]
  rw [show selTi sel = sel.getLsbD 2 from rfl]
  cases sel.getLsbD 2 with
  | true =>
    rw [if_pos rfl, if_pos rfl, Option.ite_none_right_eq_some, Bool.and_eq_true, decide_eq_true_eq, and_assoc,
      Option.some.injEq, eq_comm (a := lin)]
  | false =>
    rw [if_neg Bool.false_ne_true, if_neg Bool.false_ne_true, Option.ite_none_right_eq_some, Option.some.injEq, eq_comm (a := lin)]

theorem fetchDesc_some {s : State} {sel : Half} {lin : Word} (e : Exc) (h : descAddr s sel = some lin) :
    fetchDesc sel e s = (do
      let lo ← sysRead lin 4
      let hi ← sysRead (lin + 4) 4
      return (lin, ⟨lo, hi⟩) : M (Word × Desc)) s := by
  rw [fetchDesc, run_get_bind, h]
  simp only [readDesc, bind_assoc, pure_bind]

theorem descriptorFetch : DescriptorFetch := by
  refine ⟨fun sel e s lin d t => ⟨fun h => ?_, ?_⟩, fun sel e s => fetchDesc_none e⟩
  · cases hp : descAddr s sel with
    | none =>
      rw [fetchDesc_none e hp] at h
      cases h
    | some a =>
      rw [fetchDesc_some e hp] at h
      obtain ⟨lo, u, hlo, h⟩ := bind_ok h
      obtain ⟨hi, v, hhi, h⟩ := bind_ok h
      cases h
      exact ⟨rfl, u, hlo, hhi⟩
  · rintro ⟨hp, u, hlo, hhi⟩
    rw [fetchDesc_some e hp, run_bind_ok hlo, run_bind_ok hhi]
    rfl

/-- The Accessed bit is bit 8 of the high doubleword, so that the fields below it and above it stay. -/
theorem accessed_extract (d : Desc) {k n : Nat} (h : k + n ≤ 8 ∨ 8 < k) :
    d.accessed.hi.extractLsb' k n = d.hi.extractLsb' k n := by
  apply BitVec.eq_of_getLsbD_eq
  intro i hi
  have other : (0x100#32).getLsbD (k + i) = false := by
    rw [show (0x100#32) = BitVec.twoPow 32 8 from rfl, BitVec.getLsbD_twoPow]
    simp
    omega
  have bit : d.accessed.hi.getLsbD (k + i) = (d.hi.getLsbD (k + i) || (0x100#32).getLsbD (k + i)) := BitVec.getLsbD_or
  rw [BitVec.getLsbD_extractLsb', BitVec.getLsbD_extractLsb', bit, other, Bool.or_false]

theorem accessed_getLsbD (d : Desc) {k : Nat} (h : k ≠ 8) : d.accessed.hi.getLsbD k = d.hi.getLsbD k := by
  have := congrArg (BitVec.getLsbD · 0) (accessed_extract d (k := k) (n := 1) (by omega))
  simpa using this

theorem accessed_toSeg (d : Desc) (sel : Half) :
    d.accessed.toSeg sel
      = { sel := sel, base := d.base, limit := d.limit, valid := true, typ := d.typ ||| 1, dt := d.dt, dpl := d.dpl,
          db := d.db } := by
  have htyp : d.accessed.typ = d.typ ||| 1 := by
    apply BitVec.eq_of_getLsbD_eq
    intro i hi
    interval_cases i <;> simp [Desc.typ, Desc.accessed]
  simp only [Desc.toSeg, htyp, Desc.base, Desc.limit, Desc.dt, Desc.dpl, Desc.db]
  rw [accessed_extract d (k := 24) (.inr (by decide)), accessed_extract d (k := 0) (.inl (by decide)),
    accessed_extract d (k := 16) (.inr (by decide)), accessed_extract d (k := 13) (.inr (by decide)),
    accessed_getLsbD d (by decide), accessed_getLsbD d (by decide), accessed_getLsbD d (by decide)]
  rfl

theorem toNat_limit (d : Desc) :
    let raw := d.hi.toNat / 2 ^ 16 % 2 ^ 4 * 2 ^ 16 + d.lo.toNat % 2 ^ 16
    d.limit.toNat = if d.hi.toNat / 2 ^ 23 % 2 = 1 then raw * 2 ^ 12 + 0xFFF else raw := by
  have hlo := d.lo.isLt
  simp only [Desc.limit, getLsbD_eq_decide, decide_eq_true_eq, apply_ite BitVec.toNat, toNat_append_eq, toNat_extract,
    BitVec.toNat_setWidth, BitVec.toNat_ofNat]
  split <;> omega

theorem toNat_gateOff (d : Desc) :
    d.gateOff.toNat = (if d.hi.toNat / 2 ^ 11 % 2 = 1 then d.hi.toNat / 2 ^ 16 * 2 ^ 16 else 0) + d.lo.toNat % 2 ^ 16 := by
  have hhi := d.hi.isLt
  simp only [Desc.gateOff, Desc.typ, getLsbD_eq_decide, decide_eq_true_eq, apply_ite BitVec.toNat, toNat_append_eq,
    toNat_extract, BitVec.toNat_setWidth]
  split <;> split <;> omega

theorem descriptorFields : DescriptorFields := by
  intro d
  have hlo := d.lo.isLt
  have hhi := d.hi.isLt
  refine ⟨?_, toNat_limit d, getLsbD_eq_decide .., getLsbD_eq_decide .., toNat_extract .., getLsbD_eq_decide ..,
    toNat_extract .., ?_, toNat_gateOff d, ?_, accessed_toSeg d⟩
  · simp only [Desc.base, toNat_append_eq, toNat_extract]
    omega
  · simp only [Desc.gateSel, toNat_extract]
    omega
  · simp only [Desc.gateCount, toNat_extract]
    omega

/-! The loads by mode, and their checks (R150, R151, R161 to R163). -/

theorem loadSeg_ss (sel : Half) : loadSeg .ss sel = loadSs sel := rfl

theorem loadSeg_data {r : SReg} (h : r ≠ .ss) (sel : Half) : loadSeg r sel = loadData r sel := if_neg h

theorem protected_modes {s : State} (h : s.isProtected = true) : s.isReal = false ∧ s.isV86 = false := by
  simp only [State.isProtected, State.isReal, State.isV86, Bool.and_eq_true, Bool.not_eq_true'] at h ⊢
  simp [h]

theorem v86_not_real {s : State} (h : s.isV86 = true) : s.isReal = false := by
  simp only [State.isReal, State.isV86, Bool.and_eq_true] at h ⊢
  simp [h]

/-- The segments of virtual-8086 mode are writable data that expand up (R151). -/
theorem v86_type (sel : Half) :
    (SegReg.v86 sel).isCode = false ∧ (SegReg.v86 sel).rw = true ∧ (SegReg.v86 sel).expandDown = false := by
  simp [SegReg.isCode, SegReg.rw, SegReg.expandDown, SegReg.v86]

theorem run_loadSeg_real {s : State} (r : SReg) (sel : Half) (h : s.isReal = true) :
    loadSeg r sel s = .ok () (withSeg s r ((s.seg r).real sel)) := by
  unfold loadSeg
  split
  · rename_i hr
    subst hr
    rw [loadSs, run_get_bind, if_pos h]
    rfl
  · rw [loadData, run_get_bind, if_pos h]
    rfl

theorem run_loadSeg_v86 {s : State} (r : SReg) (sel : Half) (h : s.isV86 = true) :
    loadSeg r sel s = .ok () (withSeg s r (SegReg.v86 sel)) := by
  have hr : ¬s.isReal = true := by simp [v86_not_real h]
  unfold loadSeg
  split
  · rename_i hss
    subst hss
    rw [loadSs, run_get_bind, if_neg hr, if_pos h]
    rfl
  · rw [loadData, run_get_bind, if_neg hr, if_pos h]
    rfl

/-- What a load of SS does in protected mode once its selector is not null (R161). -/
def ssFrom (sel : Half) (s : State) : Word × Desc → M Unit := fun (lin, d) => do
  require (rpl sel == s.curCpl) (.gp (selCode sel false))
  require d.writable (.gp (selCode sel false))
  require (d.dpl == s.curCpl) (.gp (selCode sel false))
  require d.present (.ss (selCode sel false))
  loadFromDesc .ss sel lin d

/-- What a load of a data segment register does in protected mode once its selector is not null (R162). -/
def dataFrom (r : SReg) (sel : Half) (s : State) : Word × Desc → M Unit := fun (lin, d) => do
  require d.readable (.gp (selCode sel false))
  require (!d.privChecked || decide ((maxPl s.curCpl (rpl sel)).toNat ≤ d.dpl.toNat)) (.gp (selCode sel false))
  require d.present (.np (selCode sel false))
  loadFromDesc r sel lin d

theorem loadSs_protected {s : State} (sel : Half) (h : s.isProtected = true) :
    loadSs sel s = (do
      require (!selNull sel) (.gp 0)
      let x ← fetchDesc sel (.gp (selCode sel false))
      ssFrom sel s x : M Unit) s := by
  obtain ⟨hr, hv⟩ := protected_modes h
  rw [loadSs, run_get_bind, if_neg (by simp [hr]), if_neg (by simp [hv])]
  rfl

theorem loadData_protected {s : State} (r : SReg) (sel : Half) (h : s.isProtected = true) :
    loadData r sel s
      = (if selNull sel then setSeg r ((s.seg r).null sel)
          else fetchDesc sel (.gp (selCode sel false)) >>= dataFrom r sel s : M Unit) s := by
  obtain ⟨hr, hv⟩ := protected_modes h
  rw [loadData, run_get_bind, if_neg (by simp [hr]), if_neg (by simp [hv])]
  rfl

/-- In protected mode a selector that is not null is looked up first, whichever register is loaded. -/
theorem loadSeg_lookup {s : State} (r : SReg) {sel : Half} (h : s.isProtected = true) (hn : selNull sel = false) :
    loadSeg r sel s
      = (fetchDesc sel (.gp (selCode sel false)) >>= if r = .ss then ssFrom sel s else dataFrom r sel s) s := by
  unfold loadSeg
  split
  · rw [loadSs_protected sel h, require_bind (by rw [hn]; rfl)]
  · rw [loadData_protected r sel h, if_neg (by simp [hn])]

theorem ssFrom_unfit {s u : State} {sel : Half} {lin : Word} {d : Desc} (h : ¬SsFits s sel d) :
    ssFrom sel s (lin, d) u = .error (.exc (.gp (selCode sel false))) u := by
  dsimp only [ssFrom]
  cases hrpl : rpl sel == s.curCpl with
  | false => exact require_bind_false rfl
  | true =>
    rw [require_bind rfl]
    cases hw : d.writable with
    | false => exact require_bind_false rfl
    | true =>
      rw [require_bind rfl]
      have hdpl : d.dpl ≠ s.curCpl := fun e => h ⟨beq_iff_eq.mp hrpl, hw, e⟩
      exact require_bind_false (beq_eq_false_iff_ne.mpr hdpl)

theorem ssFrom_fit {s u : State} {sel : Half} {lin : Word} {d : Desc} (h : SsFits s sel d) :
    ssFrom sel s (lin, d) u
      = (do require d.present (.ss (selCode sel false)); loadFromDesc .ss sel lin d : M Unit) u := by
  obtain ⟨hrpl, hw, hdpl⟩ := h
  dsimp only [ssFrom]
  rw [require_bind (beq_iff_eq.mpr hrpl), require_bind hw, require_bind (beq_iff_eq.mpr hdpl)]

theorem maxPl_le_iff (a b c : BitVec 2) : (maxPl a b).toNat ≤ c.toNat ↔ a.toNat ≤ c.toNat ∧ b.toNat ≤ c.toNat := by
  unfold maxPl
  split <;> omega

theorem dataFits_iff (s : State) (sel : Half) (d : Desc) :
    DataFits s sel d ↔ d.readable = true ∧
      (!d.privChecked || decide ((maxPl s.curCpl (rpl sel)).toNat ≤ d.dpl.toNat)) = true := by
  simp [DataFits, Desc.privChecked, maxPl_le_iff]

theorem dataFrom_unfit {r : SReg} {s u : State} {sel : Half} {lin : Word} {d : Desc} (h : ¬DataFits s sel d) :
    dataFrom r sel s (lin, d) u = .error (.exc (.gp (selCode sel false))) u := by
  rw [dataFits_iff] at h
  dsimp only [dataFrom]
  cases hr : d.readable with
  | false => exact require_bind_false rfl
  | true =>
    rw [require_bind rfl]
    exact require_bind_false (Bool.eq_false_iff.mpr fun hp => h ⟨hr, hp⟩)

theorem dataFrom_fit {r : SReg} {s u : State} {sel : Half} {lin : Word} {d : Desc} (h : DataFits s sel d) :
    dataFrom r sel s (lin, d) u
      = (do require d.present (.np (selCode sel false)); loadFromDesc r sel lin d : M Unit) u := by
  obtain ⟨hr, hp⟩ := (dataFits_iff s sel d).mp h
  dsimp only [dataFrom]
  rw [require_bind hr, require_bind hp]

theorem ssFrom_ends {s u : State} {sel : Half} {lin : Word} {d : Desc} :
    (¬SsFits s sel d → ssFrom sel s (lin, d) u = .error (.exc (.gp (selCode sel false))) u) ∧
    (SsFits s sel d → d.present = false → ssFrom sel s (lin, d) u = .error (.exc (.ss (selCode sel false))) u) ∧
    (SsFits s sel d → d.present = true → ∀ t, markAccessed lin d u = .ok () t →
      ssFrom sel s (lin, d) u = .ok () (withSeg t .ss (d.accessed.toSeg sel))) := by
  refine ⟨ssFrom_unfit, fun hfit hp => ?_, fun hfit hp t ht => ?_⟩
  · rw [ssFrom_fit hfit, require_bind_false hp]
  · rw [ssFrom_fit hfit, require_bind hp, run_loadFromDesc ht]

theorem dataFrom_ends {r : SReg} {s u : State} {sel : Half} {lin : Word} {d : Desc} :
    (¬DataFits s sel d → dataFrom r sel s (lin, d) u = .error (.exc (.gp (selCode sel false))) u) ∧
    (DataFits s sel d → d.present = false → dataFrom r sel s (lin, d) u = .error (.exc (.np (selCode sel false))) u) ∧
    (DataFits s sel d → d.present = true → ∀ t, markAccessed lin d u = .ok () t →
      dataFrom r sel s (lin, d) u = .ok () (withSeg t r (d.accessed.toSeg sel))) := by
  refine ⟨dataFrom_unfit, fun hfit hp => ?_, fun hfit hp t ht => ?_⟩
  · rw [dataFrom_fit hfit, require_bind_false hp]
  · rw [dataFrom_fit hfit, require_bind hp, run_loadFromDesc ht]

/-- Settles O55: the descriptor's place, fetch and fields are computed; a load goes by the mode, and in protected mode its
checks follow one after the other once the descriptor is fetched. -/
theorem segmentLoadsCheckTheirDescriptor : Obligations.SegmentLoadsCheckTheirDescriptor := by
  unfold Obligations.SegmentLoadsCheckTheirDescriptor
  refine ⟨descriptorPlace, descriptorFetch, descriptorFields, fun s r sel hr => run_loadSeg_real r sel hr,
    fun s r sel hv => ?_, fun s sel hp hn => ?_, fun s r sel hp hr hn => ?_, fun s r sel hp hn hd => ?_,
    fun s sel lin d u hp hn hd => ?_, fun s r sel lin d u hp hr hn hd => ?_⟩
  · obtain ⟨hcode, hrw, hup⟩ := v86_type sel
    exact ⟨SegReg.v86 sel, rfl, rfl, rfl, rfl, rfl, rfl, hcode, hrw, hup, run_loadSeg_v86 r sel hv⟩
  · rw [loadSeg_ss, loadSs_protected sel hp]
    exact require_bind_false (by rw [hn]; rfl)
  · rw [loadSeg_data hr, loadData_protected r sel hp, if_pos hn]
    rfl
  · rw [loadSeg_lookup r hp hn, run_bind_error (fetchDesc_none _ hd)]
  · rw [loadSeg_lookup .ss hp hn, run_bind_ok hd]
    exact ssFrom_ends
  · rw [loadSeg_lookup r hp hn, run_bind_ok hd, if_neg hr]
    exact dataFrom_ends

end Sys2Proof.Machine
end

section
/-! PROOFS. The moves to and from the TLB test registers (O41): the write command, the lookup command, and what they leave
of the TLB. -/

namespace Sys2Proof.Machine

/-! The parts of a move of a special register. -/

theorem exec_movTrR32 (tr : TrReg) (r : Reg) (s : State) : exec (.movTrR32 tr r) s = execMovTrR32 tr r s := rfl

theorem exec_movR32Tr (r : Reg) (tr : TrReg) (s : State) : exec (.movR32Tr r tr) s = execMovR32Tr r tr s := rfl

theorem run_privileged {s : State} (h : s.curCpl = 0) : privileged s = .ok () s := by
  rw [privileged, run_get_bind, h]
  rfl

theorem run_undefineStatus (s : State) : undefineStatus s = .ok () (statusLost s) := rfl

theorem completes_movTr7 {s : State} (r : Reg) (hp : Plain s) (hc : s.curCpl = 0) :
    Completes (.movTrR32 .tr7 r) s
      (statusLost { markPoint s with tlb := { s.tlb with tr7 := s.regs.get r } }) := by
  refine (exec_movTrR32 ..).trans (instr_ok hp ?_)
  rw [run_bind_ok (run_privileged (s := markPoint s) hc), run_bind_ok (run_readReg ..)]
  rfl

/-- What a read of a test register shows: its value, with the reserved bits open (log entry 26). -/
def trShown (s : State) : TrReg → Word
  | .tr6 => openBits s s.tlb.tr6 0x0000001E
  | .tr7 => openBits s s.tlb.tr7 0xFF000FE3

theorem completes_movFromTr {s : State} (r : Reg) (tr : TrReg) (hp : Plain s) (hc : s.curCpl = 0) :
    Completes (.movR32Tr r tr) s
      (statusLost { setReg (markPoint s) .d r (trShown s tr) with draws := s.draws + 1 }) := by
  refine (exec_movR32Tr ..).trans (instr_ok hp ?_)
  rw [run_bind_ok (run_privileged (s := markPoint s) hc), run_get_bind]
  cases tr <;> rfl

/-! The commands that a write of TR6 gives (R248, R249). -/

/-- TR6 loaded. -/
def withTr6 (s : State) (v : Word) : State := { s with tlb := { s.tlb with tr6 := v } }

/-- The command in the value that TR6 takes: its bit 0 tells a lookup from a write. -/
def tlbCommand (v : Word) : M Unit := if v.getLsbD 0 then tlbRead v else tlbWrite v

theorem tlbCommand_write {v : Word} (h : v.getLsbD 0 = false) : tlbCommand v = tlbWrite v :=
  if_neg (Bool.eq_false_iff.mp h)

theorem tlbCommand_lookup {v : Word} (h : v.getLsbD 0 = true) : tlbCommand v = tlbRead v := if_pos h

/-- A write of TR6 completes as its command does. -/
theorem completes_movTr6 {s t : State} {r : Reg} (hp : Plain s) (hc : s.curCpl = 0)
    (h : tlbCommand (s.regs.get r) (withTr6 (markPoint s) (s.regs.get r)) = .ok () t) :
    Completes (.movTrR32 .tr6 r) s (statusLost t) := by
  refine (exec_movTrR32 ..).trans (instr_ok hp ?_)
  rw [run_bind_ok (run_privileged (s := markPoint s) hc), run_bind_ok (run_readReg ..)]
  show (if (s.regs.get r).getLsbD 0 = true then tlbRead (s.regs.get r) >>= fun _ => undefineStatus
      else tlbWrite (s.regs.get r) >>= fun _ => undefineStatus : M Unit) (withTr6 (markPoint s) (s.regs.get r)) = _
  unfold tlbCommand at h
  split at h
  · rw [if_pos ‹_›, run_bind_ok h, run_undefineStatus]
  · rw [if_neg ‹_›, run_bind_ok h, run_undefineStatus]

/-- A command to the TLB changes its entries and its test registers, choices and draws, and nothing else. -/
def TlbChanged (s t : State) : Prop :=
  ∃ es t6 t7 choices d,
    t = { s with
          tlb := { s.tlb with entries := es, tr6 := t6, tr7 := t7 }
          now := { s.now with pages := choices }
          draws := d }

theorem attrWrite_defined {x xn : Bool} (h : x ≠ xn) (s : State) : attrWrite x xn s = .ok x s := by
  rw [attrWrite, if_neg h]
  rfl

theorem attrWrite_ends (x xn : Bool) (s : State) : ∃ b d, attrWrite x xn s = .ok b { s with draws := d } := by
  unfold attrWrite
  split
  · exact ⟨_, _, rfl⟩
  · exact ⟨x, s.draws, rfl⟩

/-- What the write command does once D, U and W of the entry are known. -/
theorem run_tlbWrite {v : Word} {s a b c : State} {block : BitVec 2} {dirty user writable : Bool}
    (hb : (if s.tlb.tr7.getLsbD 4 then s.tlb.tr7.extractLsb' 2 2 else Config.tlbPointer s.draws) = block)
    (hd : attrWrite (v.getLsbD 10) (v.getLsbD 9) s = .ok dirty a)
    (hu : attrWrite (v.getLsbD 8) (v.getLsbD 7) a = .ok user b)
    (hw : attrWrite (v.getLsbD 6) (v.getLsbD 5) b = .ok writable c) :
    tlbWrite v s = .ok ()
      { c with
        tlb :=
          { c.tlb with
            entries :=
              tlbPut c.tlb.entries
                { block := block
                  set := Config.tlbSet (tr6Page v)
                  page := tr6Page v
                  valid := v.getLsbD 11
                  dirty := dirty
                  user := user
                  writable := writable
                  frame := s.tlb.tr7.extractLsb' 12 12 } }
        draws := c.draws + 1 } := by
  subst hb
  rw [tlbWrite, run_get_bind]
  dsimp only
  rw [run_bind_ok hd, run_bind_ok hu, run_bind_ok hw, run_modify]

theorem tlbWrite_ends (v : Word) (s : State) : ∃ t, tlbWrite v s = .ok () t ∧ TlbChanged s t := by
  obtain ⟨dirty, i, hd⟩ := attrWrite_ends (v.getLsbD 10) (v.getLsbD 9) s
  obtain ⟨user, j, hu⟩ := attrWrite_ends (v.getLsbD 8) (v.getLsbD 7) { s with draws := i }
  obtain ⟨writable, k, hw⟩ := attrWrite_ends (v.getLsbD 6) (v.getLsbD 5) { s with draws := j }
  exact ⟨_, run_tlbWrite rfl hd hu hw, _, _, _, _, _, rfl⟩

/-- A choice about pages is made whatever TR6 holds. -/
theorem nextChoice_withTr6 {s m : State} {c : PageChoice} (v : Word) (h : nextChoice s = .ok c m) :
    nextChoice (withTr6 s v) = .ok c (withTr6 m v) := by
  simp only [nextChoice, withTr6] at h ⊢
  cases hp : s.now.pages with
  | nil =>
    rw [hp] at h
    cases h
    rfl
  | cons x rest =>
    rw [hp] at h
    cases h
    rfl

theorem nextChoice_ends (s : State) : ∃ c m, nextChoice s = .ok c m ∧ TlbChanged s m := by
  simp only [nextChoice]
  cases hp : s.now.pages with
  | nil => exact ⟨_, s, rfl, _, _, _, _, _, rfl⟩
  | cons x rest => exact ⟨_, _, rfl, _, _, _, _, _, rfl⟩

theorem TlbChanged.trans {s t u : State} (h : TlbChanged s t) (h' : TlbChanged t u) : TlbChanged s u := by
  obtain ⟨_, _, _, _, _, rfl⟩ := h
  obtain ⟨_, _, _, _, _, rfl⟩ := h'
  exact ⟨_, _, _, _, _, rfl⟩

/-- A lookup that no entry of a fully known set answers (R249). -/
theorem run_tlbRead_miss {v : Word} {s m : State} {c : PageChoice} (hc : nextChoice s = .ok c m)
    (hk : tlbUnknown m.tlb v = false) (hl : m.tlb.entries.filter (tlbMatches v) = []) :
    tlbRead v s = .ok ()
      { m with
        tlb := { m.tlb with tr7 := (Config.freeWord m.draws).setWidth 32 &&& ~~~0x10#32 }
        draws := m.draws + 1 } := by
  rw [tlbRead, run_bind_ok hc, run_get_bind, run_bind_ok (run_freeBits ..), hk, hl]
  rfl

/-- A lookup that one entry of a fully known set answers (R249). -/
theorem run_tlbRead_hit {v : Word} {s m : State} {c : PageChoice} {e : TlbEntry} (hc : nextChoice s = .ok c m)
    (hk : tlbUnknown m.tlb v = false) (hl : m.tlb.entries.filter (tlbMatches v) = [e]) :
    let x := (Config.freeWord m.draws).setWidth 32
    tlbRead v s = .ok ()
      { m with
        tlb :=
          { m.tlb with
            tr6 := v.extractLsb' 11 21 ++ attrPair e.dirty ++ attrPair e.user ++ attrPair e.writable ++ v.extractLsb' 0 5
            tr7 := x.extractLsb' 24 8 ++ e.frame ++ x.extractLsb' 5 7 ++ 1#1 ++ e.block ++ x.extractLsb' 0 2 }
        draws := m.draws + 1 } := by
  rw [tlbRead, run_bind_ok hc, run_get_bind, run_bind_ok (run_freeBits ..), hk, hl]
  rfl

theorem tlbRead_ends (v : Word) (s : State) : ∃ t, tlbRead v s = .ok () t ∧ TlbChanged s t := by
  obtain ⟨c, m, hc, hm⟩ := nextChoice_ends s
  rw [tlbRead, run_bind_ok hc, run_get_bind, run_bind_ok (run_freeBits ..)]
  refine Exists.imp (fun t => And.imp_right hm.trans) ?_
  cases tlbUnknown m.tlb v with
  | true => exact ⟨_, rfl, _, _, _, _, _, rfl⟩
  | false =>
    match m.tlb.entries.filter (tlbMatches v) with
    | [] => exact ⟨_, rfl, _, _, _, _, _, rfl⟩
    | [e] => exact ⟨_, rfl, _, _, _, _, _, rfl⟩
    | _ :: _ :: _ => exact ⟨_, rfl, _, _, _, _, _, rfl⟩

theorem tlbCommand_ends (v : Word) (s : State) : ∃ t, tlbCommand v s = .ok () t ∧ TlbChanged s t := by
  unfold tlbCommand
  split
  · exact tlbRead_ends v s
  · exact tlbWrite_ends v s

theorem movTr6_completes {s : State} (r : Reg) (hp : Plain s) (hc : s.curCpl = 0) :
    ∃ es t6 t7 choices d, Completes (.movTrR32 .tr6 r) s
      (statusLost
        { markPoint s with
          tlb := { s.tlb with entries := es, tr6 := t6, tr7 := t7 }
          now := { s.now with pages := choices }
          draws := d }) := by
  obtain ⟨t, run, es, t6, t7, choices, d, rfl⟩ :=
    tlbCommand_ends (s.regs.get r) (withTr6 (markPoint s) (s.regs.get r))
  exact ⟨es, t6, t7, choices, d, completes_movTr6 hp hc run⟩

/-- A write command whose pairs (X, X#) are complementary and whose TR7 names a block (R248). -/
theorem movTr6_writes {s : State} (r : Reg) (hp : Plain s) (hc : s.curCpl = 0) :
    let v : Word := s.regs.get r
    v.getLsbD 0 = false → s.tlb.tr7.getLsbD 4 = true →
      v.getLsbD 10 ≠ v.getLsbD 9 → v.getLsbD 8 ≠ v.getLsbD 7 → v.getLsbD 6 ≠ v.getLsbD 5 →
      Completes (.movTrR32 .tr6 r) s
        (statusLost
          { markPoint s with
            tlb :=
              { s.tlb with
                tr6 := v
                entries :=
                  tlbPut s.tlb.entries
                    { block := s.tlb.tr7.extractLsb' 2 2
                      set := Config.tlbSet (v.extractLsb' 12 20)
                      page := v.extractLsb' 12 20
                      valid := v.getLsbD 11
                      dirty := v.getLsbD 10
                      user := v.getLsbD 8
                      writable := v.getLsbD 6
                      frame := s.tlb.tr7.extractLsb' 12 12 } }
            draws := s.draws + 1 }) := by
  intro v hcmd hpl hd hu hw
  refine completes_movTr6 hp hc ?_
  rw [tlbCommand_write hcmd,
    run_tlbWrite (s := withTr6 (markPoint s) v) (if_pos hpl) (attrWrite_defined hd _) (attrWrite_defined hu _)
      (attrWrite_defined hw _)]
  rfl

theorem attrPair_true_bit (b : Bool) : (attrPair b).getLsbD 1 = b := by cases b <;> decide

theorem attrPair_false_bit (b : Bool) : (attrPair b).getLsbD 0 = !b := by cases b <;> decide

/-- The bits of TR6 after a hit, field by field. -/
theorem getLsbD_tr6 (p : BitVec 21) (d u w : BitVec 2) (l : BitVec 5) (i : Nat) :
    (p ++ d ++ u ++ w ++ l).getLsbD i
      = if i < 5 then l.getLsbD i else if i < 7 then w.getLsbD (i - 5) else if i < 9 then u.getLsbD (i - 7)
        else if i < 11 then d.getLsbD (i - 9) else p.getLsbD (i - 11) := by
  rw [BitVec.getLsbD_append, BitVec.getLsbD_append, BitVec.getLsbD_append, BitVec.getLsbD_append, Nat.sub_sub,
    Nat.sub_sub, Nat.sub_sub]
  refine if_congr Iff.rfl rfl (if_congr ?_ rfl (if_congr ?_ rfl (if_congr ?_ rfl rfl))) <;> omega

/-- The bits of TR7 after a hit, field by field. -/
theorem getLsbD_tr7 (x : BitVec 8) (f : BitVec 12) (y : BitVec 7) (p : BitVec 1) (b l : BitVec 2) (i : Nat) :
    (x ++ f ++ y ++ p ++ b ++ l).getLsbD i
      = if i < 2 then l.getLsbD i else if i < 4 then b.getLsbD (i - 2) else if i < 5 then p.getLsbD (i - 4)
        else if i < 12 then y.getLsbD (i - 5) else if i < 24 then f.getLsbD (i - 12) else x.getLsbD (i - 24) := by
  rw [BitVec.getLsbD_append, BitVec.getLsbD_append, BitVec.getLsbD_append, BitVec.getLsbD_append,
    BitVec.getLsbD_append, Nat.sub_sub, Nat.sub_sub, Nat.sub_sub, Nat.sub_sub]
  refine if_congr Iff.rfl rfl (if_congr ?_ rfl (if_congr ?_ rfl (if_congr ?_ rfl (if_congr ?_ rfl rfl)))) <;> omega

/-- What a lookup shows of an entry in TR6: the page and V as asked, and D, U and W each as a pair (X, X#). -/
theorem tr6_shows (v : Word) (e : TlbEntry) :
    let t6 := v.extractLsb' 11 21 ++ attrPair e.dirty ++ attrPair e.user ++ attrPair e.writable ++ v.extractLsb' 0 5
    t6.extractLsb' 11 21 = v.extractLsb' 11 21 ∧
      t6.getLsbD 10 = e.dirty ∧ t6.getLsbD 9 = !e.dirty ∧ t6.getLsbD 8 = e.user ∧ t6.getLsbD 7 = !e.user ∧
      t6.getLsbD 6 = e.writable ∧ t6.getLsbD 5 = !e.writable := by
  refine ⟨BitVec.eq_of_getLsbD_eq fun i hi => ?_, ?_, ?_, ?_, ?_, ?_, ?_⟩
  · rw [BitVec.getLsbD_extractLsb', getLsbD_tr6, if_neg (by omega), if_neg (by omega), if_neg (by omega),
      if_neg (by omega), Nat.add_sub_cancel_left]
    simp [hi]
  all_goals
    rw [getLsbD_tr6]
  · exact attrPair_true_bit _
  · exact attrPair_false_bit _
  · exact attrPair_true_bit _
  · exact attrPair_false_bit _
  · exact attrPair_true_bit _
  · exact attrPair_false_bit _

/-- What a lookup shows of an entry in TR7: PL set, the block and the frame. -/
theorem tr7_shows (x : Word) (e : TlbEntry) :
    let t7 := x.extractLsb' 24 8 ++ e.frame ++ x.extractLsb' 5 7 ++ 1#1 ++ e.block ++ x.extractLsb' 0 2
    t7.getLsbD 4 = true ∧ t7.extractLsb' 2 2 = e.block ∧ t7.extractLsb' 12 12 = e.frame := by
  refine ⟨?_, BitVec.eq_of_getLsbD_eq fun i hi => ?_, BitVec.eq_of_getLsbD_eq fun i hi => ?_⟩
  · rw [getLsbD_tr7]
    rfl
  · rw [BitVec.getLsbD_extractLsb', getLsbD_tr7, if_neg (by omega), if_pos (by omega), Nat.add_sub_cancel_left]
    simp [hi]
  · rw [BitVec.getLsbD_extractLsb', getLsbD_tr7, if_neg (by omega), if_neg (by omega), if_neg (by omega),
      if_neg (by omega), if_pos (by omega), Nat.add_sub_cancel_left]
    simp [hi]

/-- Settles O41: TR7 and the reads are moves; a write of TR6 completes as its command does, and a command is followed
through its draws and its choice about pages. -/
theorem testRegisterMovesReachTheTlb : Obligations.TestRegisterMovesReachTheTlb := by
  unfold Obligations.TestRegisterMovesReachTheTlb
  intro s hp hc
  refine ⟨fun r => completes_movTr7 r hp hc, fun r => completes_movFromTr r .tr7 hp hc,
    fun r => completes_movFromTr r .tr6 hp hc, fun r => ⟨movTr6_completes r hp hc, movTr6_writes r hp hc,
      fun c m hcmd hch hk => ⟨fun hl => ?_, fun e hl => ?_⟩⟩⟩
  all_goals
    have choice := nextChoice_withTr6 (s.regs.get r) hch
  · refine ⟨(Config.freeWord m.draws).setWidth 32 &&& ~~~0x10#32, by simp, completes_movTr6 hp hc ?_⟩
    rw [tlbCommand_lookup hcmd, run_tlbRead_miss choice hk hl]
    rfl
  · obtain ⟨hpage, hd, hdn, hu, hun, hw, hwn⟩ := tr6_shows (s.regs.get r) e
    obtain ⟨hpl, hblock, hframe⟩ := tr7_shows ((Config.freeWord m.draws).setWidth 32) e
    refine ⟨_, _, hpage, hd, hdn, hu, hun, hw, hwn, hpl, hblock, hframe, completes_movTr6 hp hc ?_⟩
    rw [tlbCommand_lookup hcmd, run_tlbRead_hit choice hk hl]
    rfl

end Sys2Proof.Machine
end

section
/-! PROOFS. The page walk, the TLB and the bits of the page tables (O54): where a walk reads, how a translation ends, and
what an access that is made sets. -/

namespace Sys2Proof.Machine

/-! Reads of physical memory (R271): only the draws of free values move. -/

/-- Only free values have been drawn. -/
def Drawn (s t : State) : Prop := ∃ d, t = { s with draws := d }

theorem composes_drawn : Composes Drawn Drawn where
  refl s := ⟨s.draws, rfl⟩
  stop s := ⟨s.draws, rfl⟩
  trans := by
    rintro s t u ⟨_, rfl⟩ ⟨d, rfl⟩
    exact ⟨d, rfl⟩
  transStop := by
    rintro s t u ⟨_, rfl⟩ ⟨d, rfl⟩
    exact ⟨d, rfl⟩

theorem drawn_physRead (a : BitVec 24) : Ends Drawn Drawn (physRead a) := by
  constructor
  intro s
  simp only [physRead]
  cases regionAt s.regions a.toNat with
  | ram => exact composes_drawn.refl s
  | rom => exact composes_drawn.refl s
  | unmapped => exact ⟨_, rfl⟩

theorem drawn_physReadAll (as : List (BitVec 24)) : Ends Drawn Drawn (physReadAll as) := by
  induction as with
  | nil => exact ends_pure composes_drawn _
  | cons a rest ih =>
    exact ends_bind composes_drawn (drawn_physRead a) fun _ =>
      ends_bind composes_drawn ih fun _ => ends_pure composes_drawn _

theorem drawn_readEntry (a : BitVec 24) : Ends Drawn Drawn (readEntry a) :=
  ends_bind composes_drawn (drawn_physReadAll _) fun _ => ends_pure composes_drawn _

/-! Computations that cannot stop. -/

/-- No error ends the computation. -/
abbrev NeverStops {α : Type} (m : M α) : Prop := Raises (fun _ => False) m

theorem NeverStops.ok {α : Type} {m : M α} (h : NeverStops m) (s : State) : ∃ a t, m s = .ok a t := by
  cases e : m s with
  | ok a t => exact ⟨a, t, rfl⟩
  | error x t => exact (h.run s x t e).elim

theorem neverStops_physRead (a : BitVec 24) : NeverStops (physRead a) := by
  refine raises_of fun s => ?_
  simp only [physRead]
  cases regionAt s.regions a.toNat <;> exact ⟨_, _, rfl⟩

theorem neverStops_physReadAll (as : List (BitVec 24)) : NeverStops (physReadAll as) := by
  induction as with
  | nil => exact raises_pure _
  | cons a rest ih => exact raises_bind (neverStops_physRead a) fun _ => raises_bind ih fun _ => raises_pure _

theorem neverStops_readEntry (a : BitVec 24) : NeverStops (readEntry a) :=
  raises_bind (neverStops_physReadAll _) fun _ => raises_pure _

theorem neverStops_physSetBits (a : BitVec 24) (mask : Byte) : NeverStops (physSetBits a mask) := raises_modify _

theorem neverStops_touchPage (page : BitVec 20) (acc : Access) (t : Trans) : NeverStops (touchPage page acc t) := by
  cases t with
  | direct f => exact raises_pure _
  | walked f pa ta user writable dirty c =>
    exact raises_bind (neverStops_physSetBits ..) fun _ =>
      raises_bind (neverStops_physSetBits ..) fun _ => raises_modify _
  | cached e c =>
    unfold touchPage
    refine raises_ite (raises_bind raises_get fun s => raises_bind (neverStops_readEntry _) fun pde => ?_) (raises_pure _)
    exact raises_ite
      (raises_bind (neverStops_physSetBits ..) fun _ =>
        raises_bind (neverStops_physSetBits ..) fun _ => raises_modify _)
      (raises_bind (neverStops_physSetBits ..) fun _ => raises_modify _)

theorem neverStops_physFrom (lin : Word) (n : Nat) (acc : Access) (ts : Trans × Trans) :
    NeverStops (physFrom lin n acc ts) := by
  unfold physFrom
  refine raises_bind (neverStops_touchPage ..) fun _ => ?_
  exact raises_ite (raises_bind (neverStops_touchPage ..) fun _ => raises_pure _) (raises_pure _)

/-- A computation that stops: in its first part, or after it. -/
theorem bind_error {α β : Type} {m : M α} {f : α → M β} {s t : State} {e : Err} (h : (m >>= f) s = .error e t) :
    m s = .error e t ∨ ∃ a u, m s = .ok a u ∧ f a u = .error e t := by
  rw [run_bind] at h
  cases hm : m s with
  | ok a u =>
    rw [hm] at h
    exact .inr ⟨a, u, rfl, h⟩
  | error x u =>
    rw [hm] at h
    cases h
    exact .inl rfl

/-- Where what follows cannot stop, a stop comes from the first part. -/
theorem bind_error_left {α β : Type} {m : M α} {f : α → M β} {s t : State} {e : Err} (hf : ∀ a, NeverStops (f a))
    (h : (m >>= f) s = .error e t) : m s = .error e t :=
  (bind_error h).resolve_right fun ⟨a, u, _, h⟩ => (hf a).run u e t h

/-! Where the entries of a page lie (R240). -/

theorem pdeAddr_pageOf (cr3 lin : Word) :
    pdeAddr cr3 (pageOf lin) = cr3.extractLsb' 12 12 ++ lin.extractLsb' 22 10 ++ 0#2 := by
  have dir : (pageOf lin).extractLsb' 10 10 = lin.extractLsb' 22 10 := by
    apply BitVec.eq_of_getLsbD_eq
    intro i hi
    simp only [pageOf, BitVec.getLsbD_extractLsb', ← Nat.add_assoc]
    simp [show 10 + i < 20 by omega]
  rw [pdeAddr, dir]

theorem pteAddr_pageOf (pde lin : Word) :
    pteAddr pde (pageOf lin) = pde.extractLsb' 12 12 ++ lin.extractLsb' 12 10 ++ 0#2 := by
  have table : (pageOf lin).extractLsb' 0 10 = lin.extractLsb' 12 10 := by
    apply BitVec.eq_of_getLsbD_eq
    intro i hi
    simp only [pageOf, BitVec.getLsbD_extractLsb', ← Nat.add_assoc]
    simp [show i < 20 by omega]
  rw [pteAddr, table]

theorem pfBits_bits (acc : Access) (p : Bool) :
    (pfBits acc p).getLsbD 0 = p ∧ (pfBits acc p).getLsbD 1 = acc.write ∧ (pfBits acc p).getLsbD 2 = acc.user := by
  obtain ⟨w, u⟩ := acc
  cases w <;> cases u <;> cases p <;> decide

/-! How a translation ends (R242, R244, R924). -/

theorem pageAllows_entry (acc : Access) (e : TlbEntry) : pageAllows acc e.user e.writable = true ↔ EntryAllows acc e := by
  obtain ⟨w, u⟩ := acc
  cases u <;> cases w <;> simp [pageAllows, EntryAllows]

theorem pageAllows_entries (acc : Access) (pde pte : Word) :
    pageAllows acc (pde.getLsbD 2 && pte.getLsbD 2) (pde.getLsbD 1 && pte.getLsbD 1) = true ↔
      EntriesAllow acc pde pte := by
  obtain ⟨w, u⟩ := acc
  cases u <;> cases w <;> simp [pageAllows, EntriesAllow, and_assoc]

theorem translate_direct {s : State} (h : s.sys.cr0.pg = false) (lin : Word) (acc : Access) :
    translate lin acc s = .ok (.direct (lin.extractLsb' 12 12)) s := by
  rw [translate, run_get_bind, if_neg (by simp [h])]
  rfl

section
variable {lin : Word} {acc : Access} {c : PageChoice} {s m u w : State} {pde pte : Word}

theorem translate_cached {e : TlbEntry} (hpg : s.sys.cr0.pg = true) (hc : nextChoice s = .ok c m)
    (he : tlbLookup m c.use (pageOf lin) = some e) :
    translate lin acc s
      = if pageAllows acc e.user e.writable then .ok (.cached e c) m
        else .error (.exc (.pf (pfBits acc true))) (withCr2 m lin) := by
  rw [translate, run_get_bind, if_pos hpg, run_bind_ok hc, run_get_bind, he]
  dsimp only
  split <;> rfl

theorem translate_walk (hpg : s.sys.cr0.pg = true) (hc : nextChoice s = .ok c m)
    (he : tlbLookup m c.use (pageOf lin) = none) : translate lin acc s = walk lin acc c m := by
  rw [translate, run_get_bind, if_pos hpg, run_bind_ok hc, run_get_bind, he]

theorem walk_noTable (hd : readEntry (pdeAddr s.sys.cr3 (pageOf lin)) s = .ok pde u) (hp : pde.getLsbD 0 = false) :
    walk lin acc c s = .error (.exc (.pf (pfBits acc false))) (withCr2 u lin) := by
  rw [walk, run_get_bind]
  dsimp only
  rw [run_bind_ok hd, hp]
  rfl

/-- The rest of a walk, once the table entry has been read. -/
def walkPte (lin : Word) (acc : Access) (c : PageChoice) (pa ta : BitVec 24) (pde pte : Word) : M Trans :=
  if !pte.getLsbD 0 then do
    if c.pdeAccessed then physSetBits pa 0x20
    pageFault lin acc false
  else if pageAllows acc (pde.getLsbD 2 && pte.getLsbD 2) (pde.getLsbD 1 && pte.getLsbD 1) then
    pure (.walked (pte.extractLsb' 12 12) pa ta (pde.getLsbD 2 && pte.getLsbD 2) (pde.getLsbD 1 && pte.getLsbD 1)
      (pte.getLsbD 6) c)
  else pageFault lin acc true

theorem walk_table (hd : readEntry (pdeAddr s.sys.cr3 (pageOf lin)) s = .ok pde u) (hp : pde.getLsbD 0 = true)
    (ht : readEntry (pteAddr pde (pageOf lin)) u = .ok pte w) :
    walk lin acc c s
      = walkPte lin acc c (pdeAddr s.sys.cr3 (pageOf lin)) (pteAddr pde (pageOf lin)) pde pte w := by
  rw [walk, run_get_bind]
  dsimp only
  rw [run_bind_ok hd, hp]
  exact run_bind_ok ht

theorem walkPte_noPage {pa ta : BitVec 24} (hp : pte.getLsbD 0 = false) :
    ∃ x, (if c.pdeAccessed = true then physSetBits pa 0x20 w = .ok () x else x = w) ∧
      walkPte lin acc c pa ta pde pte w = .error (.exc (.pf (pfBits acc false))) (withCr2 x lin) := by
  rw [walkPte, if_pos (by rw [hp]; rfl)]
  cases c.pdeAccessed with
  | true => exact ⟨_, rfl, rfl⟩
  | false => exact ⟨w, rfl, rfl⟩

theorem walkPte_page {pa ta : BitVec 24} (hp : pte.getLsbD 0 = true) :
    walkPte lin acc c pa ta pde pte w
      = if pageAllows acc (pde.getLsbD 2 && pte.getLsbD 2) (pde.getLsbD 1 && pte.getLsbD 1) then
          .ok (.walked (pte.extractLsb' 12 12) pa ta (pde.getLsbD 2 && pte.getLsbD 2)
            (pde.getLsbD 1 && pte.getLsbD 1) (pte.getLsbD 6) c) w
        else .error (.exc (.pf (pfBits acc true))) (withCr2 w lin) := by
  rw [walkPte, if_neg (by rw [hp]; decide)]
  split <;> rfl

end

/-- A translation translates the page or is a page fault, by the TLB entry that serves the page or by the two entries of the
page tables (R240, R242, R244, R924). -/
theorem translate_follows {s : State} {lin : Word} {acc : Access} {c : PageChoice} {m : State}
    (hpg : s.sys.cr0.pg = true) (hc : nextChoice s = .ok c m) :
    (∀ e, tlbLookup m c.use (pageOf lin) = some e →
      (EntryAllows acc e → translate lin acc s = .ok (.cached e c) m) ∧
      (¬EntryAllows acc e → translate lin acc s = .error (.exc (.pf (pfBits acc true))) (withCr2 m lin))) ∧
    ∀ pde u, tlbLookup m c.use (pageOf lin) = none → readEntry (pdeAddr m.sys.cr3 (pageOf lin)) m = .ok pde u →
      (pde.getLsbD 0 = false →
        translate lin acc s = .error (.exc (.pf (pfBits acc false))) (withCr2 u lin)) ∧
      ∀ pte w, pde.getLsbD 0 = true → readEntry (pteAddr pde (pageOf lin)) u = .ok pte w →
        (pte.getLsbD 0 = false → ∃ x,
          (if c.pdeAccessed = true then physSetBits (pdeAddr m.sys.cr3 (pageOf lin)) 0x20 w = .ok () x else x = w) ∧
            translate lin acc s = .error (.exc (.pf (pfBits acc false))) (withCr2 x lin)) ∧
        (pte.getLsbD 0 = true →
          (EntriesAllow acc pde pte →
            translate lin acc s
              = .ok
                  (.walked (pte.extractLsb' 12 12) (pdeAddr m.sys.cr3 (pageOf lin)) (pteAddr pde (pageOf lin))
                    (pde.getLsbD 2 && pte.getLsbD 2) (pde.getLsbD 1 && pte.getLsbD 1) (pte.getLsbD 6) c)
                  w) ∧
          (¬EntriesAllow acc pde pte →
            translate lin acc s = .error (.exc (.pf (pfBits acc true))) (withCr2 w lin))) := by
  refine ⟨fun e he => ⟨fun h => ?_, fun h => ?_⟩, fun pde u hn hd => ?_⟩
  · rw [translate_cached hpg hc he, if_pos ((pageAllows_entry acc e).mpr h)]
  · rw [translate_cached hpg hc he, if_neg (mt (pageAllows_entry acc e).mp h)]
  rw [translate_walk hpg hc hn]
  refine ⟨walk_noTable hd, fun pte w hp ht => ?_⟩
  rw [walk_table hd hp ht]
  refine ⟨walkPte_noPage, fun hpage => ⟨fun h => ?_, fun h => ?_⟩⟩
  · rw [walkPte_page hpage, if_pos ((pageAllows_entries acc pde pte).mpr h)]
  · rw [walkPte_page hpage, if_neg (mt (pageAllows_entries acc pde pte).mp h)]

/-! A translation changes no byte of memory, but for a page fault for a page that is not present (R241, D87). -/

/-- Memory and the record of the bus are as before. -/
def SameStore (s t : State) : Prop := t.mem = s.mem ∧ t.io = s.io

theorem SameStore.trans {s t u : State} (h : SameStore s t) (h' : SameStore t u) : SameStore s u :=
  ⟨h'.1.trans h.1, h'.2.trans h.2⟩

theorem sameStore_drawn {s t : State} (h : Drawn s t) : SameStore s t := by
  obtain ⟨d, rfl⟩ := h
  exact ⟨rfl, rfl⟩

theorem sameStore_readEntry {a : BitVec 24} {s t : State} {v : Word} (h : readEntry a s = .ok v t) : SameStore s t :=
  sameStore_drawn ((drawn_readEntry a).ok h)

theorem nextChoice_sameStore (s : State) : ∃ c m, nextChoice s = .ok c m ∧ SameStore s m := by
  obtain ⟨c, m, hc, _, _, _, _, _, rfl⟩ := nextChoice_ends s
  exact ⟨c, _, hc, rfl, rfl⟩

/-- The end of a translation that has stored nothing, unless it is a page fault for a page that is not present. -/
def StoredNothing {α : Type} (acc : Access) (s : State) (r : EStateM.Result Err State α) : Prop :=
  match r with
  | .ok _ t => SameStore s t
  | .error e t => e = .exc (.pf (pfBits acc false)) ∨ (e = .exc (.pf (pfBits acc true)) ∧ SameStore s t)

theorem walk_storedNothing (lin : Word) (acc : Access) (c : PageChoice) (s : State) :
    StoredNothing acc s (walk lin acc c s) := by
  obtain ⟨pde, u, hd⟩ := (neverStops_readEntry (pdeAddr s.sys.cr3 (pageOf lin))).ok s
  cases hp : pde.getLsbD 0 with
  | false =>
    rw [walk_noTable hd hp]
    exact .inl rfl
  | true =>
    obtain ⟨pte, w, ht⟩ := (neverStops_readEntry (pteAddr pde (pageOf lin))).ok u
    have same : SameStore s w := (sameStore_readEntry hd).trans (sameStore_readEntry ht)
    rw [walk_table hd hp ht]
    cases hq : pte.getLsbD 0 with
    | false =>
      obtain ⟨x, -, hx⟩ := walkPte_noPage hq
      rw [hx]
      exact .inl rfl
    | true =>
      rw [walkPte_page hq]
      split
      · exact same
      · exact .inr ⟨rfl, same⟩

theorem translate_storedNothing (lin : Word) (acc : Access) (s : State) :
    StoredNothing acc s (translate lin acc s) := by
  cases hpg : s.sys.cr0.pg with
  | false =>
    rw [translate_direct hpg]
    exact ⟨rfl, rfl⟩
  | true =>
    obtain ⟨c, m, hc, same⟩ := nextChoice_sameStore s
    cases he : tlbLookup m c.use (pageOf lin) with
    | some e =>
      rw [translate_cached hpg hc he]
      split
      · exact same
      · exact .inr ⟨rfl, same⟩
    | none =>
      rw [translate_walk hpg hc he]
      have h := walk_storedNothing lin acc c m
      cases hw : walk lin acc c m with
      | ok x t =>
        rw [hw] at h
        exact same.trans h
      | error e t =>
        rw [hw] at h
        exact h.imp_right (And.imp_right same.trans)

theorem translate_sameStore {lin : Word} {acc : Access} {s t : State} {x : Trans} (h : translate lin acc s = .ok x t) :
    SameStore s t := by
  have := translate_storedNothing lin acc s
  rwa [h] at this

/-- A page fault whose P bit is set comes from a page that is present, and has stored nothing. -/
theorem translate_protection {lin : Word} {acc : Access} {s t : State} {b : BitVec 3}
    (h : translate lin acc s = .error (.exc (.pf b)) t) (hb : b.getLsbD 0 = true) : SameStore s t := by
  have ends := translate_storedNothing lin acc s
  rw [h] at ends
  rcases ends with he | ⟨-, same⟩
  · cases he
    rw [(pfBits_bits acc false).1] at hb
    cases hb
  · exact same

theorem translateBoth_protection {lin : Word} {n : Nat} {acc : Access} {s t : State} {b : BitVec 3}
    (h : translateBoth lin n acc s = .error (.exc (.pf b)) t) (hb : b.getLsbD 0 = true) : SameStore s t := by
  unfold translateBoth at h
  rcases bind_error h with h | ⟨t1, u, h1, h⟩
  · exact translate_protection h hb
  split at h
  · cases h
  · exact (translate_sameStore h1).trans
      (translate_protection (bind_error_left (fun _ => raises_pure _) h) hb)

theorem physOf_protection {lin : Word} {n : Nat} {acc : Access} {s t : State} {b : BitVec 3}
    (h : physOf lin n acc s = .error (.exc (.pf b)) t) (hb : b.getLsbD 0 = true) : SameStore s t :=
  translateBoth_protection (bind_error_left (fun _ => neverStops_physFrom ..) h) hb

theorem dataPhys_protection {r : SReg} {off : Word} {n : Nat} {write : Bool} {s t : State} {b : BitVec 3}
    (h : dataPhys r off n write s = .error (.exc (.pf b)) t) (hb : b.getLsbD 0 = true) : SameStore s t := by
  rw [dataPhys, run_get_bind] at h
  cases hc : segCheck s r off n write with
  | false =>
    rw [hc, require_bind_false rfl] at h
    unfold segFault at h
    split at h <;> cases h
  | true =>
    rw [hc, require_bind rfl, recordHits, run_modify_bind] at h
    have same : SameStore _ t := physOf_protection h hb
    exact same

/-- An access that a protection fault stops has set no bit and stored no byte (R241). -/
theorem access_protection {s t : State} {r : SReg} {off : Word} {n : Nat} {v : Word} {b : BitVec 3}
    (h : readMem r off n s = .error (.exc (.pf b)) t ∨ writeMem r off n v s = .error (.exc (.pf b)) t)
    (hb : b.getLsbD 0 = true) : t.mem = s.mem ∧ t.io = s.io := by
  rcases h with h | h
  · exact dataPhys_protection
      (bind_error_left (fun _ => raises_bind (neverStops_physReadAll _) fun _ => raises_pure _) h) hb
  · exact dataPhys_protection (bind_error_left (fun _ => raises_modify _) h) hb

/-! The bits that an access sets when it is made (R241, R246). -/

section
variable {rs : List Region} {mem : List Host.Cell}

theorem mem_read_setBits_same (hwf : Mem.wf mem = true) {a : Nat} (hr : regionAt rs a = .ram) (mask : Byte) :
    Mem.read (Mem.setBits rs mem a mask) a = Mem.read mem a ||| mask := by
  rw [Mem.setBits, Mem.store, hr]
  exact mem_read_write_same hwf a _

theorem mem_read_setBits_other (hwf : Mem.wf mem = true) {a b : Nat} (h : b ≠ a) (mask : Byte) :
    Mem.read (Mem.setBits rs mem a mask) b = Mem.read mem b :=
  mem_read_store hwf _ (.inl h.symm)

/-- Bits set in two bytes, one after the other. -/
theorem mem_read_setBits_two (hwf : Mem.wf mem = true) {pa ta : BitVec 24} (hne : pa.toNat ≠ ta.toNat)
    (hpa : regionAt rs pa.toNat = .ram) (hta : regionAt rs ta.toNat = .ram) (x y : Byte) :
    let m := Mem.setBits rs (Mem.setBits rs mem pa.toNat x) ta.toNat y
    Mem.read m pa.toNat = Mem.read mem pa.toNat ||| x ∧ Mem.read m ta.toNat = Mem.read mem ta.toNat ||| y ∧
      ∀ a, a ≠ pa.toNat → a ≠ ta.toNat → Mem.read m a = Mem.read mem a := by
  have hwf' : Mem.wf (Mem.setBits rs mem pa.toNat x) = true := mem_wf_store hwf pa.isLt _
  refine ⟨?_, ?_, fun a h h' => ?_⟩
  · rw [mem_read_setBits_other hwf' hne, mem_read_setBits_same hwf hpa]
  · rw [mem_read_setBits_same hwf' hta, mem_read_setBits_other hwf hne.symm]
  · rw [mem_read_setBits_other hwf' h', mem_read_setBits_other hwf h]

end

theorem fillTlb_mem (fill : Option (BitVec 2)) (page : BitVec 20) (f : BitVec 12) (us wr d : Bool) (s : State) :
    (fillTlb fill page f us wr d s).mem = s.mem := by
  cases fill <;> rfl

/-- The access that a walk admitted (R241, R244). -/
theorem touchPage_walked {page : BitVec 20} {acc : Access} {f : BitVec 12} {pa ta : BitVec 24} {us wr dirty : Bool}
    {c : PageChoice} {s : State} (hwf : Mem.wf s.mem = true) (hne : pa ≠ ta) (hpa : regionAt s.regions pa.toNat = .ram)
    (hta : regionAt s.regions ta.toNat = .ram) :
    ∃ t, touchPage page acc (.walked f pa ta us wr dirty c) s = .ok () t ∧
      Mem.read t.mem pa.toNat = Mem.read s.mem pa.toNat ||| (if c.pdeDirty then 0x60 else 0x20) ∧
      Mem.read t.mem ta.toNat = Mem.read s.mem ta.toNat ||| (if acc.write then 0x60 else 0x20) ∧
      (∀ a, a ≠ pa.toNat → a ≠ ta.toNat → Mem.read t.mem a = Mem.read s.mem a) ∧
      (c.fill = none → t.tlb = s.tlb) ∧
      ∀ k, c.fill = some k →
        t.tlb = { s.tlb with
                  entries := tlbPut s.tlb.entries (walkedEntry page k f us wr (dirty || acc.write)) } := by
  obtain ⟨hp, ht, hother⟩ := mem_read_setBits_two hwf (mt BitVec.eq_of_toNat_eq hne) hpa hta
    (if c.pdeDirty then 0x60 else 0x20) (if acc.write then 0x60 else 0x20)
  refine ⟨_, rfl, ?_, ?_, fun a h h' => ?_, fun hf => ?_, fun k hf => ?_⟩
  · rw [fillTlb_mem]
    exact hp
  · rw [fillTlb_mem]
    exact ht
  · rw [fillTlb_mem]
    exact hother a h h'
  · rw [hf]
    rfl
  · rw [hf]
    rfl

theorem touchPage_cached_clean {page : BitVec 20} {acc : Access} {e : TlbEntry} {c : PageChoice} {s : State}
    (h : acc.write = false ∨ e.dirty = true) : touchPage page acc (.cached e c) s = .ok () s := by
  have clean : ¬(acc.write && !e.dirty) = true := by
    rcases h with h | h <;> simp [h]
  rw [touchPage, if_neg clean]
  rfl

/-- The first write through a TLB entry (R246). -/
theorem touchPage_cached_dirty {page : BitVec 20} {user : Bool} {e : TlbEntry} {c : PageChoice} {s u : State} {pde : Word}
    (he : e.dirty = false) (hwf : Mem.wf s.mem = true) (hd : readEntry (pdeAddr s.sys.cr3 page) s = .ok pde u) :
    let pa := (pdeAddr s.sys.cr3 page).toNat
    let ta := (pteAddr pde page).toNat
    pa ≠ ta → regionAt s.regions pa = .ram → regionAt s.regions ta = .ram →
    ∃ t, touchPage page ⟨true, user⟩ (.cached e c) s = .ok () t ∧
      Mem.read t.mem ta = Mem.read s.mem ta ||| 0x40 ∧
      Mem.read t.mem pa = Mem.read s.mem pa ||| (if c.pdeDirty then 0x40 else 0) ∧
      (∀ a, a ≠ pa → a ≠ ta → Mem.read t.mem a = Mem.read s.mem a) ∧
      t.tlb = { u.tlb with entries := tlbPut u.tlb.entries { e with dirty := true } } := by
  intro pa ta hne hpa hta
  obtain ⟨d, rfl⟩ := (drawn_readEntry _).ok hd
  rw [touchPage, if_pos (by simp [he]), run_get_bind]
  dsimp only
  rw [run_bind_ok hd]
  cases c.pdeDirty with
  | true =>
    obtain ⟨hp, ht, hother⟩ := mem_read_setBits_two hwf hne hpa hta 0x40 0x40
    exact ⟨_, rfl, ht, hp, hother, rfl⟩
  | false =>
    refine ⟨_, rfl, mem_read_setBits_same hwf hta _, ?_, fun a _ h => mem_read_setBits_other hwf h _, rfl⟩
    exact (mem_read_setBits_other hwf hne _).trans BitVec.or_zero.symm

/-- Settles O54: the addresses and the error code are computed; a translation is followed through its choice, the TLB and
the two entries, and the bits are set one byte after the other. -/
theorem pageWalksTranslateAndProtect : Obligations.PageWalksTranslateAndProtect := by
  unfold Obligations.PageWalksTranslateAndProtect
  exact ⟨pdeAddr_pageOf, pteAddr_pageOf, pfBits_bits, fun s lin acc c m => translate_follows,
    fun a s v t => sameStore_readEntry, fun s r off n v b t => access_protection,
    fun page acc f pa ta us wr dirty c s => touchPage_walked, fun page acc e c s => touchPage_cached_clean,
    fun page user e c s pde u => touchPage_cached_dirty⟩

end Sys2Proof.Machine
end

section
/-! PROOFS. The data accesses (O53): the segment checks, the physical addresses of the bytes with paging on and off, and the
bytes read and stored. -/

namespace Sys2Proof.Machine

/-! Values and their bytes, the least significant first (R141). -/

theorem byteOf_zero (v : Word) : byteOf v 0 = v.setWidth 8 := by
  apply BitVec.eq_of_getLsbD_eq
  intro j hj
  simp [byteOf, hj]

theorem byteOf_ushiftRight (v : Word) (i : Nat) : byteOf (v >>> 8) i = byteOf v (i + 1) := by
  apply BitVec.eq_of_getLsbD_eq
  intro j hj
  simp only [byteOf, BitVec.getLsbD_extractLsb', BitVec.getLsbD_ushiftRight]
  congr 2
  omega

theorem leBytes_eq (n : Nat) (v : Word) : leBytes n v = (List.range n).map (byteOf v) := by
  induction n generalizing v with
  | zero => rfl
  | succ n ih =>
    rw [leBytes, ih, List.range_succ_eq_map, List.map_cons, List.map_map, byteOf_zero]
    exact congrArg _ (List.map_congr_left fun i _ => byteOf_ushiftRight v i)

theorem byteOf_leValue_head (b : Byte) (bs : List Byte) : byteOf (leValue (b :: bs)) 0 = b := by
  apply BitVec.eq_of_getLsbD_eq
  intro j hj
  simp [byteOf, leValue, hj, show j < 32 by omega]

theorem byteOf_leValue_tail (b : Byte) (bs : List Byte) {i : Nat} (h : i + 1 < 4) :
    byteOf (leValue (b :: bs)) (i + 1) = byteOf (leValue bs) i := by
  apply BitVec.eq_of_getLsbD_eq
  intro j hj
  have low : b.getLsbD (8 * (i + 1) + j) = false := BitVec.getLsbD_of_ge _ _ (by omega)
  have place : 8 * (i + 1) + j - 8 = 8 * i + j := by omega
  simp only [byteOf, leValue, BitVec.getLsbD_extractLsb', BitVec.getLsbD_or, BitVec.getLsbD_setWidth,
    BitVec.getLsbD_shiftLeft, low, place]
  simp [show 8 * (i + 1) + j < 32 by omega, show ¬8 * (i + 1) + j < 8 by omega]

theorem byteOf_leValue {bs : List Byte} {i : Nat} {b : Byte} (hlen : bs.length ≤ 4) (h : bs[i]? = some b) :
    byteOf (leValue bs) i = b := by
  induction bs generalizing i with
  | nil => cases h
  | cons c rest ih =>
    cases i with
    | zero =>
      cases h
      exact byteOf_leValue_head ..
    | succ i =>
      have hi : i < rest.length := Nat.lt_of_succ_lt_succ (List.getElem?_eq_some_iff.mp h).1
      rw [List.length_cons] at hlen
      rw [byteOf_leValue_tail c rest (by omega)]
      exact ih (by omega) h

theorem leValue_lt (bs : List Byte) : (leValue bs).toNat < 2 ^ (8 * bs.length) := by
  induction bs with
  | nil => decide
  | cons b rest ih =>
    rw [leValue, BitVec.toNat_or, List.length_cons]
    apply Nat.or_lt_two_pow
    · rw [BitVec.toNat_setWidth]
      exact (Nat.mod_le ..).trans_lt (b.isLt.trans_le (Nat.pow_le_pow_right (by decide) (by omega)))
    · rw [BitVec.toNat_shiftLeft, Nat.shiftLeft_eq]
      refine (Nat.mod_le ..).trans_lt ?_
      rw [Nat.mul_add, Nat.pow_add]
      exact Nat.mul_lt_mul_of_pos_right ih (by decide)

/-- A value put together from `n` bytes holds just these. -/
theorem leValue_bytes (f : Nat → Byte) {n : Nat} (hn : n ≤ 4) :
    (leValue ((List.range n).map f)).toNat < 2 ^ (8 * n) ∧
      ∀ i, i < n → byteOf (leValue ((List.range n).map f)) i = f i := by
  have len : ((List.range n).map f).length = n := by rw [List.length_map, List.length_range]
  refine ⟨(leValue_lt _).trans_eq (by rw [len]), fun i hi => byteOf_leValue (by rwa [len]) ?_⟩
  rw [List.getElem?_map, List.getElem?_range hi]
  rfl

/-! The segment checks (R170, R171, R200 to R202). -/

theorem inLimit_iff (g : SegReg) (off : Word) (n : Nat) :
    g.inLimit off n = true ↔
      if g.dt = true ∧ g.typ.getLsbD 3 = false ∧ g.typ.getLsbD 2 = true then
        g.limit.toNat < off.toNat ∧ off.toNat + n - 1 ≤ if g.db = true then 0xFFFFFFFF else 0xFFFF
      else off.toNat + n - 1 ≤ g.limit.toNat := by
  have down : g.expandDown = true ↔ g.dt = true ∧ g.typ.getLsbD 3 = false ∧ g.typ.getLsbD 2 = true := by
    simp only [SegReg.expandDown, Bool.and_eq_true, Bool.not_eq_true', and_assoc]
  unfold SegReg.inLimit
  dsimp only
  by_cases h : g.expandDown = true
  · rw [if_pos h, if_pos (down.mp h), Bool.and_eq_true, decide_eq_true_eq, decide_eq_true_eq]
  · rw [if_neg h, if_neg (mt down.mpr h), decide_eq_true_eq]

theorem isCode_iff (g : SegReg) : g.isCode = true ↔ g.dt = true ∧ g.typ.getLsbD 3 = true := by
  rw [SegReg.isCode, Bool.and_eq_true]

theorem segCheck_iff (s : State) (r : SReg) (off : Word) (n : Nat) (w : Bool) :
    segCheck s r off n w = true ↔ SegmentAdmits s r off n w := by
  unfold segCheck SegmentAdmits
  dsimp only
  rw [Bool.and_eq_true, inLimit_iff, ← isCode_iff, ← show (s.seg r).rw = (s.seg r).typ.getLsbD 1 from rfl]
  refine and_congr_left fun _ => ?_
  cases s.isProtected <;> cases w <;> cases (s.seg r).isCode <;> simp

theorem dataPhys_denied {s : State} {r : SReg} {off : Word} {n : Nat} {w : Bool} (h : segCheck s r off n w = false) :
    dataPhys r off n w s = .error (.exc (segFault r)) s := by
  rw [dataPhys, run_get_bind, h]
  exact require_bind_false rfl

/-! The physical addresses of an access (R140, R143, R144, R240). -/

theorem toNat_pageOf (lin : Word) : (pageOf lin).toNat = lin.toNat / 2 ^ 12 := by
  rw [pageOf, toNat_extract]
  have := lin.isLt
  omega

/-- The bytes of an access lie in the page of its first byte or in that of its last. -/
theorem page_first_or_last {lin : Word} {n i : Nat} (hn : n ≤ 4) (hi : i < n) :
    pageOf (lin + BitVec.ofNat 32 i) = pageOf lin ∨
      pageOf (lin + BitVec.ofNat 32 i) = pageOf (lin + BitVec.ofNat 32 (n - 1)) := by
  simp only [← BitVec.toNat_inj, toNat_pageOf, BitVec.toNat_add, BitVec.toNat_ofNat]
  have := lin.isLt
  omega

/-- With paging off a page keeps its number, truncated to 12 bits. -/
theorem frame_of_page (lin : Word) : lin.extractLsb' 12 12 = (pageOf lin).setWidth 12 := by
  apply BitVec.eq_of_toNat_eq
  rw [BitVec.toNat_setWidth, toNat_pageOf, toNat_extract]

theorem pagedAt_frame (lin : Word) (t1 t2 : Trans) (i : Nat) :
    pagedAt lin t1 t2 i
      = (if pageOf (lin + BitVec.ofNat 32 i) = pageOf lin then t1.frame else t2.frame).toNat * 2 ^ 12
        + (lin + BitVec.ofNat 32 i).toNat % 2 ^ 12 := by
  rw [pagedAt, toNat_append_eq, toNat_extract, Nat.pow_zero, Nat.div_one]

theorem pagedAt_lt (lin : Word) (t1 t2 : Trans) (i : Nat) : pagedAt lin t1 t2 i < 2 ^ 24 := BitVec.isLt _

/-- The low twelve bits tell the bytes of an access apart. -/
theorem pagedAt_injective {lin : Word} {t1 t2 : Trans} {i j : Nat} (hi : i < 4) (hj : j < 4)
    (h : pagedAt lin t1 t2 i = pagedAt lin t1 t2 j) : i = j := by
  rw [pagedAt_frame, pagedAt_frame] at h
  simp only [BitVec.toNat_add, BitVec.toNat_ofNat] at h
  omega

/-- The translation of a page with paging off. -/
def directTrans (lin : Word) : Trans := .direct (lin.extractLsb' 12 12)

theorem directTrans_page {lin lin' : Word} (h : pageOf lin = pageOf lin') : directTrans lin = directTrans lin' := by
  rw [directTrans, directTrans, frame_of_page, frame_of_page, h]

theorem pageOf_pageStart (p : BitVec 20) : pageOf (p ++ 0#12) = p := by
  apply BitVec.eq_of_toNat_eq
  rw [toNat_pageOf, toNat_append_eq]
  simp

/-- With paging off the pages of an access are reached as they are. -/
theorem pagesReached_direct {s : State} (hpg : s.sys.cr0.pg = false) (lin : Word) (n : Nat) (acc : Access) :
    PagesReached lin n acc (directTrans lin) (directTrans (lin + BitVec.ofNat 32 (n - 1))) s s := by
  refine ⟨s, s, s, translate_direct hpg lin acc, ?_, rfl, ?_⟩
  · split
    · exact ⟨directTrans_page ‹_›, rfl⟩
    · exact (translate_direct hpg _ acc).trans (by rw [← directTrans, directTrans_page (pageOf_pageStart _)])
  · split <;> rfl

theorem pagedAt_direct {lin : Word} {n i : Nat} (hn : n ≤ 4) (hi : i < n) :
    pagedAt lin (directTrans lin) (directTrans (lin + BitVec.ofNat 32 (n - 1))) i = physAt lin i := by
  have frame : (if pageOf (lin + BitVec.ofNat 32 i) = pageOf lin then directTrans lin
      else directTrans (lin + BitVec.ofNat 32 (n - 1))) = directTrans (lin + BitVec.ofNat 32 i) := by
    split
    · exact directTrans_page (Eq.symm ‹_›)
    · exact directTrans_page ((page_first_or_last hn hi).resolve_left ‹_›).symm
  rw [pagedAt_frame, ← apply_ite Trans.frame, frame, physAt, BitVec.toNat_setWidth, directTrans, Trans.frame, toNat_extract]
  omega

theorem run_translateBoth {lin : Word} {n : Nat} {acc : Access} {t1 t2 : Trans} {s a b : State}
    (h1 : translate lin acc s = .ok t1 a)
    (h2 : if pageOf (lin + BitVec.ofNat 32 (n - 1)) = pageOf lin then t2 = t1 ∧ b = a
      else translate (pageOf (lin + BitVec.ofNat 32 (n - 1)) ++ 0#12) acc a = .ok t2 b) :
    translateBoth lin n acc s = .ok (t1, t2) b := by
  rw [translateBoth, run_bind_ok h1]
  split at h2
  · obtain ⟨rfl, rfl⟩ := h2
    rw [if_pos ‹_›]
    rfl
  · rw [if_neg ‹_›, run_bind_ok h2]
    rfl

theorem run_physFrom {lin : Word} {n : Nat} {acc : Access} {t1 t2 : Trans} {s c u : State}
    (h1 : touchPage (pageOf lin) acc t1 s = .ok () c)
    (h2 : if pageOf (lin + BitVec.ofNat 32 (n - 1)) = pageOf lin then u = c
      else touchPage (pageOf (lin + BitVec.ofNat 32 (n - 1))) acc t2 c = .ok () u) :
    physFrom lin n acc (t1, t2) s = .ok ((List.range n).map (byteAddr lin t1 t2)) u := by
  rw [physFrom, run_bind_ok h1]
  dsimp only
  split at h2
  · subst h2
    rw [if_neg (not_not.mpr ‹_›)]
    rfl
  · rw [if_pos ‹_›, run_bind_ok h2]
    rfl

theorem run_physOf {lin : Word} {n : Nat} {acc : Access} {t1 t2 : Trans} {s u : State}
    (h : PagesReached lin n acc t1 t2 s u) :
    physOf lin n acc s = .ok ((List.range n).map (byteAddr lin t1 t2)) u := by
  obtain ⟨a, b, c, h1, h2, h3, h4⟩ := h
  rw [physOf, run_bind_ok (run_translateBoth h1 h2), run_physFrom h3 h4]

/-- A data access whose segment admits it and whose pages are reached. -/
theorem run_dataPhys {s a u : State} {r : SReg} {off : Word} {n : Nat} {w : Bool} {t1 t2 : Trans}
    (hseg : segCheck s r off n w = true) (hrec : recordHits (s.linear r off) n w s = .ok () a)
    (hpages : PagesReached (s.linear r off) n (s.access w) t1 t2 a u) :
    dataPhys r off n w s = .ok ((List.range n).map (byteAddr (s.linear r off) t1 t2)) u := by
  rw [dataPhys, run_get_bind, require_bind hseg, run_bind_ok hrec, run_physOf hpages]

/-! The bytes read and stored. -/

theorem run_physRead {s : State} {a : BitVec 24} (h : regionAt s.regions a.toNat ≠ .unmapped) :
    physRead a s = .ok (Mem.read s.mem a.toNat) s := by
  rw [physRead]
  cases hr : regionAt s.regions a.toNat with
  | ram => rfl
  | rom => rfl
  | unmapped => exact absurd hr h

theorem run_physReadAll {s : State} {as : List (BitVec 24)} (h : ∀ a ∈ as, regionAt s.regions a.toNat ≠ .unmapped) :
    physReadAll as s = .ok (as.map fun a => Mem.read s.mem a.toNat) s := by
  induction as with
  | nil => rfl
  | cons a rest ih =>
    rw [physReadAll, run_bind_ok (run_physRead (h a List.mem_cons_self)),
      run_bind_ok (ih fun b hb => h b (List.mem_cons_of_mem _ hb))]
    rfl

/-- A stored byte is read back where it was stored, if its address is stored to once and in RAM. -/
theorem mem_read_storeAll_mem {rs : List Region} {cells : List (Nat × Byte)} {m : List Host.Cell} (hwf : Mem.wf m = true)
    (hc : ∀ c ∈ cells, c.1 < 2 ^ 24) (hnd : (cells.map Prod.fst).Nodup) {c : Nat × Byte} (hmem : c ∈ cells)
    (hr : regionAt rs c.1 = .ram) : Mem.read (Mem.storeAll rs cells m) c.1 = c.2 := by
  induction cells generalizing m with
  | nil => cases hmem
  | cons x rest ih =>
    obtain ⟨hx, hnd⟩ := List.nodup_cons.mp hnd
    have hwf' : Mem.wf (Mem.store rs m x.1 x.2) = true := mem_wf_store hwf (hc x List.mem_cons_self) _
    have hrest : ∀ d ∈ rest, d.1 < 2 ^ 24 := fun d hd => hc d (List.mem_cons_of_mem _ hd)
    rcases List.mem_cons.mp hmem with rfl | hmem
    · refine (mem_read_storeAll hwf' hrest (.inl hx)).trans ?_
      rw [Mem.store, hr]
      exact mem_read_write_same hwf ..
    · exact ih hwf' hrest hnd hmem

/-- The cells that a store of `n` bytes writes. -/
def storedCells (lin : Word) (t1 t2 : Trans) (n : Nat) (v : Word) : List (Nat × Byte) :=
  (List.range n).map fun i => (pagedAt lin t1 t2 i, byteOf v i)

theorem storedCells_addr (lin : Word) (t1 t2 : Trans) (n : Nat) (v : Word) :
    (storedCells lin t1 t2 n v).map Prod.fst = (List.range n).map (pagedAt lin t1 t2) := List.map_map ..

theorem storedCells_eq_zip (lin : Word) (t1 t2 : Trans) (n : Nat) (v : Word) :
    (((List.range n).map (byteAddr lin t1 t2)).map BitVec.toNat).zip (leBytes n v) = storedCells lin t1 t2 n v := by
  rw [leBytes_eq, List.map_map, List.zip_map']
  rfl

theorem storedCells_nodup (lin : Word) (t1 t2 : Trans) {n : Nat} (hn : n ≤ 4) (v : Word) :
    ((storedCells lin t1 t2 n v).map Prod.fst).Nodup := by
  rw [storedCells_addr]
  refine List.Nodup.map_on (fun i hi j hj h => ?_) List.nodup_range
  exact pagedAt_injective ((List.mem_range.mp hi).trans_le hn) ((List.mem_range.mp hj).trans_le hn) h

theorem storedCells_inRange (lin : Word) (t1 t2 : Trans) (n : Nat) (v : Word) :
    ∀ c ∈ storedCells lin t1 t2 n v, c.1 < 2 ^ 24 := by
  intro c hc
  obtain ⟨i, -, rfl⟩ := List.mem_map.mp hc
  exact pagedAt_lt ..

section
variable {s a u : State} {r : SReg} {off : Word} {n : Nat} {t1 t2 : Trans}

/-- A read, with paging on or off. -/
theorem readMem_reached (hn : n ≤ 4) (hseg : segCheck s r off n false = true)
    (hrec : recordHits (s.linear r off) n false s = .ok () a)
    (hpages : PagesReached (s.linear r off) n (s.access false) t1 t2 a u)
    (hmap : ∀ i, i < n → regionAt u.regions (pagedAt (s.linear r off) t1 t2 i) ≠ .unmapped) :
    ∃ v, readMem r off n s = .ok v u ∧ v.toNat < 2 ^ (8 * n) ∧
      ∀ i, i < n → byteOf v i = Mem.read u.mem (pagedAt (s.linear r off) t1 t2 i) := by
  have mapped : ∀ x ∈ (List.range n).map (byteAddr (s.linear r off) t1 t2), regionAt u.regions x.toNat ≠ .unmapped := by
    intro x hx
    obtain ⟨i, hi, rfl⟩ := List.mem_map.mp hx
    exact hmap i (List.mem_range.mp hi)
  have reads : physReadAll ((List.range n).map (byteAddr (s.linear r off) t1 t2)) u
      = .ok ((List.range n).map fun i => Mem.read u.mem (pagedAt (s.linear r off) t1 t2 i)) u := by
    rw [run_physReadAll mapped, List.map_map]
    rfl
  obtain ⟨hlt, hbytes⟩ := leValue_bytes (fun i => Mem.read u.mem (pagedAt (s.linear r off) t1 t2 i)) hn
  refine ⟨_, ?_, hlt, hbytes⟩
  rw [readMem, run_bind_ok (run_dataPhys hseg hrec hpages), run_bind_ok reads]
  rfl

/-- A store, with paging on or off: one event on the bus (log entry 62). -/
theorem writeMem_reached (hn : n ≤ 4) (hseg : segCheck s r off n true = true) (hwf : Mem.wf u.mem = true)
    (hrec : recordHits (s.linear r off) n true s = .ok () a)
    (hpages : PagesReached (s.linear r off) n (s.access true) t1 t2 a u)
    (hram : ∀ i, i < n → regionAt u.regions (pagedAt (s.linear r off) t1 t2 i) = .ram) (v : Word) :
    ∃ m, writeMem r off n v s
        = .ok () { u with mem := m, io := .memWrite (storedCells (s.linear r off) t1 t2 n v) :: u.io } ∧
      (∀ i, i < n → Mem.read m (pagedAt (s.linear r off) t1 t2 i) = byteOf v i) ∧
      ∀ a, (∀ i, i < n → a ≠ pagedAt (s.linear r off) t1 t2 i) → Mem.read m a = Mem.read u.mem a := by
  have range := storedCells_inRange (s.linear r off) t1 t2 n v
  refine ⟨Mem.storeAll u.regions (storedCells (s.linear r off) t1 t2 n v) u.mem, ?_, fun i hi => ?_, fun a ha => ?_⟩
  · rw [writeMem, run_bind_ok (run_dataPhys hseg hrec hpages), physWriteAll, run_modify, storedCells_eq_zip]
  · exact mem_read_storeAll_mem hwf range (storedCells_nodup _ _ _ hn v)
      (List.mem_map.mpr ⟨i, List.mem_range.mpr hi, rfl⟩) (hram i hi)
  · refine mem_read_storeAll hwf range (.inl fun hmem => ?_)
    rw [storedCells_addr] at hmem
    obtain ⟨i, hi, rfl⟩ := List.mem_map.mp hmem
    exact ha i (List.mem_range.mp hi) rfl

end

theorem run_recordHits (lin : Word) (n : Nat) (w : Bool) (s : State) :
    ∃ t, recordHits lin n w s = .ok () t ∧ Recorded s t := ⟨_, rfl, _, _, rfl⟩

theorem recorded_keeps {s t : State} (h : Recorded s t) : t.sys = s.sys ∧ t.regions = s.regions ∧ t.mem = s.mem := by
  obtain ⟨_, _, rfl⟩ := h
  exact ⟨rfl, rfl, rfl⟩

section
variable {s : State} {r : SReg} {off : Word} {n : Nat}

/-- With paging off a read is one of the bytes at the linear address, truncated to 24 bits. -/
theorem readMem_direct (hpg : s.sys.cr0.pg = false) (hn : n ≤ 4)
    (hmap : ∀ i, i < n → regionAt s.regions (physAt (s.linear r off) i) ≠ .unmapped)
    (hseg : segCheck s r off n false = true) :
    ∃ v t, readMem r off n s = .ok v t ∧ Recorded s t ∧ v.toNat < 2 ^ (8 * n) ∧
      ∀ i, i < n → byteOf v i = Mem.read s.mem (physAt (s.linear r off) i) := by
  obtain ⟨t, hrec, record⟩ := run_recordHits (s.linear r off) n false s
  obtain ⟨hsys, hregions, hmem⟩ := recorded_keeps record
  have pages := pagesReached_direct (hsys ▸ hpg) (s.linear r off) n (s.access false)
  obtain ⟨v, run, hlt, hbytes⟩ := readMem_reached hn hseg hrec pages fun i hi => by
    rw [pagedAt_direct hn hi, hregions]
    exact hmap i hi
  refine ⟨v, t, run, record, hlt, fun i hi => ?_⟩
  rw [hbytes i hi, pagedAt_direct hn hi, hmem]

theorem storedCells_direct (lin : Word) (hn : n ≤ 4) (v : Word) :
    storedCells lin (directTrans lin) (directTrans (lin + BitVec.ofNat 32 (n - 1))) n v
      = (List.range n).map fun i => (physAt lin i, byteOf v i) :=
  List.map_congr_left fun i hi => by rw [pagedAt_direct hn (List.mem_range.mp hi)]

/-- With paging off a store is one of the bytes at the linear address, truncated to 24 bits. -/
theorem writeMem_direct (hpg : s.sys.cr0.pg = false) (hn : n ≤ 4) (hwf : Mem.wf s.mem = true)
    (hram : ∀ i, i < n → regionAt s.regions (physAt (s.linear r off) i) = .ram)
    (hseg : segCheck s r off n true = true) (v : Word) :
    let cells := (List.range n).map fun i => (physAt (s.linear r off) i, byteOf v i)
    ∃ t m, writeMem r off n v s = .ok () { t with mem := m, io := .memWrite cells :: t.io } ∧ Recorded s t ∧
      (∀ i, i < n → Mem.read m (physAt (s.linear r off) i) = byteOf v i) ∧
      ∀ a, (∀ i, i < n → a ≠ physAt (s.linear r off) i) → Mem.read m a = Mem.read s.mem a := by
  obtain ⟨t, hrec, record⟩ := run_recordHits (s.linear r off) n true s
  obtain ⟨hsys, hregions, hmem⟩ := recorded_keeps record
  have pages := pagesReached_direct (hsys ▸ hpg) (s.linear r off) n (s.access true)
  obtain ⟨m, run, hstored, hother⟩ := writeMem_reached hn hseg (hmem ▸ hwf) hrec pages (fun i hi => by
    rw [pagedAt_direct hn hi, hregions]
    exact hram i hi) v
  rw [storedCells_direct _ hn] at run
  refine ⟨t, m, run, record, fun i hi => ?_, fun a ha => ?_⟩
  · rw [← hstored i hi, pagedAt_direct hn hi]
  · rw [← hmem]
    refine hother a fun i hi => ?_
    rw [pagedAt_direct hn hi]
    exact ha i hi

end

/-- Settles O53: the addresses of an access are those of its pages, with paging off the pages of the linear address itself;
the bytes are read and stored one by one, and a failed check ends the access before anything else. -/
theorem accessesReachTheirBytes : Obligations.AccessesReachTheirBytes := by
  unfold Obligations.AccessesReachTheirBytes
  exact ⟨fun s r off n hpg _ hn => readMem_direct hpg hn,
    fun s r off n v hpg _ hn hwf hram hseg => writeMem_direct hpg hn hwf hram hseg v,
    fun s r off n v => ⟨fun h => run_bind_error (dataPhys_denied h), fun h => run_bind_error (dataPhys_denied h)⟩,
    segCheck_iff, fun s r off n a t1 t2 u _ hn hseg hrec => readMem_reached hn hseg hrec,
    fun s r off n v a t1 t2 u _ hn hseg hwf hrec hpages hram => writeMem_reached hn hseg hwf hrec hpages hram v⟩

end Sys2Proof.Machine
end

section
/-! PROOFS. Decoding takes back what encoding wrote (O47): what each reader of the decoder takes off the front of a string,
the rows of the opcode maps, and the instructions by the shape of their encoding. -/

namespace Sys2Proof

/-! What a reader takes (R320). -/

/-- Of every string that begins with the bytes `bs` the reader takes these and gives `v`. -/
def Reads {α : Type} (d : Dec α) (bs : List Byte) (v : α) : Prop := ∀ rest, d (bs ++ rest) = .ok (v, rest)

section
variable {α β : Type} {o : OSize} {a : ASize} {bs cs : List Byte} {i : Instr}

theorem reads_pure (v : α) : Reads (pure v) [] v := fun _ => rfl

theorem reads_bind {d : Dec α} {f : α → Dec β} {v : α} {w : β} (h : Reads d bs v) (h' : Reads (f v) cs w) :
    Reads (d >>= f) (bs ++ cs) w := fun rest => by
  rw [List.append_assoc]
  show (d (bs ++ (cs ++ rest))).bind _ = _
  rw [h]
  exact h' rest

theorem reads_map {d : Dec α} {v : α} (f : α → β) (h : Reads d bs v) : Reads (f <$> d) bs (f v) := fun rest => by
  show (d (bs ++ rest)).bind _ = _
  rw [h]
  rfl

theorem reads_byte (b : Byte) : Reads byte [b] b := fun _ => rfl

theorem reads_half (v : BitVec 16) : Reads half (halfBytes v) v := half_halfBytes v

theorem reads_word (v : BitVec 32) : Reads word (wordBytes v) v := word_wordBytes v

theorem reads_moffs {p : Moffs} (h : p.fits a = true) : Reads (moffs a) (encMoffs p) p := moffs_encMoffs h

theorem reads_farPtr16 (k : BitVec 16 → BitVec 16 → Instr) (k' : BitVec 16 → BitVec 32 → Instr) (sel off : BitVec 16) :
    Reads (farPtr .o16 k k') (halfBytes off ++ halfBytes sel) (k sel off) :=
  reads_bind (reads_half off) (reads_bind (reads_half sel) (reads_pure _))

theorem reads_farPtr32 (k : BitVec 16 → BitVec 16 → Instr) (k' : BitVec 16 → BitVec 32 → Instr) (sel : BitVec 16)
    (off : BitVec 32) : Reads (farPtr .o32 k k') (wordBytes off ++ halfBytes sel) (k' sel off) :=
  reads_bind (reads_word off) (reads_bind (reads_half sel) (reads_pure _))

/-! Register fields of special and segment registers (R311). -/

theorem reads_crField (cr : CrReg) : Reads (crField cr.num) [] cr := by cases cr <;> exact reads_pure _

theorem reads_drField (dr : DrReg) : Reads (drField dr.num) [] dr := by cases dr <;> exact reads_pure _

theorem reads_trField (tr : TrReg) : Reads (trField tr.num) [] tr := by cases tr <;> exact reads_pure _

theorem reads_sregField (sr : SReg) : Reads (sregField sr.num) [] sr := by cases sr <;> exact reads_pure _

theorem reads_loadableSreg {sr : SReg} (h : sr ≠ .cs) : Reads (loadableSreg sr.num) [] sr := by
  cases sr with
  | cs => exact absurd rfl h
  | es | ss | ds | fs | gs => exact reads_pure _

/-- A ModR/M byte with mod 11 and then what its two fields ask for (R310). -/
theorem reads_special {f : BitVec 3 × Reg → Dec Instr} {n : BitVec 3} {r : Reg} (h : Reads (f (n, r)) [] i) :
    Reads (special >>= f) [modRmByte 3 n r.num] i := by
  have hs : Reads special [modRmByte 3 n r.num] (n, r) := fun rest => by
    obtain ⟨hmod, hreg, hrm⟩ := modRmByte_fields 3 n r.num
    have hmod : (modRmByte 3 n r.num).extractLsb' 6 2 = 3#2 := hmod
    show (if (modRmByte 3 n r.num).extractLsb' 6 2 = 3#2 then _ else _ : Dec _) rest = _
    rw [if_pos hmod, hreg, hrm, regOf_num]
    rfl
  exact reads_bind hs h

/-! A ModR/M operand, and what its reg field asks for after it (R310 to R315). -/

section
variable {k : BitVec 3} {r : Reg} {rm : Rm} {ea : Ea} {f : ModRm → Dec Instr}

theorem reads_modRm (hw : rm.wf = true) (hf : rm.fits a = true) (h : Reads (f ⟨k, rm⟩) cs i) :
    Reads (modRm a >>= f) (encRm k rm ++ cs) i :=
  reads_bind (modRm_encRm hw hf k) h

/-- As `reads_modRm`, where nothing follows the operand. -/
theorem reads_modRm_last (hw : rm.wf = true) (hf : rm.fits a = true) (h : Reads (f ⟨k, rm⟩) [] i) :
    Reads (modRm a >>= f) (encRm k rm) i := by
  simpa using reads_modRm hw hf h

theorem reads_rmReg {k : Rm → Reg → Instr} (hw : rm.wf = true) (hf : rm.fits a = true) :
    Reads (rmReg a k) (encRm r.num rm) (k rm r) := by
  refine reads_modRm_last hw hf ?_
  rw [ModRm.reg, regOf_num]
  exact reads_pure _

theorem reads_regRm {k : Reg → Rm → Instr} (hw : rm.wf = true) (hf : rm.fits a = true) :
    Reads (regRm a k) (encRm r.num rm) (k r rm) :=
  reads_rmReg (k := fun rm r => k r rm) hw hf

theorem reads_rmOnly {k' : Rm → Instr} (hw : rm.wf = true) (hf : rm.fits a = true) :
    Reads (rmOnly a k') (encRm k rm) (k' rm) :=
  reads_modRm_last hw hf (reads_pure _)

theorem reads_memReg {k : Reg → Ea → Instr} (hw : ea.wf = true) (hf : (ea.asize == a) = true) :
    Reads (memReg a k) (encRm r.num (.mem ea)) (k r ea) := by
  refine reads_modRm_last (rm := .mem ea) hw hf ?_
  rw [ModRm.reg, regOf_num]
  exact reads_pure _

end

/-! Opcodes: the row of the map that the first byte or the byte after 0FH selects (R340, R341). -/

section
variable {op : Byte}

theorem reads_opcode {g : Byte → Dec Instr} (hg : oneByte o a = byte >>= g) (h : Reads (g op) bs i) :
    Reads (oneByte o a) (op :: bs) i :=
  hg ▸ reads_bind (reads_byte op) h

theorem reads_escaped {g : Byte → Dec Instr} (hg : twoByte o a = byte >>= g) (h : Reads (g op) bs i) :
    Reads (oneByte o a) (0x0F :: op :: bs) i :=
  have two : Reads (twoByte o a) (op :: bs) i := hg ▸ reads_bind (reads_byte op) h
  reads_opcode rfl two

end

/-- The sizes that an instruction carries are those of the context (R305). -/
theorem size_and_rest {o' : OSize} {b : Bool} (h : (o' == o && b) = true) : o' = o ∧ b = true := by
  simpa using h

/-- The opcodes with digit `n` in bits 5 to 3 and a number below 6 in bits 2 to 0 are the row of an arithmetic or logical
instruction (R340). -/
theorem oneByte_aluRow (n : BitVec 3) {low : BitVec 3} (h : low.toNat < 6) (l : List Byte) :
    oneByte o a ((0#2 ++ n ++ low) :: l) = aluRow (aluDigit n) low o a l :=
  match n with
  | 0#3 | 1#3 | 2#3 | 3#3 | 4#3 | 5#3 | 6#3 | 7#3 =>
    match low with
    | 0#3 | 1#3 | 2#3 | 3#3 | 4#3 | 5#3 => rfl
    | 6#3 | 7#3 => absurd h (by decide)

theorem reads_aluRow {n low : BitVec 3} (h : low.toNat < 6) (hr : Reads (aluRow (aluDigit n) low o a) bs i) :
    Reads (oneByte o a) ((0#2 ++ n ++ low) :: bs) i := fun rest =>
  (oneByte_aluRow n h _).trans (hr rest)

/-- The eleven encodings of an arithmetic or logical instruction (R340). -/
theorem reads_encAlu (n : BitVec 3) {f : AluForm} (hw : f.wf = true) (hf : f.fits o a = true) :
    Reads (oneByte o a) (encAlu n f) (aluDigit n f) := by
  cases f with
  | rm8R8 rm r => exact reads_aluRow (low := 0) (by decide) (reads_rmReg (k := fun rm r => aluDigit n (.rm8R8 rm r)) hw hf)
  | rmvRv o' rm r =>
    obtain ⟨rfl, hrm⟩ := size_and_rest hf
    exact reads_aluRow (low := 1) (by decide) (reads_rmReg (k := fun rm r => aluDigit n (.rmvRv o' rm r)) hw hrm)
  | r8Rm8 r rm => exact reads_aluRow (low := 2) (by decide) (reads_regRm (k := fun r rm => aluDigit n (.r8Rm8 r rm)) hw hf)
  | rvRmv o' r rm =>
    obtain ⟨rfl, hrm⟩ := size_and_rest hf
    exact reads_aluRow (low := 3) (by decide) (reads_regRm (k := fun r rm => aluDigit n (.rvRmv o' r rm)) hw hrm)
  | alImm8 v => exact reads_aluRow (low := 4) (by decide) (reads_map _ (reads_byte v))
  | axImm16 v =>
    obtain rfl := eq_of_beq hf
    exact reads_aluRow (low := 5) (by decide) (reads_map _ (reads_half v))
  | eaxImm32 v =>
    obtain rfl := eq_of_beq hf
    exact reads_aluRow (low := 5) (by decide) (reads_map _ (reads_word v))
  | rm8Imm8 rm v => exact reads_opcode rfl (reads_modRm hw hf fun _ => rfl)
  | rm16Imm16 rm v =>
    obtain ⟨rfl, hrm⟩ := size_and_rest hf
    exact reads_opcode rfl (reads_modRm hw hrm (reads_map _ (reads_half v)))
  | rm32Imm32 rm v =>
    obtain ⟨rfl, hrm⟩ := size_and_rest hf
    exact reads_opcode rfl (reads_modRm hw hrm (reads_map _ (reads_word v)))
  | rmvImm8 o' rm v =>
    obtain ⟨rfl, hrm⟩ := size_and_rest hf
    exact reads_opcode rfl (reads_modRm hw hrm fun _ => rfl)

/-- The six encodings of a shift or rotate; the digit 6 is reserved (R340, R351). -/
theorem reads_encShift {n : BitVec 3} {f : ShiftForm} (hn : n ≠ 6#3) (hw : f.wf = true) (hf : f.fits o a = true) :
    Reads (oneByte o a) (encShift n f) (shiftDigit n f) := by
  match n with
  | 6#3 => exact absurd rfl hn
  | 0#3 | 1#3 | 2#3 | 3#3 | 4#3 | 5#3 | 7#3 =>
    cases f with
    | rm8One rm | rm8Cl rm => exact reads_opcode rfl (reads_modRm_last hw hf (reads_pure _))
    | rm8Imm8 rm v => exact reads_opcode rfl (reads_modRm hw hf fun _ => rfl)
    | rmvOne o' rm | rmvCl o' rm =>
      obtain ⟨rfl, hrm⟩ := size_and_rest hf
      exact reads_opcode rfl (reads_modRm_last hw hrm (reads_pure _))
    | rmvImm8 o' rm v =>
      obtain ⟨rfl, hrm⟩ := size_and_rest hf
      exact reads_opcode rfl (reads_modRm hw hrm fun _ => rfl)

/-- The three encodings of a conditional jump (R330, R340, R341). -/
theorem reads_encJcc {n : BitVec 4} {c : JccForm → Instr} {f : JccForm}
    (hshort : ∀ l, oneByte o a ((7#4 ++ n) :: l) = ((fun d => c (.rel8 o d)) <$> byte) l)
    (hnear : ∀ l, oneByte o a (0x0F#8 :: (8#4 ++ n) :: l) = byImm o (fun d => c (.rel16 d)) (fun d => c (.rel32 d)) l)
    (hf : f.fits o = true) : Reads (oneByte o a) (encJcc n f) (c f) := by
  intro rest
  cases f with
  | rel8 o' d =>
    obtain rfl := eq_of_beq hf
    exact hshort (d :: rest)
  | rel16 d =>
    obtain rfl := eq_of_beq hf
    exact (hnear _).trans (reads_map _ (reads_half d) rest)
  | rel32 d =>
    obtain rfl := eq_of_beq hf
    exact (hnear _).trans (reads_map _ (reads_word d) rest)

/-- A well-formed instruction is what the decoder reads of its encoding (R300 to R341). -/
theorem reads_encode {i : Instr} (hw : i.wf = true) (hf : i.fits o a = true) : Reads (oneByte o a) (encode i) i := by
  cases i
  case add f | or f | adc f | sbb f | and f | sub f | xor f | cmp f => exact reads_encAlu _ hw hf
  case rol f | ror f | rcl f | rcr f | shl f | shr f | sar f => exact reads_encShift (by decide) hw hf
  case jo f | jno f | jb f | jae f | je f | jne f | jbe f | ja f | js f | jns f | jp f | jnp f | jl f | jge f | jle f
      | jg f =>
    exact reads_encJcc (fun _ => rfl) (fun _ => rfl) hf
  -- An r/m operand and a register.
  case movRm8R8 rm r | xchgRm8R8 rm r | testRm8R8 rm r | arpl rm r => exact reads_opcode rfl (reads_rmReg hw hf)
  case movRmvRv o' rm r | xchgRmvRv o' rm r | testRmvRv o' rm r =>
    obtain ⟨rfl, hrm⟩ := size_and_rest hf
    exact reads_opcode rfl (reads_rmReg hw hrm)
  case movR8Rm8 r rm => exact reads_opcode rfl (reads_regRm hw hf)
  case movRvRmv o' r rm =>
    obtain ⟨rfl, hrm⟩ := size_and_rest hf
    exact reads_opcode rfl (reads_regRm hw hrm)
  case btRmvRv o' rm r | btsRmvRv o' rm r | btrRmvRv o' rm r | btcRmvRv o' rm r | shldRmvRvCl o' rm r
      | shrdRmvRvCl o' rm r =>
    obtain ⟨rfl, hrm⟩ := size_and_rest hf
    exact reads_escaped rfl (reads_rmReg hw hrm)
  case movsxRvRm8 o' r rm | movsxRvRm16 o' r rm | movzxRvRm8 o' r rm | movzxRvRm16 o' r rm | imulRvRmv o' r rm
      | bsf o' r rm | bsr o' r rm | lar o' r rm | lsl o' r rm =>
    obtain ⟨rfl, hrm⟩ := size_and_rest hf
    exact reads_escaped rfl (reads_regRm hw hrm)
  case lea o' r ea | lds o' r ea | les o' r ea | bound o' r ea =>
    obtain ⟨rfl, hrm⟩ := size_and_rest hf
    exact reads_opcode rfl (reads_memReg hw hrm)
  case lss o' r ea | lfs o' r ea | lgs o' r ea =>
    obtain ⟨rfl, hrm⟩ := size_and_rest hf
    exact reads_escaped rfl (reads_memReg hw hrm)
  -- An r/m operand, a register and an immediate.
  case imulRvRmvImm8 o' r rm v =>
    obtain ⟨rfl, hrm⟩ := size_and_rest hf
    cases r <;> exact reads_opcode rfl (reads_modRm hw hrm fun _ => rfl)
  case imulR16Rm16Imm16 r rm v =>
    obtain ⟨rfl, hrm⟩ := size_and_rest hf
    cases r <;> exact reads_opcode rfl (reads_modRm hw hrm (reads_map _ (reads_half v)))
  case imulR32Rm32Imm32 r rm v =>
    obtain ⟨rfl, hrm⟩ := size_and_rest hf
    cases r <;> exact reads_opcode rfl (reads_modRm hw hrm (reads_map _ (reads_word v)))
  case shldRmvRvImm8 o' rm r v | shrdRmvRvImm8 o' rm r v =>
    obtain ⟨rfl, hrm⟩ := size_and_rest hf
    cases r <;> exact reads_escaped rfl (reads_modRm hw hrm fun _ => rfl)
  -- An r/m operand behind a digit of the reg field.
  case incRm8 rm | decRm8 rm | notRm8 rm | negRm8 rm | mulRm8 rm | imulRm8 rm | divRm8 rm | idivRm8 rm | escD8 n rm
      | escD9 n rm | escDA n rm | escDB n rm | escDC n rm | escDD n rm | escDE n rm | escDF n rm | reservedF6 rm
      | reservedF7 rm | reservedC0 rm | reservedC1 rm | reservedD0 rm | reservedD1 rm | reservedD2 rm
      | reservedD3 rm =>
    exact reads_opcode rfl (reads_modRm_last hw hf fun _ => rfl)
  case incRmv o' rm | decRmv o' rm | notRmv o' rm | negRmv o' rm | mulRmv o' rm | imulRmv o' rm | divRmv o' rm
      | idivRmv o' rm | pushRmv o' rm | popRmv o' rm | callRmv o' rm | jmpRmv o' rm =>
    obtain ⟨rfl, hrm⟩ := size_and_rest hf
    exact reads_opcode rfl (reads_modRm_last hw hrm fun _ => rfl)
  case callFarM o' ea | jmpFarM o' ea =>
    obtain ⟨rfl, hrm⟩ := size_and_rest hf
    exact reads_opcode rfl (reads_modRm_last (rm := .mem ea) hw hrm fun _ => rfl)
  case sgdt o' ea | sidt o' ea | lgdt o' ea | lidt o' ea =>
    obtain ⟨rfl, hrm⟩ := size_and_rest hf
    exact reads_escaped rfl (reads_modRm_last (rm := .mem ea) hw hrm fun _ => rfl)
  case smsw o' rm | sldt o' rm | str o' rm =>
    obtain ⟨rfl, hrm⟩ := size_and_rest hf
    exact reads_escaped rfl (reads_modRm_last hw hrm fun _ => rfl)
  case lmsw rm | lldt rm | ltr rm | verr rm | verw rm =>
    exact reads_escaped rfl (reads_modRm_last hw hf fun _ => rfl)
  case seto rm | setno rm | setb rm | setae rm | sete rm | setne rm | setbe rm | seta rm | sets rm | setns rm | setp rm
      | setnp rm | setl rm | setge rm | setle rm | setg rm =>
    exact reads_escaped rfl (reads_rmOnly hw hf)
  case movRm8Imm8 rm v | testRm8Imm8 rm v => exact reads_opcode rfl (reads_modRm hw hf fun _ => rfl)
  case movRm16Imm16 rm v | testRm16Imm16 rm v =>
    obtain ⟨rfl, hrm⟩ := size_and_rest hf
    exact reads_opcode rfl (reads_modRm hw hrm (reads_map _ (reads_half v)))
  case movRm32Imm32 rm v | testRm32Imm32 rm v =>
    obtain ⟨rfl, hrm⟩ := size_and_rest hf
    exact reads_opcode rfl (reads_modRm hw hrm (reads_map _ (reads_word v)))
  case btRmvImm8 o' rm v | btsRmvImm8 o' rm v | btrRmvImm8 o' rm v | btcRmvImm8 o' rm v =>
    obtain ⟨rfl, hrm⟩ := size_and_rest hf
    exact reads_escaped rfl (reads_modRm hw hrm fun _ => rfl)
  -- Segment and special registers.
  case movRmvSreg o' rm sr =>
    obtain ⟨rfl, hrm⟩ := size_and_rest hf
    exact reads_opcode rfl (reads_modRm_last hw hrm (reads_bind (reads_sregField sr) (reads_pure _)))
  case movSregRm16 sr rm =>
    obtain ⟨hcs, hrm⟩ : sr ≠ .cs ∧ rm.wf = true := by simpa [Instr.wf] using hw
    exact reads_opcode rfl (reads_modRm_last hrm hf (reads_bind (reads_loadableSreg hcs) (reads_pure _)))
  case movR32Cr r cr | movCrR32 cr r =>
    exact reads_escaped rfl (reads_special (reads_bind (reads_crField cr) (reads_pure _)))
  case movR32Dr r dr | movDrR32 dr r =>
    exact reads_escaped rfl (reads_special (reads_bind (reads_drField dr) (reads_pure _)))
  case movR32Tr r tr | movTrR32 tr r =>
    exact reads_escaped rfl (reads_special (reads_bind (reads_trField tr) (reads_pure _)))
  -- Offsets and immediates.
  case movAlMoffs8 p | movMoffs8Al p => exact reads_opcode rfl (reads_map _ (reads_moffs hf))
  case movAccMoffs o' p | movMoffsAcc o' p =>
    obtain ⟨rfl, hp⟩ := size_and_rest hf
    exact reads_opcode rfl (reads_map _ (reads_moffs hp))
  case movR16Imm16 r v =>
    obtain rfl := eq_of_beq hf
    cases r <;> exact reads_opcode rfl (reads_map _ (reads_half v))
  case movR32Imm32 r v =>
    obtain rfl := eq_of_beq hf
    cases r <;> exact reads_opcode rfl (reads_map _ (reads_word v))
  case pushImm16 v | testAxImm16 v | callRel16 v | jmpRel16 v =>
    obtain rfl := eq_of_beq hf
    exact reads_opcode rfl (reads_map _ (reads_half v))
  case pushImm32 v | testEaxImm32 v | callRel32 v | jmpRel32 v =>
    obtain rfl := eq_of_beq hf
    exact reads_opcode rfl (reads_map _ (reads_word v))
  case callPtr16 sel off | jmpPtr16 sel off =>
    obtain rfl := eq_of_beq hf
    exact reads_opcode rfl (reads_farPtr16 _ _ sel off)
  case callPtr32 sel off | jmpPtr32 sel off =>
    obtain rfl := eq_of_beq hf
    exact reads_opcode rfl (reads_farPtr32 _ _ sel off)
  case retNearImm16 o' v | retFarImm16 o' v =>
    obtain rfl := eq_of_beq hf
    exact reads_opcode rfl (reads_map _ (reads_half v))
  case enter o' n lvl =>
    obtain rfl := eq_of_beq hf
    exact reads_opcode rfl (reads_bind (reads_half n) fun _ => rfl)
  case pushImm8 o' v | inAccImm8 o' v | outImm8Acc o' v | jmpRel8 o' v =>
    obtain rfl := eq_of_beq hf
    exact fun _ => rfl
  case jcxz o' d | jecxz o' d =>
    obtain ⟨ha, ho⟩ := Bool.and_eq_true_iff.mp hf
    obtain rfl := eq_of_beq ha
    obtain rfl := eq_of_beq ho
    exact fun _ => rfl
  case loop o' a' d | loope o' a' d | loopne o' a' d =>
    obtain ⟨rfl, ha⟩ := size_and_rest hf
    obtain rfl := eq_of_beq ha
    exact fun _ => rfl
  case movR8Imm8 r v => cases r <;> exact fun _ => rfl
  case testAlImm8 v | intImm8 v | inAlImm8 v | outImm8Al v => exact fun _ => rfl
  -- A register in the opcode byte.
  case xchgAxR16 r | xchgEaxR32 r =>
    obtain rfl := eq_of_beq hf
    cases r with
    | eax => exact absurd hw (by decide)
    | ecx | edx | ebx | esp | ebp | esi | edi => exact fun _ => rfl
  case popR16 r | popR32 r | pushR16 r | pushR32 r | incR16 r | incR32 r | decR16 r | decR32 r =>
    obtain rfl := eq_of_beq hf
    cases r <;> exact fun _ => rfl
  -- The opcode alone, read under the sizes that the instruction names.
  case movsw a' | movsd a' | cmpsw a' | cmpsd a' | stosw a' | stosd a' | lodsw a' | lodsd a' | scasw a' | scasd a'
      | insw a' | insd a' | outsw a' | outsd a' =>
    obtain ⟨rfl, ha⟩ := size_and_rest hf
    obtain rfl := eq_of_beq ha
    exact fun _ => rfl
  case popDs o' | popEs o' | popSs o' | popFs o' | popGs o' | pushCs o' | pushSs o' | pushDs o' | pushEs o' | pushFs o'
      | pushGs o' | retNear o' | retFar o' | inAccDx o' | outDxAcc o' | leave o' | xlat a' | movsb a' | cmpsb a'
      | stosb a' | lodsb a' | scasb a' | insb a' | outsb a' | cbw | cwde | cwd | cdq | popa | popad | pusha | pushad
      | iret | iretd | popf | popfd | pushf | pushfd =>
    obtain rfl := eq_of_beq hf
    exact fun _ => rfl
  -- The opcode alone, the same under every size.
  all_goals exact fun _ => rfl

end

/-- Settles O47, from `reads_encode`. -/
theorem encodedInstructionDecodesBack : Obligations.EncodedInstructionDecodesBack := fun _ _ _ rest hw hf =>
  reads_encode hw hf rest

/-- Settles O48: the first eight are encodings of well-formed instructions, the last two name no instruction. -/
theorem specWordsDecode : Obligations.SpecWordsDecode :=
  have back {i : Instr} {o : OSize} {a : ASize} (hw : i.wf = true) (hf : i.fits o a = true) :
      decode o a (encode i ++ []) = .ok (i, []) := encodedInstructionDecodesBack i o a [] hw hf
  ⟨back (i := .add (.eaxImm32 0x12345678)) rfl rfl,
    back (i := .movRvRmv .o16 .eax (.mem (.m16 .bp (.d8 0xFE)))) rfl rfl,
    back (i := .movRvRmv .o32 .eax (.mem (.sib 2 .ecx .ebx (.d8 0x10)))) rfl rfl,
    back (i := .shl (.rmvOne .o16 (.reg .eax))) rfl rfl,
    back (i := .je (.rel8 .o16 0xFE)) rfl rfl,
    back (i := .jmpPtr16 0xF000 0xE05B) rfl rfl,
    back (i := .movCrR32 .cr0 .eax) rfl rfl,
    back (i := .btsRmvImm8 .o16 (.reg .ecx) 3) rfl rfl,
    rfl, rfl⟩

end Sys2Proof
end

section
/-! PROOFS. The prefixes (O34): what they do themselves, and what LOCK, F2 and F3 make of the instruction after them. -/

namespace Sys2Proof.Machine

/-- What LOCK, F2 and F3 make of an instruction that LOCK may precede if `mem` and that F2 and F3 may precede if `str`
(R287, R790, D93). -/
structure PrefixesJudged (mem str : Bool) (s : State) (out : StepOut) : Prop where
  locked : s.cur.lock = true → mem = false → out = deliverExc .ud (markPoint s) s
  repeated : s.cur.rep ≠ none → s.cur.lock = false ∨ mem = true → str = false → out = .refused .repeatPrefix

/-! The shared shapes of an instruction. -/

theorem judged_lockable (mem : Bool) (body : M Unit) (s : State) :
    PrefixesJudged mem false s (lockable mem body s) where
  locked hl hm := by
    subst hm
    exact instr_locked hl
  repeated hr hl _ := lockable_repeated hl (Option.isSome_iff_ne_none.mpr hr)

theorem judged_instr (body : M Unit) (s : State) : PrefixesJudged false false s (instr body s) :=
  judged_lockable false body s

theorem judged_stringInstr (body : M Unit) (s : State) : PrefixesJudged false true s (stringInstr body s) where
  locked hl _ := stringInstr_locked hl
  repeated _ _ hs := absurd hs (by decide)

/-- An outcome that comes before that of an instruction only where no prefixes are noted. -/
theorem judged_unless {c : Prop} [Decidable c] {s : State} {early : StepOut} {body : M Unit}
    (hc : c → s.cur.lock = false ∧ s.cur.rep = none) :
    PrefixesJudged false false s (if c then early else instr body s) := by
  obtain ⟨locked, repeated⟩ := judged_instr body s
  split
  · rename_i h
    obtain ⟨hl, hr⟩ := hc h
    exact ⟨fun hlock _ => absurd hlock (by simp [hl]), fun hrep _ _ => absurd hr hrep⟩
  · exact ⟨locked, repeated⟩

theorem judged_pushaOrShut (z : Size) (s : State) : PrefixesJudged false false s (pushaOrShut z s) :=
  judged_unless fun h => by
    simp only [Bool.and_eq_true, Bool.not_eq_true', Option.isNone_iff_eq_none] at h
    obtain ⟨hlr, -⟩ := h
    exact hlr

theorem judged_movDebug (body : M Unit) (s : State) : PrefixesJudged false false s (movDebug body s) :=
  judged_unless fun h => by
    simp only [Bool.and_eq_true, Bool.not_eq_true', Option.isNone_iff_eq_none] at h
    obtain ⟨⟨-, hl⟩, hr⟩ := h
    exact ⟨hl, hr⟩

/-- The destination of an arithmetic or logical encoding, by R790's list and by R260. -/
theorem storesToMem_eq (f : AluForm) : storesToMem f = aluDestMem f := by
  cases f with
  | rm8R8 rm | rmvRv _ rm | rm8Imm8 rm | rm16Imm16 rm | rm32Imm32 rm | rmvImm8 _ rm => cases rm <;> rfl
  | r8Rm8 | rvRmv | alImm8 | axImm16 | eaxImm32 => rfl

theorem judged_aluInstr {op : AluOp} (h : op.stores = true) (f : AluForm) (s : State) :
    PrefixesJudged (storesToMem f) false s (aluInstr op f s) := by
  have hmem : (op.stores && aluDestMem f) = storesToMem f := by rw [h, storesToMem_eq, Bool.true_and]
  exact hmem ▸ judged_lockable (op.stores && aluDestMem f) (aluBody op f) s

/-- Every instruction but the prefixes and the reserved opcodes, by R790's list and the list of string instructions. -/
theorem judged_exec {i : Instr} (hp : isPrefix i = false) (hr : isReserved i = false) (s : State) :
    PrefixesJudged (lockAllowed i) (isString i) s (exec i s) := by
  cases i
  case add | or | adc | sbb | and | sub | xor => exact judged_aluInstr rfl _ s
  case cmp => exact judged_lockable false _ s
  case notRm8 rm | notRmv _ rm | negRm8 rm | negRmv _ rm | incRm8 rm | incRmv _ rm | decRm8 rm | decRmv _ rm
      | xchgRm8R8 rm _ | xchgRmvRv _ rm _ | btsRmvRv _ rm _ | btsRmvImm8 _ rm _ | btrRmvRv _ rm _ | btrRmvImm8 _ rm _
      | btcRmvRv _ rm _ | btcRmvImm8 _ rm _ =>
    cases rm <;> exact judged_lockable _ _ s
  case btRmvRv | btRmvImm8 => exact judged_lockable false _ s
  case pusha | pushad => exact judged_pushaOrShut _ s
  case movR32Dr | movDrR32 => exact judged_movDebug _ s
  case movsb | movsw | movsd | cmpsb | cmpsw | cmpsd | stosb | stosw | stosd | lodsb | lodsw | lodsd | scasb | scasw
      | scasd | insb | insw | insd | outsb | outsw | outsd =>
    exact judged_stringInstr _ s
  case lock | repne | rep | segEs | segCs | segSs | segDs | segFs | segGs | opsize | adsize =>
    cases hp
  case reservedF6 | reservedF7 | reservedC0 | reservedC1 | reservedD0 | reservedD1 | reservedD2 | reservedD3
      | reserved82 | reservedD6 | reservedF1 | reserved0F07 | reserved0F10 | reserved0F11 | reserved0F12
      | reserved0F13 =>
    cases hr
  -- What is left may follow none of LOCK, F2 and F3.
  all_goals exact judged_instr _ s

/-- Settles O34, from `judged_exec`. -/
theorem prefixesAreNoted : Obligations.PrefixesAreNoted := by
  refine ⟨?_, fun i s hlock hallowed hp hr => ?_, fun i s hrep hlock hstr hp hr => ?_⟩
  · exact ⟨fun _ => rfl, fun _ => rfl, fun _ => rfl, fun _ => rfl, fun _ => rfl, fun _ => rfl, fun _ => rfl,
      fun _ => rfl, fun _ => rfl, fun _ => rfl, fun _ => rfl⟩
  · exact (judged_exec hp hr s).locked hlock hallowed
  · exact (judged_exec hp hr s).repeated hrep hlock hstr

end Sys2Proof.Machine
end

section
/-! PROOFS. Moves and exchanges (O1 to O3, O5): the shared shapes of an instruction that loads a register from an
operand, stores in one, or exchanges two. -/

namespace Sys2Proof.Machine

/-! The shared shapes of an instruction. -/

/-- An instruction that uses its readable r/m operand loads what its use of the value makes of the state. -/
theorem loads_of_useRm {i : Instr} {z : Size} {rm : Rm} {g : z.Val → M Unit} {f : State → z.Val → State}
    (hi : ∀ s, exec i s = useRm z rm g s) (hg : ∀ v t, g v t = .ok () (f t v)) : Loads i z rm f :=
  fun s v t hs hr => ⟨readRm_accessed hr, (hi s).trans (useRm_ok hs hr (hg v t))⟩

/-- An instruction whose body comes down to one write at the place of its r/m operand stores the value written. -/
theorem stores_of_write {i : Instr} {z : Size} {rm : Rm} {body : M Unit} {v : State → z.Val}
    (hi : ∀ s, exec i s = instr body s)
    (hbody : ∀ s p, place rm (markPoint s) = .ok p (markPoint s) →
      body (markPoint s) = p.write z (v s) (markPoint s)) : Stores i z rm v := by
  intro s p u t hs hwf hp hw
  obtain rfl := place_same hp
  obtain ⟨written, -⟩ := write_written (s := markPoint s) hwf hw
  exact ⟨rfl, written, (hi s).trans (instr_ok hs ((hbody s p hp).trans hw))⟩

theorem stores_of_storeRm {i : Instr} {z : Size} {rm : Rm} {m : M z.Val} {v : State → z.Val}
    (hi : ∀ s, exec i s = storeRm z rm m s) (hm : ∀ s, m (markPoint s) = .ok (v s) (markPoint s)) :
    Stores i z rm v :=
  stores_of_write hi fun s p hp => by rw [run_bind_ok hp, run_bind_ok (hm s)]

/-! MOV, MOVZX and MOVSX (R404, R406, R407). -/

/-- Settles O1: every form is a `useRm` that writes one register. -/
theorem movesLoadTheirOperand : Obligations.MovesLoadTheirOperand := by
  refine ⟨?_, ?_, ?_, ?_, ?_, ?_⟩ <;> intros <;> exact loads_of_useRm (fun _ => rfl) fun _ _ => rfl

theorem exec_movRmvSreg (o : OSize) (rm : Rm) (sr : SReg) (s : State) :
    exec (.movRmvSreg o rm sr) s = instr (storeWord o rm (gets fun s => (s.seg sr).sel)) s := rfl

/-- Outside the 32-bit register form a stored word is one write at its place. -/
theorem run_storeWord {o : OSize} {rm : Rm} {m : M Half} {s : State} {p : Place} {x : Half}
    (h : o = .o16 ∨ p.isMem = true) (hp : place rm s = .ok p s) (hm : m s = .ok x s) :
    storeWord o rm m s = p.write .w x s := by
  rw [storeWord, run_bind_ok hp, run_bind_ok hm]
  cases p with
  | mem sr off => rfl
  | reg r =>
    obtain rfl := h.resolve_right Bool.false_ne_true
    rfl

/-- Settles O2: the stores of a register or an immediate are `storeRm`, and those of a selector `storeWord`. -/
theorem movesStoreTheirSource : Obligations.MovesStoreTheirSource := by
  refine ⟨?_, ?_, ?_, ?_, ?_, fun rm sr => ?_, fun ea sr => ?_, fun r sr s hs => ?_⟩
  iterate 5
    intros
    exact stores_of_storeRm (fun _ => rfl) fun _ => rfl
  · exact stores_of_write (exec_movRmvSreg .o16 rm sr) fun s p hp => run_storeWord (.inl rfl) hp rfl
  · refine stores_of_write (exec_movRmvSreg .o32 (.mem ea) sr) fun s p hp => run_storeWord (.inr ?_) hp rfl
    obtain ⟨off, u, -, h⟩ := bind_ok hp
    cases h
    rfl
  · exact (exec_movRmvSreg ..).trans (instr_ok hs rfl)

/-! The moves of the accumulator and a direct offset (R404, R320). -/

@[simp] theorem markPoint_dataSeg (s : State) (r : SReg) : (markPoint s).dataSeg r = s.dataSeg r := rfl

theorem run_moffsPlace (p : Moffs) (s : State) :
    moffsPlace p s = .ok (.mem (s.dataSeg .ds) (moffsOff p)) s := by
  cases p <;> rfl

theorem run_readMemPlace {z : Size} {r : SReg} {off v : Word} {s t : State} (h : readMem r off z.bytes s = .ok v t) :
    (Place.mem r off).read z s = .ok (ofWord z v) t :=
  run_bind_ok h

/-- A load of the accumulator from a direct offset. -/
theorem loadsDirect {i : Instr} {z : Size} {p : Moffs} {s t : State} {v : Word}
    (hi : exec i s = instr (do let pl ← moffsPlace p; let v ← pl.read z; writeReg z .eax v) s) (hs : Plain s)
    (h : readMem (s.dataSeg .ds) (moffsOff p) z.bytes (markPoint s) = .ok v t) :
    Accessed (markPoint s) t ∧ Completes i s (setReg t z .eax (ofWord z v)) := by
  refine ⟨(accessed_readMem ..).ok h, hi.trans (instr_ok hs ?_)⟩
  rw [run_bind_ok (run_moffsPlace ..), markPoint_dataSeg, run_bind_ok (run_readMemPlace h)]
  rfl

/-- A store of the accumulator at a direct offset. -/
theorem storesDirect {i : Instr} {z : Size} {p : Moffs} {s t : State}
    (hi : exec i s = instr (do let pl ← moffsPlace p; let v ← readReg z .eax; pl.write z v) s) (hs : Plain s)
    (hwf : Mem.wf s.mem = true)
    (h : writeMem (s.dataSeg .ds) (moffsOff p) z.bytes (toWord z (s.regs.read z .eax)) (markPoint s) = .ok () t) :
    Stored (s.dataSeg .ds) (moffsOff p) z.bytes (markPoint s) t ∧ Completes i s t := by
  obtain ⟨stored, -⟩ := writeMem_stored (s := markPoint s) hwf h
  refine ⟨stored, hi.trans (instr_ok hs ?_)⟩
  rw [run_bind_ok (run_moffsPlace ..), run_bind_ok (run_readReg ..)]
  exact h

/-- Settles O3, from `loadsDirect` and `storesDirect`. -/
theorem directMovesUseTheAccumulator : Obligations.DirectMovesUseTheAccumulator :=
  ⟨fun _ _ _ _ => loadsDirect (z := .b) rfl, fun _ _ _ _ _ => loadsDirect rfl, fun _ _ _ => storesDirect (z := .b) rfl,
    fun _ _ _ _ => storesDirect rfl⟩

/-! XCHG (R408). -/

/-- An exchange at a place, once its parts have run. -/
theorem run_xchgTo {z : Size} {p : Place} {r : Reg} {u v t : State} {a : z.Val} (hr : p.readRmw z u = .ok a v)
    (hw : p.write z (v.regs.read z r) v = .ok () t) : xchgTo z p r u = .ok () (setReg t z r a) := by
  rw [xchgTo, run_bind_ok hr, run_bind_ok (run_readReg ..), run_bind_ok hw]
  rfl

/-- An exchange with an r/m operand, which LOCK may precede where the operand is in memory. -/
theorem exchanges_of_unary {i : Instr} {z : Size} {rm : Rm} {r : Reg}
    (hi : ∀ s, exec i s = unary (fun p => xchgTo z p r) rm s) : Exchanges i z rm r := by
  intro s p u a v t hs hwf hp hr hw
  obtain rfl := place_same hp
  have hacc := (accessed_readRmw z p).ok hr
  have hregs : v.regs = s.regs := by
    obtain ⟨x, -, rfl⟩ := hacc
    rfl
  obtain ⟨written, -⟩ := write_written (accessed_wf hacc hwf) hw
  refine ⟨rfl, hacc, written, (hi s).trans (lockable_ok hs ?_)⟩
  rw [run_bind_ok hp]
  exact run_xchgTo hr (hregs ▸ hw)

/-- Settles O5, from `run_xchgTo` and `exchanges_of_unary`. -/
theorem exchangesSwapTheirOperands : Obligations.ExchangesSwapTheirOperands :=
  ⟨fun _ _ hs => instr_ok hs (run_xchgTo (p := .reg .eax) rfl rfl),
    fun _ _ hs => instr_ok hs (run_xchgTo (p := .reg .eax) rfl rfl),
    fun _ _ => exchanges_of_unary fun _ => rfl, fun _ _ _ => exchanges_of_unary fun _ => rfl⟩

end Sys2Proof.Machine
end

section
/-! PROOFS. Effective addresses, and the instructions that change one register (O4). -/

namespace Sys2Proof.Machine

/-! Effective addresses as whole numbers (R312 to R315): every register and every displacement is the bit vector of its
number, and bit vectors of numbers add as the numbers do. -/

theorem ofInt_toNat {n : Nat} (x : BitVec n) : BitVec.ofInt n x.toNat = x := by
  rw [BitVec.ofInt_natCast, BitVec.ofNat_toNat, BitVec.setWidth_eq]

theorem toNat_ofInt_emod (n : Nat) (k : Int) : ((BitVec.ofInt n k).toNat : Int) = k % 2 ^ n := by
  have pos : (0 : Int) < 2 ^ n := Int.pow_pos (by decide)
  rw [BitVec.toNat_ofInt, Int.toNat_of_nonneg (Int.emod_nonneg _ (by exact_mod_cast pos.ne'))]
  norm_cast

theorem ofInt_disp16 (d : Disp16) : BitVec.ofInt 16 (disp16Int d) = disp16Val d := by
  cases d with
  | none => rfl
  | d8 v => rfl
  | d16 v => exact BitVec.ofInt_toInt

theorem ofInt_disp32 (d : Disp32) : BitVec.ofInt 32 (disp32Int d) = disp32Val d := by
  cases d with
  | none => rfl
  | d8 v => rfl
  | d32 v => exact BitVec.ofInt_toInt

theorem ofInt_scaledIndex (g : Regs) (ss : BitVec 2) (x : Reg) :
    BitVec.ofInt 32 (scaledIndex g ss x) = indexVal g ss x := by
  rw [scaledIndex, indexVal]
  split
  · rfl
  · apply BitVec.eq_of_toNat_eq
    rw [BitVec.ofInt_natCast, BitVec.toNat_ofNat, BitVec.toNat_shiftLeft, Nat.shiftLeft_eq]

theorem ofInt_low16 (v : Word) : BitVec.ofInt 16 ((v.toNat % 2 ^ 16 : Nat) : Int) = v.setWidth 16 := by
  apply BitVec.eq_of_toNat_eq
  rw [BitVec.ofInt_natCast, BitVec.toNat_ofNat, BitVec.toNat_setWidth, Nat.mod_mod]

theorem ofInt_regs16 (g : Regs) (b : Base16) :
    BitVec.ofInt 16 (((eaRegs16 b).map fun r => (g.get r).toNat % 2 ^ 16).sum : Nat) = base16Val g b := by
  cases b <;> simp only [eaRegs16, List.map_cons, List.map_nil, List.sum_cons, List.sum_nil, Nat.add_zero,
    Int.natCast_add, BitVec.ofInt_add, ofInt_low16] <;> rfl

/-- An effective address is its sum, wrapped at the address size. -/
theorem eaVal_eq_ofInt (g : Regs) (e : Ea) : eaVal g e = (BitVec.ofInt (eaBits e) (eaSum g e)).setWidth 32 := by
  cases e with
  | m16 b d => rw [eaVal, eaBits, eaSum, BitVec.ofInt_add, ofInt_regs16, ofInt_disp16]
  | abs16 d => rw [eaVal, eaBits, eaSum, ofInt_toNat]
  | m32 b d => rw [eaVal, eaBits, eaSum, BitVec.ofInt_add, ofInt_toNat, ofInt_disp32, BitVec.setWidth_eq]
  | abs32 d => rw [eaVal, eaBits, eaSum, ofInt_toNat, BitVec.setWidth_eq]
  | sib ss x b d =>
    rw [eaVal, eaBits, eaSum, BitVec.ofInt_add, BitVec.ofInt_add, ofInt_toNat, ofInt_scaledIndex, ofInt_disp32,
      BitVec.setWidth_eq]
  | sibAbs ss x d => rw [eaVal, eaBits, eaSum, BitVec.ofInt_add, ofInt_scaledIndex, ofInt_toNat, BitVec.setWidth_eq]

theorem eaBits_le (e : Ea) : eaBits e ≤ 32 := by
  cases e <;> simp [eaBits]

theorem toNat_eaVal (g : Regs) (e : Ea) : ((eaVal g e).toNat : Int) = eaSum g e % 2 ^ eaBits e := by
  rw [eaVal_eq_ofInt, BitVec.toNat_setWidth_of_le (eaBits_le e), toNat_ofInt_emod]

/-! Where a memory operand lies (R286, R313, R315). -/

theorem eaSeg_eq (e : Ea) : eaSeg e = if .ebp ∈ eaBases e ∨ .esp ∈ eaBases e then .ss else .ds := by
  cases e with
  | m16 b d => cases b <;> rfl
  | m32 b d | sib _ _ b d => cases b <;> rfl
  | abs16 | abs32 | sibAbs => rfl

theorem dataSeg_eaSeg (s : State) (e : Ea) : s.dataSeg (eaSeg e) = operandSeg s e := by
  rw [eaSeg_eq]
  rfl

theorem run_effAddr {e : Ea} (h : eaUndefined e = false) (s : State) : effAddr e s = .ok (eaVal s.regs e) s := by
  rw [effAddr, h]
  rfl

theorem effAddr_undefined {e : Ea} (h : eaUndefined e = true) (s : State) :
    effAddr e s = .error (.refuse .sibIndex) s := by
  rw [effAddr, h]
  rfl

theorem run_place_mem {e : Ea} (h : eaUndefined e = false) (s : State) :
    place (.mem e) s = .ok (.mem (operandSeg s e) (eaVal s.regs e)) s := by
  rw [place, eaPlace, run_bind_ok (run_effAddr h s), run_get_bind, dataSeg_eaSeg]
  rfl

theorem addressesAreSums : AddressesAreSums := ⟨toNat_eaVal, fun s _ h => run_place_mem h s⟩

/-! CWD and CDQ (R401): the sign of a number, as the quotient of a division that rounds toward negative infinity. -/

theorem signFill_eq {n : Nat} (v : BitVec n) :
    (if v.msb then BitVec.allOnes n else 0#n) = BitVec.ofInt n (v.toInt / 2 ^ n) := by
  have range : (v.toNat : Int) < 2 ^ n := by exact_mod_cast v.isLt
  have small : (v.toNat : Int) / 2 ^ n = 0 := Int.ediv_eq_zero_of_lt (Int.natCast_nonneg _) range
  have pos : (2 : Int) ^ n ≠ 0 := (Int.pow_pos (by decide)).ne'
  rw [BitVec.toInt_eq_msb_cond]
  split
  · have minus : ((v.toNat : Int) - (2 ^ n : Nat)) / 2 ^ n = -1 := by
      push_cast
      rw [Int.sub_ediv_of_dvd _ (dvd_refl _), small, Int.ediv_self pos]
      rfl
    rw [minus, BitVec.ofInt_neg, ← BitVec.neg_one_eq_allOnes]
    rfl
  · rw [small]
    rfl

/-- Settles O4: each body is one write of a register, and the address of LEA is computed or refused before it. -/
theorem registerMovesChangeOneRegister : Obligations.RegisterMovesChangeOneRegister := by
  refine ⟨addressesAreSums, fun s hs => ⟨fun _ _ => instr_ok hs rfl, fun _ _ => instr_ok hs rfl,
    fun _ _ => instr_ok hs rfl, instr_ok hs rfl, instr_ok hs rfl, ?_, ?_, fun o r ea h => ?_, fun o r ea h => ⟨?_, ?_⟩⟩⟩
  · exact signFill_eq (s.regs.read .w .eax) ▸ instr_ok hs rfl
  · exact signFill_eq s.regs.eax ▸ instr_ok hs rfl
  · exact instr_ok hs (run_bind_ok (run_effAddr h _))
  · exact instr_refused hs (run_bind_error (effAddr_undefined h _))
  · exact effAddr_undefined h s

end Sys2Proof.Machine
end

section
/-! PROOFS. The stack (O6 to O8): where a push and a pop find their item, by the B bit of SS, and the instructions that
push and pop. -/

namespace Sys2Proof.Machine

/-! The stack pointer in whole numbers (R405). -/

theorem toNat_add_ofInt (x : Word) (k : Int) : ((x + BitVec.ofInt 32 k).toNat : Int) = (x.toNat + k) % 2 ^ 32 := by
  rw [← toNat_ofInt_emod, BitVec.ofInt_add, ofInt_toNat]

theorem toNat_stackOff (s : State) (k : Int) :
    ((stackOff s.stackSize (s.regs.esp + BitVec.ofInt 32 k)).toNat : Int) = spOff s k := by
  have wide := toNat_add_ofInt s.regs.esp k
  cases hb : s.segs.ss.db with
  | true => simpa [State.stackSize, spOff, hb, stackOff] using wide
  | false =>
    simp only [State.stackSize, spOff, hb, stackOff, Bool.false_eq_true, if_false, BitVec.toNat_setWidth]
    omega

theorem toNat_withSp (s : State) (k : Int) :
    ((withSp s.stackSize s.regs.esp (s.regs.esp + BitVec.ofInt 32 k)).toNat : Int)
      = ((if s.segs.ss.db = true then 0 else s.regs.esp.toNat / 2 ^ 16 * 2 ^ 16) : Nat) + spOff s k := by
  have wide := toNat_add_ofInt s.regs.esp k
  cases hb : s.segs.ss.db with
  | true => simpa [State.stackSize, spOff, hb, withSp] using wide
  | false =>
    have := s.regs.esp.isLt
    simp only [State.stackSize, spOff, hb, withSp, Bool.false_eq_true, if_false, toNat_append_eq, toNat_extract]
    omega

/-- A word is determined by its number. -/
theorem toNat_eq_iff {x y : Word} {k : Int} (h : (y.toNat : Int) = k) : (x.toNat : Int) = k ↔ x = y := by
  rw [← h, Int.natCast_inj, BitVec.toNat_inj]

theorem spMoved_iff (k : Int) (s t : State) : SpMoved k s t ↔ t = atSp s (s.regs.esp + BitVec.ofInt 32 k) := by
  simp only [SpMoved, toNat_eq_iff (toNat_withSp s k), exists_eq_left]
  rfl

/-! Pushes and pops as their memory access and the move of the stack pointer (R405). -/

theorem readMem_regs {r : SReg} {off : Word} {n : Nat} {s t : State} {v : Word} (h : readMem r off n s = .ok v t) :
    t.regs = s.regs := by
  obtain ⟨x, -, rfl⟩ := (accessed_readMem r off n).ok h
  rfl

theorem writeMem_regs {r : SReg} {off : Word} {n : Nat} {v : Word} {s t : State} (h : writeMem r off n v s = .ok () t) :
    t.regs = s.regs := by
  obtain ⟨as, u, hphys, h⟩ := bind_ok h
  obtain ⟨x, -, rfl⟩ := (accessed_dataPhys r off n true).ok hphys
  cases h
  rfl

theorem push_ok_iff {z : Size} {v : Word} {s t : State} :
    push z v s = .ok () t ↔
      ∃ u, writeMem .ss (stackOff s.stackSize (s.regs.esp - BitVec.ofNat 32 z.bytes)) z.bytes v s = .ok () u ∧
        t = atSp u (s.regs.esp - BitVec.ofNat 32 z.bytes) := by
  rw [push, run_get_bind]
  constructor
  · intro h
    obtain ⟨_, u, hw, h⟩ := bind_ok h
    cases h
    exact ⟨u, hw, rfl⟩
  · rintro ⟨u, hw, rfl⟩
    exact run_bind_ok hw

theorem pop_ok_iff {z : Size} {v : Word} {s t : State} :
    pop z s = .ok v t ↔
      ∃ u, readMem .ss (stackOff s.stackSize s.regs.esp) z.bytes s = .ok v u ∧
        t = atSp u (s.regs.esp + BitVec.ofNat 32 z.bytes) := by
  rw [pop, run_get_bind]
  constructor
  · intro h
    obtain ⟨w, u, hr, h⟩ := bind_ok h
    cases h
    exact ⟨u, hr, rfl⟩
  · rintro ⟨u, hr, rfl⟩
    exact run_bind_ok hr

theorem pushWritesBelow : PushWritesBelow := by
  intro z v s t
  have below : s.regs.esp - BitVec.ofNat 32 z.bytes = s.regs.esp + BitVec.ofInt 32 (-z.bytes) := by
    rw [BitVec.ofInt_neg, BitVec.ofInt_natCast, BitVec.sub_eq_add_neg]
  simp only [push_ok_iff, below, toNat_eq_iff (toNat_stackOff s _), exists_eq_left, spMoved_iff]
  refine exists_congr fun u => and_congr_right fun hw => ?_
  rw [writeMem_regs hw]

theorem popReadsTheTop : PopReadsTheTop := by
  intro z v s t
  have top : s.regs.esp + BitVec.ofInt 32 0 = s.regs.esp := BitVec.add_zero _
  simp only [pop_ok_iff, toNat_eq_iff (toNat_stackOff s _), top, exists_eq_left, spMoved_iff]
  refine exists_congr fun u => and_congr_right fun hr => ?_
  rw [readMem_regs hr, BitVec.ofInt_natCast]

/-! The shared shapes of a push (R411). -/

/-- An instruction whose body comes down to one push. -/
theorem pushes_of_push {i : Instr} {z : Size} {d : Nat} {v : State → Word} {body : M Unit}
    (hi : ∀ s, exec i s = instr body s)
    (hbody : ∀ s, body (markPoint s) = push z (v s) { markPoint s with draws := s.draws + d }) : Pushes i z d v := by
  intro s t hs hwf h
  obtain ⟨pushed, -⟩ := push_pushed (s := { markPoint s with draws := s.draws + d }) hwf h
  exact ⟨pushed, (hi s).trans (instr_ok hs ((hbody s).trans h))⟩

theorem pushes_of_pushSeg {i : Instr} {o : OSize} {r : SReg} (hi : ∀ s, exec i s = pushSeg r o s) :
    Pushes i o.size 1 (padded o.size r) :=
  pushes_of_push hi fun _ => rfl

/-- PUSHF, PUSHFD, POPF and POPFD go on where virtual-8086 mode has IOPL 3 (R772, R773). -/
theorem run_needIopl3 {s : State} (h : s.isV86 = true → s.flags.iopl = 3) : needIopl3 s = .ok () s := by
  rw [needIopl3, run_get_bind]
  cases hv : s.isV86 with
  | false => rfl
  | true =>
    rw [h hv]
    rfl

/-- Settles O6: the forms with one source are one push, PUSH r/m reads its operand first, and PUSHF and PUSHFD push
their image once virtual-8086 mode admits them. -/
theorem pushesStoreTheirOperand : Obligations.PushesStoreTheirOperand := by
  refine ⟨pushWritesBelow, ?_, ?_, ?_, ?_, ?_, ?_, ?_, ?_, ?_, ?_, ?_, fun o rm s v u t hs hwf hr hp => ?_,
    fun s t hs hwf hiopl hp => ?_, fun s t hs hwf hiopl hp => ?_⟩
  iterate 5
    intros
    exact pushes_of_push (fun _ => rfl) fun _ => rfl
  iterate 6
    intro o
    exact pushes_of_pushSeg fun _ => rfl
  · have hacc := readRm_accessed hr
    obtain ⟨pushed, -⟩ := push_pushed (accessed_wf hacc hwf) hp
    exact ⟨hacc, pushed, useRm_ok hs hr hp⟩
  · obtain ⟨pushed, -⟩ := push_pushed (s := markPoint s) hwf hp
    exact ⟨pushed, instr_ok hs ((run_bind_ok (run_needIopl3 (s := markPoint s) hiopl)).trans hp)⟩
  · obtain ⟨pushed, -⟩ := push_pushed (s := { markPoint s with draws := s.draws + 2 }) hwf hp
    exact ⟨pushed, instr_ok hs ((run_bind_ok (run_needIopl3 (s := markPoint s) hiopl)).trans hp)⟩

/-! The shared shapes of a pop (R409, R772). -/

theorem pops_of_popReg {i : Instr} {z : Size} {r : Reg} (hi : ∀ s, exec i s = popReg z r s) :
    Pops i z fun t v => setReg t z r (ofWord z v) :=
  fun s _ _ hs h => ⟨pop_popped h, (hi s).trans (instr_ok hs (run_bind_ok h))⟩

theorem run_inhibitAfter (r : SReg) (s : State) : inhibitAfter r s = .ok () (inhibited r s) := by
  rw [inhibitAfter, inhibited]
  split <;> rfl

theorem popsSeg_of_popSeg {i : Instr} {o : OSize} {r : SReg} (hi : ∀ s, exec i s = popSeg r o s) :
    PopsSeg i o.size r := by
  intro s v u t hs hp hl
  refine ⟨pop_popped hp, loadSeg_loaded hl, (hi s).trans (instr_ok hs ?_)⟩
  rw [run_bind_ok hp, run_bind_ok hl, run_inhibitAfter]

/-- What a pop leaves loads the same flags as the state before it. -/
theorem loadedFlags_popped {z : Size} {s t : State} (h : Popped z s t) (v : Word) :
    loadedFlags t v = loadedFlags s v := by
  obtain ⟨u, ⟨x, -, rfl⟩, rfl⟩ := h
  rfl

theorem popped_wf {z : Size} {s t : State} (h : Popped z s t) (hwf : Mem.wf s.mem = true) : Mem.wf t.mem = true := by
  obtain ⟨u, hacc, rfl⟩ := h
  rw [atSp_mem]
  exact accessed_wf hacc hwf

theorem completes_popf {i : Instr} {z : Size} {s t : State} {v : Word} (hi : exec i s = instr (popfBody z) s)
    (hs : Plain s) (hiopl : s.isV86 = true → s.flags.iopl = 3) (h : pop z (markPoint s) = .ok v t) :
    Popped z (markPoint s) t ∧
      Completes i s { t with flags := loadedFlags s v, cur := { t.cur with keepRf := true } } := by
  have popped := pop_popped h
  refine ⟨popped, hi.trans (instr_ok hs ?_)⟩
  rw [popfBody, run_bind_ok (run_needIopl3 (s := markPoint s) hiopl), run_bind_ok h, run_modify_bind,
    loadedFlags_popped popped]
  rfl

/-- Settles O7: the registers, the segment registers and the flags by the shapes above; POP r/m finds its place in the
state that the pop leaves. -/
theorem popsWriteTheirDestination : Obligations.PopsWriteTheirDestination := by
  refine ⟨popReadsTheTop, fun _ => pops_of_popReg fun _ => rfl, fun _ => pops_of_popReg fun _ => rfl,
    fun o rm s v u p w t hs hwf hpop hp hw => ?_, ?_, ?_, ?_, ?_, ?_, fun _ _ _ => completes_popf rfl,
    fun _ _ _ => completes_popf rfl⟩
  case refine_2 | refine_3 | refine_4 | refine_5 | refine_6 => exact fun _ => popsSeg_of_popSeg fun _ => rfl
  obtain rfl := place_same hp
  have popped := pop_popped hpop
  obtain ⟨written, -⟩ := write_written (popped_wf popped hwf) hw
  refine ⟨popped, rfl, written, instr_ok hs ?_⟩
  rw [run_bind_ok hpop, writeRm, run_bind_ok hp]
  exact hw

/-! PUSHA and POPA (R410, R412). -/

theorem run_pushAll {z : Size} {vs : List Word} {s t : State} (h : PushChain z vs s t) : pushAll z vs s = .ok () t := by
  induction vs generalizing s with
  | nil =>
    obtain rfl := h
    rfl
  | cons v rest ih =>
    obtain ⟨u, hp, hrest⟩ := h
    rw [pushAll, run_bind_ok hp, ih hrest]

theorem pushed_of_pushChain {z : Size} {vs : List Word} {s t : State} (hwf : Mem.wf s.mem = true)
    (h : PushChain z vs s t) : PushedChain z vs.length s t := by
  induction vs generalizing s with
  | nil => exact h
  | cons v rest ih =>
    obtain ⟨u, hp, hrest⟩ := h
    obtain ⟨pushed, hwf'⟩ := push_pushed hwf hp
    exact ⟨u, pushed, ih hwf' hrest⟩

/-- The offset of the stack pointer at which PUSHA begins. -/
abbrev spNow (s : State) : Word := stackOff s.stackSize s.regs.esp

theorem pushaOdd_iff (sp : Word) : pushaOdd sp = true ↔ sp = 7 ∨ sp = 9 ∨ sp = 11 ∨ sp = 13 ∨ sp = 15 := by
  simp [pushaOdd, or_assoc]

theorem pushaShuts_iff (s : State) :
    pushaShuts s = true ↔ s.isProtected = false ∧ (spNow s = 1 ∨ spNow s = 3 ∨ spNow s = 5) := by
  simp [pushaShuts, or_assoc]

/-- The stack pointers that PUSHA does not admit outside protected mode are the odd ones below 16. -/
theorem pusha_odd_below {sp : Word} (h : ¬(sp.toNat < 16 ∧ sp.toNat % 2 = 1)) :
    pushaOdd sp = false ∧ ¬(sp = 1 ∨ sp = 3 ∨ sp = 5) := by
  rw [← Bool.not_eq_true, pushaOdd_iff]
  constructor <;> rintro (rfl | rfl | rfl | rfl | rfl) <;> exact h ⟨by decide, by decide⟩

theorem not_shut_of_odd {sp : Word} (h : sp = 7 ∨ sp = 9 ∨ sp = 11 ∨ sp = 13 ∨ sp = 15) :
    ¬(sp = 1 ∨ sp = 3 ∨ sp = 5) := by
  rcases h with rfl | rfl | rfl | rfl | rfl <;> decide

theorem pushaOrShut_run {z : Size} {s : State} (h : ¬pushaShuts s = true) :
    pushaOrShut z s = instr (pushaBody z) s := by
  rw [pushaOrShut, Bool.eq_false_of_not_eq_true h, Bool.and_false]
  rfl

theorem pushaOrShut_shuts {z : Size} {s : State} (hs : Plain s) (h : pushaShuts s = true) :
    pushaOrShut z s
      = .next (enterShutdown { s with eip := s.cur.start, cur := { s.cur with stage := .excepted } }) := by
  obtain ⟨hl, hr⟩ := hs
  simp [pushaOrShut, hl, hr, h]

theorem run_pushaBody {z : Size} {s t : State} (hsp : s.isProtected = true ∨ pushaOdd (spNow s) = false)
    (h : PushChain z [s.regs.eax, s.regs.ecx, s.regs.edx, s.regs.ebx, s.regs.esp, s.regs.ebp, s.regs.esi, s.regs.edi] s
      t) : pushaBody z s = .ok () t := by
  rw [pushaBody, run_get_bind, require_bind (by simpa using hsp)]
  exact run_pushAll h

theorem pushaBody_odd {z : Size} {s : State} (hp : s.isProtected = false) (hsp : pushaOdd (spNow s) = true) :
    pushaBody z s = .error (.exc (.gp 0)) s := by
  rw [pushaBody, run_get_bind, hp, hsp]
  rfl

theorem pushesAll_of_pushaOrShut {i : Instr} {z : Size} (hi : ∀ s, exec i s = pushaOrShut z s) : PushesAll i z := by
  intro s hs
  refine ⟨fun t hwf hsp h => ⟨pushed_of_pushChain (s := markPoint s) hwf h, ?_⟩, fun hp hsp => ?_, fun hp hsp => ?_⟩
  · have noShut : ¬pushaShuts s = true := by
      rw [pushaShuts_iff]
      rintro ⟨hp, hshut⟩
      exact (pusha_odd_below (hsp.resolve_left (by simp [hp]))).2 hshut
    have run : pushaBody z (markPoint s) = .ok () t :=
      run_pushaBody (s := markPoint s) (hsp.imp_right fun h => (pusha_odd_below h).1) h
    exact (hi s).trans ((pushaOrShut_run noShut).trans (instr_ok hs run))
  · exact ⟨_, (hi s).trans (pushaOrShut_shuts hs ((pushaShuts_iff s).mpr ⟨hp, hsp⟩)), rfl, rfl, rfl, rfl, rfl⟩
  · have noShut : ¬pushaShuts s = true := by
      rw [pushaShuts_iff]
      rintro ⟨-, hshut⟩
      exact not_shut_of_odd hsp hshut
    have run : pushaBody z (markPoint s) = .error (.exc (.gp 0)) (markPoint s) :=
      pushaBody_odd (s := markPoint s) hp ((pushaOdd_iff _).mpr hsp)
    exact (hi s).trans ((pushaOrShut_run noShut).trans (instr_exc hs run))

theorem popsAll_of_popaBody {i : Instr} {z : Size} (hi : ∀ s, exec i s = instr (popaBody z) s) : PopsAll i z := by
  intro s t di si bp x bx dx cx ax hs h
  refine ⟨popped_of_popChain h, (hi s).trans (instr_ok hs ?_)⟩
  obtain ⟨_, hdi, _, hsi, _, hbp, _, hx, _, hbx, _, hdx, _, hcx, _, hax, rfl⟩ := h
  rw [popaBody, run_bind_ok hdi, run_bind_ok hsi, run_bind_ok hbp, run_bind_ok hx, run_bind_ok hbx, run_bind_ok hdx,
    run_bind_ok hcx, run_bind_ok hax]
  rfl

/-- Settles O8, from the chains of pushes and pops. -/
theorem pushaAndPopaMoveAllRegisters : Obligations.PushaAndPopaMoveAllRegisters :=
  ⟨pushesAll_of_pushaOrShut fun _ => rfl, pushesAll_of_pushaOrShut fun _ => rfl, popsAll_of_popaBody fun _ => rfl,
    popsAll_of_popaBody fun _ => rfl⟩

end Sys2Proof.Machine
end

section
/-! PROOFS. The loads of segment registers by MOV and by full pointers, and XLAT (O9). -/

namespace Sys2Proof.Machine

/-! Full pointers in memory (R403). -/

theorem readFarPtr_undefined {e : Ea} (h : eaUndefined e = true) (z : Size) (s : State) :
    readFarPtr z e s = .error (.refuse .sibIndex) s :=
  run_bind_error (effAddr_undefined h s)

/-- A full pointer at a defined address is read as its offset and then its selector. -/
theorem run_readFarPtr {e : Ea} (h : eaUndefined e = false) (z : Size) (s : State) :
    readFarPtr z e s = (do
      let v ← readMem (operandSeg s e) (eaVal s.regs e) z.bytes
      let sel ← readMem (operandSeg s e) (eaVal s.regs e + BitVec.ofNat 32 z.bytes) 2
      return (v, sel.setWidth 16) : M (Word × Half)) s := by
  rw [readFarPtr, run_bind_ok (run_effAddr h s), run_get_bind, dataSeg_eaSeg]

theorem farPointerInMemory : FarPointerInMemory := by
  intro z ea s off sel t
  cases hu : eaUndefined ea with
  | true => simp [readFarPtr_undefined hu]
  | false =>
    rw [run_readFarPtr hu]
    constructor
    · intro h
      obtain ⟨v, u, hoff, h⟩ := bind_ok h
      obtain ⟨w, x, hsel, h⟩ := bind_ok h
      cases h
      exact ⟨rfl, u, w, hoff, hsel, rfl⟩
    · rintro ⟨-, u, w, hoff, hsel, rfl⟩
      rw [run_bind_ok hoff, run_bind_ok hsel]
      rfl

theorem accessed_readFarPtr {z : Size} {ea : Ea} {s t : State} {off : Word} {sel : Half}
    (h : readFarPtr z ea s = .ok (off, sel) t) : Accessed s t := by
  obtain ⟨-, u, w, hoff, hsel, -⟩ := (farPointerInMemory ..).mp h
  exact accessed_trans ((accessed_readMem ..).ok hoff) ((accessed_readMem ..).ok hsel)

/-- LDS, LES, LSS, LFS and LGS. -/
theorem loadsPointer_of_loadPointer {i : Instr} {sr : SReg} {o : OSize} {r : Reg} {ea : Ea}
    (hi : ∀ s, exec i s = loadPointer sr o r ea s) : LoadsPointer i sr o r ea := by
  intro s off sel u t hs hr hl
  refine ⟨accessed_readFarPtr hr, loadSeg_loaded hl, (hi s).trans (instr_ok hs ?_)⟩
  rw [run_bind_ok hr]
  exact run_bind_ok hl

/-! XLAT (R413). -/

/-- The offset of the byte that XLAT loads. -/
def xlatOff (a : ASize) (g : Regs) : Word :=
  stackOff a (toWord (asizeOf a) (g.read (asizeOf a) .ebx) + (g.read .b .eax).setWidth 32)

theorem completes_xlat {a : ASize} {s t : State} {v : Word} (hs : Plain s)
    (h : readMem (s.dataSeg .ds) (xlatOff a s.regs) 1 (markPoint s) = .ok v t) :
    Completes (.xlat a) s (setReg t .b .eax (v.setWidth 8)) :=
  instr_ok hs (run_bind_ok h)

/-- Settles O9: MOV Sreg is a `useRm`, the five full pointers share `loadPointer`. -/
theorem segmentAndTableLoadsComplete : Obligations.SegmentAndTableLoadsComplete := by
  refine ⟨farPointerInMemory, fun sr rm s v u t hs hr hl => ⟨readRm_accessed hr, loadSeg_loaded hl, ?_⟩, ?_, ?_,
    ?_, ?_, ?_, fun _ _ _ _ hs h => ⟨(accessed_readMem ..).ok h, completes_xlat hs h⟩⟩
  case refine_2 | refine_3 | refine_4 | refine_5 | refine_6 =>
    exact fun _ _ _ => loadsPointer_of_loadPointer fun _ => rfl
  refine useRm_ok hs hr ?_
  rw [run_bind_ok hl, run_inhibitAfter]

end Sys2Proof.Machine
end

section
/-! PROOFS. The arithmetic and logical instructions with a result in an operand (O10, O11): the shared shapes of an
instruction that reads an operand, or reads and writes one, and what the body of each instruction does at a place. -/

namespace Sys2Proof.Machine

/-! The shared shapes of an instruction. -/

theorem accessed_regs {s t : State} (h : Accessed s t) : t.regs = s.regs := by
  obtain ⟨x, -, rfl⟩ := h
  exact touched_regs s x

/-- A write of an operand changes no flag. -/
theorem write_flags {z : Size} {p : Place} {v : z.Val} {s t : State} (h : p.write z v s = .ok () t) :
    t.flags = s.flags := by
  cases p with
  | reg r =>
    cases h
    rfl
  | mem sr off =>
    obtain ⟨as, u, hphys, h⟩ := bind_ok h
    obtain ⟨x, -, rfl⟩ := (accessed_dataPhys ..).ok hphys
    cases h
    rfl

theorem readRm_ok {z : Size} {rm : Rm} {s t : State} {v : z.Val} (h : readRm z rm s = .ok v t) :
    ∃ p, place rm s = .ok p s ∧ p.read z s = .ok v t := by
  obtain ⟨p, u, hp, hr⟩ := bind_ok h
  obtain rfl := place_same hp
  exact ⟨p, hp, hr⟩

/-- An instruction whose body comes down to a read at the place of its r/m operand. -/
theorem loads_of_body {i : Instr} {z : Size} {rm : Rm} {body : M Unit} {f : State → z.Val → State}
    (hi : ∀ s, exec i s = instr body s)
    (hbody : ∀ s p v t, place rm s = .ok p s → p.read z s = .ok v t → body s = .ok () (f t v)) :
    Loads i z rm f := by
  intro s v t hs hr
  obtain ⟨p, hp, hread⟩ := readRm_ok hr
  exact ⟨readRm_accessed hr, (hi s).trans (instr_ok hs (hbody _ p v t hp hread))⟩

/-- An instruction whose body reads at the place of its r/m operand, writes there and sets the flags. -/
theorem updates_of_body {i : Instr} {mem : Bool} {z : Size} {rm : Rm} {d : Nat} {body : M Unit}
    {out : State → z.Val → z.Val} {flags : State → z.Val → Flags} (hi : ∀ s, exec i s = lockable mem body s)
    (hbody : ∀ s p a v t, place rm s = .ok p s → p.readRmw z s = .ok a v →
      p.write z (out v a) { v with draws := v.draws + d } = .ok () t → body s = .ok () { t with flags := flags v a }) :
    Updates i mem z rm d out flags := by
  intro s p u a v t hs hwf hp hr hw
  obtain rfl := place_same hp
  have hacc := (accessed_readRmw z p).ok hr
  have hwf' : Mem.wf v.mem = true := accessed_wf hacc hwf
  obtain ⟨written, -⟩ := write_written (s := { v with draws := v.draws + d }) hwf' hw
  exact ⟨rfl, hacc, written, (hi s).trans (lockable_ok hs (hbody _ p a v t hp hr hw))⟩

/-! ADD, OR, ADC, SBB, AND, SUB, XOR and CMP (R454 to R456, R464, R465, R522, R530, R544). -/

theorem exec_aluInstr (op : AluOp) (f : AluForm) (s : State) : exec (op.instr f) s = aluInstr op f s := by
  cases op <;> rfl

theorem stores_of_ne_cmp {op : AluOp} (h : op ≠ .cmp) : op.stores = true := bne_iff_ne.mpr h

/-- An operation that stores its result, once its read and its write have run. -/
theorem run_aluTo {op : AluOp} {z : Size} {p : Place} {a b : z.Val} {s v t : State} (hop : op ≠ .cmp)
    (hr : p.readRmw z s = .ok a v)
    (hw : p.write z (op.out v a b) { v with draws := v.draws + op.drawn } = .ok () t) :
    aluTo op z p b s = .ok () { t with flags := op.flagsOut v a b } := by
  cases op
  case cmp => exact absurd rfl hop
  -- The logical operations draw their AF between the read and the write, the others nothing.
  all_goals exact (run_bind_ok hr).trans (run_bind_ok hw)

/-- CMP at a place that can be read. -/
theorem run_aluTo_cmp {z : Size} {p : Place} {a b : z.Val} {s t : State} (hr : p.read z s = .ok a t) :
    aluTo .cmp z p b s = .ok () { t with flags := AluOp.cmp.flagsOut t a b } :=
  run_bind_ok hr

/-- An operation on a register with a value: the register is written but for CMP. -/
theorem run_aluTo_reg (op : AluOp) (z : Size) (r : Reg) (b : z.Val) (t : State) :
    aluTo op z (.reg r) b t = .ok ()
      { (if op = .cmp then t else setReg t z r (op.out t (t.regs.read z r) b)) with
        flags := op.flagsOut t (t.regs.read z r) b
        draws := t.draws + op.drawn } := by
  cases op <;> rfl

/-- An encoding whose destination is an r/m operand: its body is `aluTo` at the operand's place, with a source value
that depends on the registers alone. -/
theorem aluTo_of_body {op : AluOp} {f : AluForm} {z : Size} {rm : Rm} {b : State → z.Val}
    (hbody : ∀ s p, place rm s = .ok p s → aluBody op f s = aluTo op z p (b s) s)
    (hb : ∀ s t : State, t.regs = s.regs → b t = b s) : AluTo op f z rm b := by
  rw [AluTo]
  split
  next hop =>
    subst hop
    refine loads_of_body (body := aluBody .cmp f) (fun _ => rfl) fun s p a t hp hr => ?_
    rw [hbody s p hp, ← hb s t (accessed_regs ((accessed_read z p).ok hr))]
    exact run_aluTo_cmp hr
  next hop =>
    refine updates_of_body (body := aluBody op f) (fun s => ?_) fun s p a v t hp hr hw => ?_
    · rw [exec_aluInstr, aluInstr, stores_of_ne_cmp hop, Bool.true_and]
    · rw [hbody s p hp, ← hb s v (accessed_regs ((accessed_readRmw z p).ok hr))]
      exact run_aluTo hop hr hw

/-- An encoding whose destination is a register: it only reads its r/m operand. -/
theorem aluFrom_of_body {op : AluOp} {f : AluForm} {z : Size} {r : Reg} {rm : Rm} (hmem : aluDestMem f = false)
    (hbody : aluBody op f = (do let b ← readRm z rm; aluTo op z (.reg r) b)) : AluFrom op f z r rm := by
  refine loads_of_useRm (g := aluTo op z (.reg r)) (fun s => ?_) fun v t => run_aluTo_reg op z r v t
  rw [exec_aluInstr, aluInstr, hmem, Bool.and_false, hbody]
  rfl

/-- The source of a register depends on the registers alone. -/
theorem read_of_regs {s t : State} (z : Size) (r : Reg) (h : t.regs = s.regs) : t.regs.read z r = s.regs.read z r := by
  rw [h]

/-! TEST (R543). -/

theorem testsAnd_of_body {i : Instr} {z : Size} {rm : Rm} {body : M Unit} {b : State → z.Val}
    (hi : ∀ s, exec i s = instr body s)
    (hbody : ∀ s p, place rm s = .ok p s → body s = testTo z p (b s) s)
    (hb : ∀ s t : State, t.regs = s.regs → b t = b s) : TestsAnd i z rm b := by
  refine loads_of_body hi fun s p a t hp hr => ?_
  rw [hbody s p hp, ← hb s t (accessed_regs ((accessed_read z p).ok hr))]
  exact run_bind_ok hr

theorem place_reg {r : Reg} {p : Place} {s t : State} (h : place (.reg r) s = .ok p t) : p = .reg r := by
  cases h
  rfl

/-- Settles O10: every encoding runs `aluTo` or `testTo` at the place of its destination. -/
theorem arithmeticWritesResultAndFlags : Obligations.ArithmeticWritesResultAndFlags := by
  refine ⟨fun op => ⟨?_, ?_, ?_, ?_, ?_, ?_, ?_, ?_, ?_, ?_, ?_⟩, ?_, ?_, ?_, ?_, ?_, ?_, ?_, ?_⟩
  -- The source is a register.
  case refine_1 => exact fun rm r => aluTo_of_body (fun _ _ hp => run_bind_ok hp) fun _ _ => read_of_regs .b r
  case refine_2 => exact fun o rm r => aluTo_of_body (fun _ _ hp => run_bind_ok hp) fun _ _ => read_of_regs o.size r
  case refine_18 =>
    exact fun rm r => testsAnd_of_body (fun _ => rfl) (fun _ _ hp => run_bind_ok hp) fun _ _ => read_of_regs .b r
  case refine_19 =>
    exact fun o rm r =>
      testsAnd_of_body (fun _ => rfl) (fun _ _ hp => run_bind_ok hp) fun _ _ => read_of_regs o.size r
  -- The source is an immediate, and the destination the accumulator.
  case refine_3 | refine_4 | refine_5 =>
    exact fun _ => aluTo_of_body (fun _ _ hp => place_reg hp ▸ rfl) fun _ _ _ => rfl
  case refine_15 | refine_16 | refine_17 =>
    exact fun _ => testsAnd_of_body (fun _ => rfl) (fun _ _ hp => place_reg hp ▸ rfl) fun _ _ _ => rfl
  -- The source is an immediate, and the destination an r/m operand.
  case refine_6 | refine_7 | refine_8 =>
    exact fun _ _ => aluTo_of_body (fun _ _ hp => run_bind_ok hp) fun _ _ _ => rfl
  case refine_9 => exact fun _ _ _ => aluTo_of_body (fun _ _ hp => run_bind_ok hp) fun _ _ _ => rfl
  case refine_12 | refine_13 | refine_14 =>
    exact fun _ _ => testsAnd_of_body (fun _ => rfl) (fun _ _ hp => run_bind_ok hp) fun _ _ _ => rfl
  -- The destination is a register, and the source an r/m operand.
  case refine_10 => exact fun _ _ => aluFrom_of_body rfl rfl
  case refine_11 => exact fun _ _ _ => aluFrom_of_body rfl rfl

/-! INC, DEC, NEG and NOT (R457, R461, R463, R529). -/

/-- A body that, at a place, replaces the operand `a` by `out a` and sets the flags to what `flags` makes of the old
ones and of `a`. -/
def Replaces (z : Size) (f : Place → M Unit) (out : z.Val → z.Val) (flags : Flags → z.Val → Flags) : Prop :=
  ∀ s p a v t, p.readRmw z s = .ok a v → p.write z (out a) v = .ok () t →
    f p s = .ok () { t with flags := flags v.flags a }

theorem incTo_replaces (z : Size) :
    Replaces z (incTo z) (fun a => a + 1) fun f a => { f.add a 1 false with cf := f.cf } := by
  intro s p a v t hr hw
  rw [incTo, run_bind_ok hr, run_get_bind]
  exact run_bind_ok hw

theorem decTo_replaces (z : Size) :
    Replaces z (decTo z) (fun a => a - 1) fun f a => { f.sub a 1 false with cf := f.cf } := by
  intro s p a v t hr hw
  rw [decTo, run_bind_ok hr, run_get_bind]
  exact run_bind_ok hw

theorem negTo_replaces (z : Size) : Replaces z (negTo z) (fun a => -a) fun f a => f.sub 0 a false := by
  intro s p a v t hr hw
  rw [negTo, run_bind_ok hr, run_get_bind, show (0 : z.Val) - a = -a from BitVec.zero_sub a]
  exact run_bind_ok hw

theorem notTo_replaces (z : Size) : Replaces z (notTo z) (fun a => ~~~a) fun f _ => f := by
  intro s p a v t hr hw
  rw [notTo, run_bind_ok hr, hw, ← write_flags hw]

section
variable {i : Instr} {z : Size} {f : Place → M Unit} {out : z.Val → z.Val} {flags : Flags → z.Val → Flags}

theorem updates_of_unary {rm : Rm} (hf : Replaces z f out flags) (hi : ∀ s, exec i s = unary f rm s) :
    Updates i (rmIsMem rm) z rm 0 (fun _ a => out a) fun t a => flags t.flags a :=
  updates_of_body hi fun s p a v t hp hr hw => by
    rw [run_bind_ok hp]
    exact hf s p a v t hr hw

theorem updates_of_reg {r : Reg} (hf : Replaces z f out flags) (hi : ∀ s, exec i s = instr (f (.reg r)) s) :
    Updates i false z (.reg r) 0 (fun _ a => out a) fun t a => flags t.flags a :=
  updates_of_body hi fun s p a v t hp hr hw => by
    obtain rfl := place_reg hp
    exact hf s _ a v t hr hw

end

/-- Settles O11: each form replaces its operand by `incTo`, `decTo`, `negTo` or `notTo`. -/
theorem unaryOperationsWriteTheirOperand : Obligations.UnaryOperationsWriteTheirOperand :=
  ⟨fun _ => updates_of_unary (incTo_replaces .b) fun _ => rfl,
    fun o _ => updates_of_unary (incTo_replaces o.size) fun _ => rfl,
    fun _ => updates_of_reg (incTo_replaces .w) fun _ => rfl,
    fun _ => updates_of_reg (incTo_replaces .d) fun _ => rfl,
    fun _ => updates_of_unary (decTo_replaces .b) fun _ => rfl,
    fun o _ => updates_of_unary (decTo_replaces o.size) fun _ => rfl,
    fun _ => updates_of_reg (decTo_replaces .w) fun _ => rfl,
    fun _ => updates_of_reg (decTo_replaces .d) fun _ => rfl,
    fun _ => updates_of_unary (negTo_replaces .b) fun _ => rfl,
    fun o _ => updates_of_unary (negTo_replaces o.size) fun _ => rfl,
    fun _ => updates_of_unary (notTo_replaces .b) fun _ => rfl,
    fun o _ => updates_of_unary (notTo_replaces o.size) fun _ => rfl⟩

end Sys2Proof.Machine
end

section
/-! PROOFS. Multiplication and division (O12, O13): double-width values and their halves, what the bodies of MUL, IMUL,
DIV and IDIV leave, and the exact products and quotients behind them. -/

namespace Sys2Proof.Machine

/-! The accumulator pair (R458). -/

@[simp] theorem run_readPair (z : Size) (s : State) : readPair z s = .ok (pairOf s.regs z) s := by
  cases z <;> rfl

@[simp] theorem run_writePair (z : Size) (hi lo : z.Val) (s : State) :
    writePair z hi lo s = .ok () { s with regs := withPair s.regs z hi lo } := by
  cases z <;> rfl

theorem size_bits_pos (z : Size) : 0 < z.bits := by
  cases z <;> decide

/-! The halves of a double-width value. -/

theorem upperHalf_append {n : Nat} (p : BitVec (n + n)) : upperHalf p ++ p.setWidth n = p := by
  rw [upperHalf, BitVec.setWidth_eq_extractLsb' (Nat.le_add_left n n)]
  exact (BitVec.extractLsb'_append_extractLsb'_eq_extractLsb' (Nat.zero_add n).symm).trans
    BitVec.extractLsb'_eq_self

theorem toNat_halves {n : Nat} (p : BitVec (n + n)) :
    (upperHalf p).toNat * 2 ^ n + (p.setWidth n).toNat = p.toNat := by
  rw [← toNat_append_eq, upperHalf_append]

theorem toInt_halves {n : Nat} (hn : 0 < n) (p : BitVec (n + n)) :
    (upperHalf p).toInt * 2 ^ n + (p.setWidth n).toNat = p.toInt := by
  have whole := congrArg BitVec.toInt (upperHalf_append p)
  rw [BitVec.toInt_append, if_neg (by simpa using hn.ne')] at whole
  rw [mul_comm, whole]

/-! Exact products (R460, R462). -/

theorem toNat_mul_extended {n : Nat} (a b : BitVec n) :
    (a.setWidth (n + n) * b.setWidth (n + n)).toNat = a.toNat * b.toNat := by
  have fits : a.toNat * b.toNat < 2 ^ (n + n) := by
    rw [pow_add]
    exact Nat.mul_lt_mul'' a.isLt b.isLt
  rw [BitVec.toNat_mul, BitVec.toNat_setWidth_of_le (by omega), BitVec.toNat_setWidth_of_le (by omega),
    Nat.mod_eq_of_lt fits]

theorem toInt_signedProduct {n : Nat} (hn : 0 < n) (a b : BitVec n) :
    (signedProduct a b).toInt = a.toInt * b.toInt := by
  have upper : a.toInt * b.toInt ≤ 2 ^ (n * 2 - 2) := BitVec.toInt_mul_toInt_le
  have lower : -(2 ^ (n * 2 - 2)) ≤ a.toInt * b.toInt := BitVec.le_toInt_mul_toInt
  have double : (2 : Int) ^ (n + n) = 4 * 2 ^ (n * 2 - 2) := by
    rw [show n + n = n * 2 - 2 + 2 by omega, pow_add, mul_comm]
    rfl
  have pos : (0 : Int) < 2 ^ (n * 2 - 2) := by positivity
  rw [signedProduct, BitVec.toInt_mul, BitVec.toInt_signExtend_of_le (by omega),
    BitVec.toInt_signExtend_of_le (by omega)]
  apply Int.bmod_eq_of_le <;> push_cast <;> omega

theorem setWidth_signedProduct {n : Nat} (a b : BitVec n) : (signedProduct a b).setWidth n = a * b := by
  have low (x : BitVec n) : (x.signExtend (n + n)).setWidth n = x := by
    refine BitVec.eq_of_getLsbD_eq fun i hi => ?_
    rw [BitVec.getLsbD_setWidth, BitVec.getLsbD_signExtend, if_pos hi]
    simp only [hi, Nat.lt_add_right n hi, decide_true, Bool.true_and]
  rw [signedProduct, BitVec.setWidth_mul _ _ (by omega), low, low]

/-- A double-width value overflows its low half exactly when the low half is another number. -/
theorem productOverflows_eq {n : Nat} (p : BitVec (n + n)) :
    productOverflows p = ((p.setWidth n).toInt != p.toInt) := by
  have extended : ((p.setWidth n).signExtend (n + n)).toInt = (p.setWidth n).toInt :=
    BitVec.toInt_signExtend_of_le (by omega)
  rw [productOverflows, Bool.eq_iff_iff, bne_iff_ne, bne_iff_ne, ← extended, Ne, Ne, BitVec.toInt_inj]

/-! MUL and IMUL. -/

theorem run_mulBy (z : Size) (v : z.Val) (t : State) :
    let p := (t.regs.read z .eax).setWidth (z.bits + z.bits) * v.setWidth (z.bits + z.bits)
    mulBy z v t = .ok () (multiplied t (withPair t.regs z (upperHalf p) (p.setWidth z.bits)) (upperHalf p != 0)) := by
  intro p
  rw [mulBy, run_bind_ok (run_readReg ..), run_bind_ok (run_writePair ..)]
  rfl

theorem run_imulBy (z : Size) (v : z.Val) (t : State) :
    let p := signedProduct (t.regs.read z .eax) v
    imulBy z v t = .ok ()
      (multiplied t (withPair t.regs z (upperHalf p) (p.setWidth z.bits)) (productOverflows p)) := by
  intro p
  rw [imulBy, run_bind_ok (run_readReg ..), run_bind_ok (run_writePair ..)]
  rfl

theorem run_imulTo (z : Size) (r : Reg) (a b : z.Val) (t : State) :
    imulTo z r a b t = .ok ()
      (multiplied t (t.regs.write z r (a * b)) ((a * b).toInt != a.toInt * b.toInt)) := by
  rw [← setWidth_signedProduct, ← toInt_signedProduct (size_bits_pos z), ← productOverflows_eq]
  rfl

theorem multiplies_of_useRm {i : Instr} {z : Size} {rm : Rm} (hi : ∀ s, exec i s = useRm z rm (mulBy z) s) :
    Multiplies i z rm := fun s v t hs hr =>
  ⟨readRm_accessed hr, _, _, (toNat_halves _).trans (toNat_mul_extended ..),
    (hi s).trans (useRm_ok hs hr (run_mulBy z v t))⟩

theorem multipliesSigned_of_useRm {i : Instr} {z : Size} {rm : Rm} (hi : ∀ s, exec i s = useRm z rm (imulBy z) s) :
    MultipliesSigned i z rm := by
  intro s v t hs hr
  have product := toInt_signedProduct (size_bits_pos z) (t.regs.read z .eax) v
  refine ⟨readRm_accessed hr, _, _, (toInt_halves (size_bits_pos z) _).trans product, ?_⟩
  rw [← product, ← productOverflows_eq]
  exact (hi s).trans (useRm_ok hs hr (run_imulBy z v t))

/-- IMUL with a destination register, whose other factor `b` depends on the state after the read. -/
theorem multipliesInto_of_useRm {i : Instr} {z : Size} {r : Reg} {rm : Rm} {g : z.Val → M Unit} {b : State → z.Val}
    (hi : ∀ s, exec i s = useRm z rm g s) (hg : ∀ v t, g v t = imulTo z r v (b t) t) :
    MultipliesInto i z r rm b := fun s v t hs hr =>
  ⟨readRm_accessed hr, (hi s).trans (useRm_ok hs hr ((hg v t).trans (run_imulTo ..)))⟩

theorem imulTo_comm (z : Size) (r : Reg) (a b : z.Val) : imulTo z r a b = imulTo z r b a := by
  funext t
  rw [run_imulTo, run_imulTo, BitVec.mul_comm, Int.mul_comm]

/-- Settles O12: every form uses its r/m operand by `mulBy`, `imulBy` or `imulTo`. -/
theorem multiplicationWritesTheProduct : Obligations.MultiplicationWritesTheProduct :=
  ⟨fun _ => multiplies_of_useRm fun _ => rfl, fun _ _ => multiplies_of_useRm fun _ => rfl,
    fun _ => multipliesSigned_of_useRm fun _ => rfl, fun _ _ => multipliesSigned_of_useRm fun _ => rfl,
    fun o r _ => multipliesInto_of_useRm (fun _ => rfl) fun v t =>
      congrFun (imulTo_comm o.size r (t.regs.read o.size r) v) t,
    fun _ _ _ _ => multipliesInto_of_useRm (fun _ => rfl) fun _ _ => rfl,
    fun _ _ _ => multipliesInto_of_useRm (fun _ => rfl) fun _ _ => rfl,
    fun _ _ _ => multipliesInto_of_useRm (fun _ => rfl) fun _ _ => rfl⟩

/-! DIV and IDIV. -/

/-- A requirement before a computation that does not hold raises its exception. -/
theorem require_bind_error {β : Type} {c : Bool} {e : Exc} {f : Unit → M β} {s : State} (h : c = false) :
    (require c e >>= f) s = .error (.exc e) s := by
  subst h
  rfl

theorem useRm_exc {z : Size} {rm : Rm} {f : z.Val → M Unit} {s u t : State} {v : z.Val} {e : Exc} (hs : Plain s)
    (hr : readRm z rm (markPoint s) = .ok v u) (h : f v u = .error (.exc e) t) :
    useRm z rm f s = deliverExc e (markPoint s) t :=
  instr_exc hs ((run_bind_ok hr).trans h)

section
variable {z : Size} {v : z.Val} {t : State}

theorem run_divBy (h0 : v.toNat ≠ 0) (hq : (pairOf t.regs z).toNat / v.toNat < 2 ^ z.bits) :
    divBy z v t = .ok () (divided t z (BitVec.ofNat z.bits ((pairOf t.regs z).toNat / v.toNat))
      (BitVec.ofNat z.bits ((pairOf t.regs z).toNat % v.toNat))) := by
  rw [divBy, run_bind_ok (run_readPair ..), require_bind (bne_iff_ne.mpr h0), require_bind (decide_eq_true hq),
    run_bind_ok (run_writePair ..)]
  rfl

theorem divBy_error (h : v.toNat = 0 ∨ 2 ^ z.bits ≤ (pairOf t.regs z).toNat / v.toNat) :
    divBy z v t = .error (.exc .de) t := by
  rw [divBy, run_bind_ok (run_readPair ..)]
  by_cases h0 : v.toNat = 0
  · exact require_bind_error (by simp [h0])
  · rw [require_bind (bne_iff_ne.mpr h0)]
    exact require_bind_error (decide_eq_false (Nat.not_lt.mpr (h.resolve_left h0)))

/-- The quotient of a signed division lies in the range of its width (R459). -/
def QuotientFits (z : Size) (q : Int) : Prop := -(2 ^ (z.bits - 1)) ≤ q ∧ q ≤ 2 ^ (z.bits - 1) - 1

theorem run_idivBy (h0 : v.toInt ≠ 0) (hq : QuotientFits z ((pairOf t.regs z).toInt.tdiv v.toInt)) :
    idivBy z v t = .ok () (divided t z (BitVec.ofInt z.bits ((pairOf t.regs z).toInt.tdiv v.toInt))
      (BitVec.ofInt z.bits ((pairOf t.regs z).toInt.tmod v.toInt))) := by
  obtain ⟨lower, upper⟩ := hq
  rw [idivBy, run_bind_ok (run_readPair ..), require_bind (bne_iff_ne.mpr h0),
    require_bind (Bool.and_eq_true_iff.mpr ⟨decide_eq_true lower, decide_eq_true upper⟩),
    run_bind_ok (run_writePair ..), Int.tmod_def, Int.mul_comm v.toInt]
  rfl

theorem idivBy_error (h : v.toInt = 0 ∨ ¬QuotientFits z ((pairOf t.regs z).toInt.tdiv v.toInt)) :
    idivBy z v t = .error (.exc .de) t := by
  rw [idivBy, run_bind_ok (run_readPair ..)]
  by_cases h0 : v.toInt = 0
  · exact require_bind_error (by simp [h0])
  · rw [require_bind (bne_iff_ne.mpr h0)]
    refine require_bind_error (Bool.eq_false_iff.mpr fun hc => h.resolve_left h0 ?_)
    obtain ⟨lower, upper⟩ := Bool.and_eq_true_iff.mp hc
    exact ⟨of_decide_eq_true lower, of_decide_eq_true upper⟩

end

theorem toNat_ofNat_of_lt {n k : Nat} (h : k < 2 ^ n) : (BitVec.ofNat n k).toNat = k := by
  rw [BitVec.toNat_ofNat, Nat.mod_eq_of_lt h]

theorem divides_of_useRm {i : Instr} {z : Size} {rm : Rm} (hi : ∀ s, exec i s = useRm z rm (divBy z) s) :
    Divides i z rm := by
  intro s v t hs hr
  refine ⟨readRm_accessed hr, fun ⟨h0, hq⟩ => ?_, fun h => (hi s).trans (useRm_exc hs hr (divBy_error h))⟩
  have hlt : (pairOf t.regs z).toNat % v.toNat < v.toNat := Nat.mod_lt _ (Nat.pos_of_ne_zero h0)
  refine ⟨_, _, ?_, ?_, (hi s).trans (useRm_ok hs hr (run_divBy h0 hq))⟩
  · rw [toNat_ofNat_of_lt hq, toNat_ofNat_of_lt (hlt.trans v.isLt), Nat.div_add_mod']
  · rw [toNat_ofNat_of_lt (hlt.trans v.isLt)]
    exact hlt

theorem abs_tmod_lt (n : Int) {d : Int} (h : d ≠ 0) : |n.tmod d| < |d| := by
  rw [Int.abs_eq_natAbs, Int.abs_eq_natAbs, Int.natAbs_tmod]
  exact_mod_cast Nat.mod_lt _ (Int.natAbs_pos.mpr h)

/-- The remainder of a division that truncates toward 0 has the sign of the dividend. -/
theorem tmod_neg_iff (n : Int) {d : Int} (h : n.tmod d ≠ 0) : n.tmod d < 0 ↔ n < 0 := by
  have hd : ¬d ∣ n := mt Int.tmod_eq_zero_of_dvd h
  rw [← Int.sign_eq_neg_one_iff_neg, Int.sign_tmod, if_neg hd, Int.sign_eq_neg_one_iff_neg]

/-- A remainder fits in the width of its divisor. -/
theorem toInt_ofInt_tmod {w : Nat} (hw : 0 < w) (n : Int) {v : BitVec w} (h : v.toInt ≠ 0) :
    (BitVec.ofInt w (n.tmod v.toInt)).toInt = n.tmod v.toInt := by
  have small : |v.toInt| ≤ 2 ^ (w - 1) := abs_le.mpr ⟨BitVec.le_toInt v, BitVec.toInt_lt.le⟩
  obtain ⟨lower, upper⟩ := abs_lt.mp ((abs_tmod_lt n h).trans_le small)
  exact BitVec.toInt_ofInt_eq_self hw lower.le upper

theorem dividesSigned_of_useRm {i : Instr} {z : Size} {rm : Rm} (hi : ∀ s, exec i s = useRm z rm (idivBy z) s) :
    DividesSigned i z rm := by
  intro s v t hs hr
  refine ⟨readRm_accessed hr, fun ⟨h0, hq⟩ => ?_, fun h => (hi s).trans (useRm_exc hs hr (idivBy_error h))⟩
  obtain ⟨lower, upper⟩ := hq
  have quotient := BitVec.toInt_ofInt_eq_self (size_bits_pos z) lower (Int.lt_of_le_sub_one upper)
  have remainder := toInt_ofInt_tmod (size_bits_pos z) (pairOf t.regs z).toInt h0
  refine ⟨_, _, ?_, ?_, ?_, (hi s).trans (useRm_ok hs hr (run_idivBy h0 ⟨lower, upper⟩))⟩
  · rw [quotient, remainder, Int.tdiv_mul_add_tmod]
  · rw [remainder]
    exact abs_tmod_lt _ h0
  · rw [remainder]
    exact or_iff_not_imp_left.mpr (tmod_neg_iff _)

/-- Settles O13: every form uses its r/m operand by `divBy` or `idivBy`. -/
theorem divisionWritesQuotientAndRemainder : Obligations.DivisionWritesQuotientAndRemainder :=
  ⟨fun _ => divides_of_useRm fun _ => rfl, fun _ _ => divides_of_useRm fun _ => rfl,
    fun _ => dividesSigned_of_useRm fun _ => rfl, fun _ _ => dividesSigned_of_useRm fun _ => rfl⟩

end Sys2Proof.Machine
end

section
/-! PROOFS. The results and flags of the arithmetic, the logic, the rotates and the shifts (O57), for words of every
width: sums and differences in whole numbers, the rotates as turns of a ring of bits, the shifts as powers of two. -/

namespace Sys2Proof.Machine

/-! What SF, ZF and PF say of a result (R450). -/

theorem length_filter_mod_two (g : Nat → Bool) (l : List Nat) :
    decide ((l.filter g).length % 2 = 0) = !l.foldr (fun i b => g i ^^ b) false := by
  induction l with
  | nil => rfl
  | cons i rest ih =>
    rw [List.foldr_cons, List.filter_cons]
    cases g i with
    | false => simpa using ih
    | true =>
      rw [if_pos rfl, List.length_cons, Bool.true_xor, ← ih, ← decide_not, decide_eq_decide]
      omega

theorem parity_eq {n : Nat} (v : BitVec n) :
    parity v = decide (((List.range 8).filter v.getLsbD).length % 2 = 0) := by
  rw [length_filter_mod_two]
  simp [parity, List.range_succ]

theorem result_describes {n : Nat} (f : Flags) (v : BitVec n) : Describes (f.result v) v := by
  refine ⟨BitVec.msb_eq_toInt, ?_, parity_eq v⟩
  rw [show (f.result v).zf = (v == 0) from rfl, Bool.eq_iff_iff, beq_iff_eq, decide_eq_true_eq, ← BitVec.toNat_inj]
  rfl

/-! Sums and differences in whole numbers, with the carry or borrow that comes in and the one that goes out (R451,
R452). -/

theorem toNat_carry {n : Nat} (hn : 0 < n) (c : Bool) : ((BitVec.ofBool c).setWidth n).toNat = c.toNat := by
  rw [BitVec.toNat_setWidth_of_le hn, BitVec.toNat_ofBool]

/-- A sum with a carry wraps as the sum of the numbers does. -/
theorem toNat_add_carry {n : Nat} (hn : 0 < n) (a b : BitVec n) (c : Bool) :
    ((a + b + (BitVec.ofBool c).setWidth n).toNat : Int) = (a.toNat + b.toNat + c.toNat) % 2 ^ n := by
  rw [← toNat_carry hn c, ← toNat_ofInt_emod, BitVec.ofInt_add, BitVec.ofInt_add, ofInt_toNat, ofInt_toNat,
    ofInt_toNat]

/-- A difference with a borrow wraps as the difference of the numbers does. -/
theorem toNat_sub_borrow {n : Nat} (hn : 0 < n) (a b : BitVec n) (c : Bool) :
    ((a - b - (BitVec.ofBool c).setWidth n).toNat : Int) = (a.toNat - b.toNat - c.toNat) % 2 ^ n := by
  rw [← toNat_carry hn c, ← toNat_ofInt_emod, Int.sub_eq_add_neg, Int.sub_eq_add_neg, BitVec.ofInt_add,
    BitVec.ofInt_add, BitVec.ofInt_neg, BitVec.ofInt_neg, ofInt_toNat, ofInt_toNat, ofInt_toNat,
    ← BitVec.sub_eq_add_neg, ← BitVec.sub_eq_add_neg]

/-- CF after an addition is the carry out. -/
theorem add_carry_out {n : Nat} (hn : 0 < n) (f : Flags) (a b : BitVec n) (c : Bool) :
    (if (f.add a b c).cf then 2 ^ n else 0) + (a + b + (BitVec.ofBool c).setWidth n).toNat
      = a.toNat + b.toNat + c.toNat := by
  have ha := a.isLt
  have hb := b.isLt
  have hc := c.toNat_le
  rw [BitVec.toNat_add, BitVec.toNat_add, toNat_carry hn, Nat.mod_add_mod]
  simp only [Flags.add, decide_eq_true_eq]
  split
  next h => rw [Nat.mod_eq_sub_mod h, Nat.mod_eq_of_lt] <;> omega
  next h => rw [Nat.mod_eq_of_lt (Nat.not_le.mp h), Nat.zero_add]

/-- CF after a subtraction is the borrow. -/
theorem sub_borrow_out {n : Nat} (hn : 0 < n) (f : Flags) (a b : BitVec n) (c : Bool) :
    ((a - b - (BitVec.ofBool c).setWidth n).toNat : Int) - (if (f.sub a b c).cf then 2 ^ n else 0)
      = a.toNat - b.toNat - c.toNat := by
  have ha : (a.toNat : Int) < 2 ^ n := by exact_mod_cast a.isLt
  have hb : (b.toNat : Int) < 2 ^ n := by exact_mod_cast b.isLt
  have hc := c.toNat_le
  rw [toNat_sub_borrow hn]
  simp only [Flags.sub, decide_eq_true_eq]
  split
  next h => rw [← Int.add_emod_right, Int.emod_eq_of_lt] <;> omega
  next h => rw [Int.emod_eq_of_lt] <;> omega

/-! Signed overflow: a word stands for its number, or from half the modulus on for its number less the modulus. -/

theorem msb_eq_decide_double {n : Nat} (x : BitVec n) : x.msb = decide (2 ^ n ≤ 2 * x.toNat) := by
  rw [Bool.eq_iff_iff, BitVec.msb_eq_true_iff_two_mul_ge, decide_eq_true_eq]

theorem toInt_cases {n : Nat} (x : BitVec n) :
    2 * x.toNat < 2 ^ n ∧ x.toInt = x.toNat ∨
      2 ^ n ≤ 2 * x.toNat ∧ x.toNat < 2 ^ n ∧ x.toInt = x.toNat - (2 ^ n : Nat) := by
  rw [BitVec.toInt_eq_toNat_cond]
  split
  next h => exact .inl ⟨h, rfl⟩
  next h => exact .inr ⟨Nat.not_lt.mp h, x.isLt, rfl⟩

/-- A sum of two signed numbers and a carry does not fit exactly when they have one sign and the wrapped sum another. -/
theorem sum_fits_iff {n : Nat} (hn : 0 < n) {a b res : BitVec n} {c out : Bool}
    (h : (if out then 2 ^ n else 0) + res.toNat = a.toNat + b.toNat + c.toNat) :
    (a.msb == b.msb && res.msb != a.msb) = false ↔ res.toInt = a.toInt + b.toInt + c.toNat := by
  simp only [msb_eq_decide_double, Bool.and_eq_false_iff, beq_eq_false_iff_ne, bne_eq_false_iff_eq, ne_eq,
    decide_eq_decide]
  have even := Nat.two_pow_pred_add_two_pow_pred hn
  have hc := c.toNat_le
  have ha := toInt_cases a
  have hb := toInt_cases b
  have hres := toInt_cases res
  split at h <;> omega

/-- A difference of two signed numbers less a borrow does not fit exactly when their signs differ and the wrapped
difference has not the sign of the first. -/
theorem difference_fits_iff {n : Nat} (hn : 0 < n) {a b res : BitVec n} {c out : Bool}
    (h : (res.toNat : Int) - (if out then 2 ^ n else 0) = a.toNat - b.toNat - c.toNat) :
    (a.msb != b.msb && res.msb != a.msb) = false ↔ res.toInt = a.toInt - b.toInt - c.toNat := by
  simp only [msb_eq_decide_double, Bool.and_eq_false_iff, bne_eq_false_iff_eq, decide_eq_decide]
  have even := Nat.two_pow_pred_add_two_pow_pred hn
  have cast : ((2 ^ n : Nat) : Int) = 2 ^ n := Nat.cast_pow 2 n
  have hc := c.toNat_le
  have ha := toInt_cases a
  have hb := toInt_cases b
  have hres := toInt_cases res
  split at h <;> omega

theorem addsExactly : AddsExactly := by
  intro z f a b c
  have carry := add_carry_out (size_bits_pos z) f a b c
  exact ⟨rfl, result_describes f _, carry, sum_fits_iff (size_bits_pos z) carry, rfl⟩

theorem subtractsExactly : SubtractsExactly := by
  intro z f a b c
  have borrow := sub_borrow_out (size_bits_pos z) f a b c
  exact ⟨rfl, result_describes f _, borrow, difference_fits_iff (size_bits_pos z) borrow, rfl⟩

/-! The eight operations of Group 1. -/

theorem toNat_add_emod {n : Nat} (a b : BitVec n) : ((a + b).toNat : Int) = (a.toNat + b.toNat) % 2 ^ n := by
  rw [← toNat_ofInt_emod, BitVec.ofInt_add, ofInt_toNat, ofInt_toNat]

theorem toNat_sub_emod {n : Nat} (hn : 0 < n) (a b : BitVec n) :
    ((a - b).toNat : Int) = (a.toNat - b.toNat) % 2 ^ n := by
  simpa using toNat_sub_borrow hn a b false

theorem operationsAreExact : OperationsAreExact := by
  intro z f u a b
  have hz := size_bits_pos z
  refine ⟨⟨toNat_add_emod a b, rfl⟩, ⟨toNat_add_carry hz a b f.cf, rfl⟩, ⟨toNat_sub_emod hz a b, rfl⟩,
    ⟨toNat_sub_emod hz a b, rfl⟩, ⟨toNat_sub_borrow hz a b f.cf, rfl⟩,
    fun k _ => ⟨BitVec.getLsbD_and, BitVec.getLsbD_or, ?_⟩, ?_⟩
  · exact BitVec.getLsbD_xor.trans (congrFun₂ Bool.bne_eq_xor _ _).symm
  · rintro op (rfl | rfl | rfl) <;> exact ⟨rfl, rfl, result_describes f _, rfl, rfl, rfl⟩

/-! Repeated single-bit steps. -/

theorem iter_succ_last {α : Type} (g : α → α) (k : Nat) (x : α) : iter g (k + 1) x = g (iter g k x) := by
  induction k generalizing x with
  | zero => rfl
  | succ k ih => exact ih (g x)

/-- What every step establishes holds after the last one. -/
theorem iter_last {α : Type} {g : α → α} {P : α → Prop} (hg : ∀ x, P (g x)) {k : Nat} (hk : 0 < k) (x : α) :
    P (iter g k x) := by
  obtain ⟨m, rfl⟩ := Nat.exists_eq_add_one.mpr hk
  rw [iter_succ_last]
  exact hg _

/-- Steps that each move the bits of a ring up by one place move them up by their number. -/
theorem iter_turns_up {α : Type} {g : α → α} {bit : α → Nat → Bool} {m : Nat}
    (hg : ∀ x j, j < m → bit (g x) ((j + 1) % m) = bit x j) (k : Nat) (x : α) {j : Nat} (hj : j < m) :
    bit (iter g k x) ((j + k) % m) = bit x j := by
  induction k generalizing x j with
  | zero => rw [Nat.add_zero, Nat.mod_eq_of_lt hj, iter]
  | succ k ih =>
    have moved := ih (g x) (Nat.mod_lt (j + 1) (Nat.zero_lt_of_lt hj))
    rw [Nat.mod_add_mod, Nat.add_assoc, Nat.add_comm 1 k, hg x j hj] at moved
    exact moved

/-- Steps that each move the bits of a ring down by one place move them down by their number. -/
theorem iter_turns_down {α : Type} {g : α → α} {bit : α → Nat → Bool} {m : Nat}
    (hg : ∀ x j, j < m → bit (g x) j = bit x ((j + 1) % m)) (k : Nat) (x : α) {j : Nat} (hj : j < m) :
    bit (iter g k x) j = bit x ((j + k) % m) := by
  induction k generalizing x j with
  | zero => rw [Nat.add_zero, Nat.mod_eq_of_lt hj, iter]
  | succ k ih =>
    rw [iter, ih (g x) hj, hg x _ (Nat.mod_lt _ (Nat.zero_lt_of_lt hj)), Nat.mod_add_mod, Nat.add_assoc]

/-! A bit shifted in at either end. -/

theorem getLsbD_shiftIn {n : Nat} (v : BitVec n) (b : Bool) {i : Nat} (hi : i < n) :
    (v <<< 1 ||| (BitVec.ofBool b).setWidth n).getLsbD i = if i = 0 then b else v.getLsbD (i - 1) := by
  rw [BitVec.getLsbD_or, BitVec.getLsbD_shiftLeft, BitVec.getLsbD_setWidth, BitVec.getLsbD_ofBool]
  by_cases h : i = 0
  · simp [h]
    omega
  · have above : ¬i < 1 := by omega
    simp [h, hi, above]

theorem getLsbD_shiftInTop {n : Nat} (v : BitVec n) (b : Bool) {i : Nat} (hi : i < n) :
    (v >>> 1 ||| (BitVec.ofBool b).setWidth n <<< (n - 1)).getLsbD i
      = if i = n - 1 then b else v.getLsbD (i + 1) := by
  rw [BitVec.getLsbD_or, BitVec.getLsbD_ushiftRight, BitVec.getLsbD_shiftLeft, BitVec.getLsbD_setWidth,
    BitVec.getLsbD_ofBool]
  by_cases h : i = n - 1
  · have outside : v.getLsbD (1 + i) = false := BitVec.getLsbD_of_ge _ _ (by omega)
    simp [h ▸ outside, h]
    omega
  · have below : i < n - 1 := by omega
    simp [h, below, Nat.add_comm 1 i]

/-! Rotates (R531 to R535). -/

section
variable {n : Nat}

theorem rol_step_fst (x : BitVec n × Bool) :
    (ShiftOp.rol.step x).1 = x.1 <<< 1 ||| (BitVec.ofBool x.1.msb).setWidth n := rfl

theorem ror_step_fst (x : BitVec n × Bool) :
    (ShiftOp.ror.step x).1 = x.1 >>> 1 ||| (BitVec.ofBool (x.1.getLsbD 0)).setWidth n <<< (n - 1) := rfl

theorem rcl_step_fst (x : BitVec n × Bool) :
    (ShiftOp.rcl.step x).1 = x.1 <<< 1 ||| (BitVec.ofBool x.2).setWidth n := rfl

theorem rcr_step_fst (x : BitVec n × Bool) :
    (ShiftOp.rcr.step x).1 = x.1 >>> 1 ||| (BitVec.ofBool x.2).setWidth n <<< (n - 1) := rfl

theorem rol_step_snd (x : BitVec n × Bool) : (ShiftOp.rol.step x).2 = x.1.msb := rfl

theorem ror_step_snd (x : BitVec n × Bool) : (ShiftOp.ror.step x).2 = x.1.getLsbD 0 := rfl

theorem rcl_step_snd (x : BitVec n × Bool) : (ShiftOp.rcl.step x).2 = x.1.msb := rfl

theorem rcr_step_snd (x : BitVec n × Bool) : (ShiftOp.rcr.step x).2 = x.1.getLsbD 0 := rfl

/-- ROL moves every bit up by one place, and the highest to the lowest. -/
theorem rol_step_turns (x : BitVec n × Bool) (j : Nat) (hj : j < n) :
    (ShiftOp.rol.step x).1.getLsbD ((j + 1) % n) = x.1.getLsbD j := by
  rw [rol_step_fst, getLsbD_shiftIn _ _ (Nat.mod_lt _ (Nat.zero_lt_of_lt hj))]
  by_cases h : j + 1 = n
  · rw [h, Nat.mod_self, if_pos rfl, BitVec.msb_eq_getLsbD_last, Nat.eq_sub_of_add_eq h]
  · rw [Nat.mod_eq_of_lt (by omega), if_neg (Nat.succ_ne_zero j), Nat.add_sub_cancel]

/-- ROR moves every bit down by one place, and the lowest to the highest. -/
theorem ror_step_turns (x : BitVec n × Bool) (j : Nat) (hj : j < n) :
    (ShiftOp.ror.step x).1.getLsbD j = x.1.getLsbD ((j + 1) % n) := by
  rw [ror_step_fst, getLsbD_shiftInTop _ _ hj]
  by_cases h : j + 1 = n
  · rw [if_pos (by omega), h, Nat.mod_self]
  · rw [if_neg (by omega), Nat.mod_eq_of_lt (by omega)]

/-- The bits of an operand with CF above its highest bit, for an operand paired with CF as the steps pair them. -/
def carryRing (x : BitVec n × Bool) (j : Nat) : Bool := ringBit x.1 x.2 j

/-- RCL moves every bit of the ring up by one place. -/
theorem rcl_step_turns (hn : 0 < n) (x : BitVec n × Bool) (j : Nat) (hj : j < n + 1) :
    carryRing (ShiftOp.rcl.step x) ((j + 1) % (n + 1)) = carryRing x j := by
  rw [carryRing, carryRing, rcl_step_fst, rcl_step_snd, ringBit, ringBit]
  by_cases hcarry : j = n
  · rw [hcarry, Nat.mod_self, if_neg hn.ne, if_pos rfl, getLsbD_shiftIn _ _ hn, if_pos rfl]
  rw [if_neg hcarry, Nat.mod_eq_of_lt (by omega)]
  by_cases htop : j + 1 = n
  · rw [if_pos htop, BitVec.msb_eq_getLsbD_last, Nat.eq_sub_of_add_eq htop]
  · rw [if_neg htop, getLsbD_shiftIn _ _ (by omega), if_neg (Nat.succ_ne_zero j), Nat.add_sub_cancel]

/-- RCR moves every bit of the ring down by one place. -/
theorem rcr_step_turns (hn : 0 < n) (x : BitVec n × Bool) (j : Nat) (hj : j < n + 1) :
    carryRing (ShiftOp.rcr.step x) j = carryRing x ((j + 1) % (n + 1)) := by
  rw [carryRing, carryRing, rcr_step_fst, rcr_step_snd, ringBit, ringBit]
  by_cases hcarry : j = n
  · rw [hcarry, Nat.mod_self, if_pos rfl, if_neg hn.ne]
  rw [if_neg hcarry, Nat.mod_eq_of_lt (by omega), getLsbD_shiftInTop _ _ (by omega)]
  by_cases htop : j + 1 = n
  · rw [if_pos (Nat.eq_sub_of_add_eq htop), if_pos htop]
  · rw [if_neg (by omega), if_neg htop]

theorem rol_step_carry (hn : 0 < n) (x : BitVec n × Bool) :
    (ShiftOp.rol.step x).2 = (ShiftOp.rol.step x).1.getLsbD 0 := by
  rw [rol_step_snd, rol_step_fst, getLsbD_shiftIn _ _ hn, if_pos rfl]

theorem ror_step_carry (hn : 0 < n) (x : BitVec n × Bool) :
    (ShiftOp.ror.step x).2 = (ShiftOp.ror.step x).1.getLsbD (n - 1) := by
  rw [ror_step_snd, ror_step_fst, getLsbD_shiftInTop _ _ (by omega), if_pos rfl]

/-- OF after a step to the left: whether the sign of the result is not its CF. -/
theorem overflow_left {op : ShiftOp} (hop : op = .rol ∨ op = .rcl ∨ op = .shl) (old res : BitVec n) (cf : Bool) :
    op.overflow old res cf = (res.getLsbD (n - 1) != cf) := by
  rw [← BitVec.msb_eq_getLsbD_last, Bool.bne_eq_xor]
  rcases hop with rfl | rfl | rfl <;> rfl

/-- OF after a rotate to the right: whether the two highest bits of the result differ. -/
theorem overflow_right {op : ShiftOp} (hop : op = .ror ∨ op = .rcr) (old res : BitVec n) (cf : Bool) :
    op.overflow old res cf = (res.getLsbD (n - 1) != res.getLsbD (n - 2)) := by
  rw [← BitVec.msb_eq_getLsbD_last, Bool.bne_eq_xor]
  rcases hop with rfl | rfl <;> rfl

variable {op : ShiftOp} {f : Flags} {u : Status} {v : BitVec n} {k : Nat}

/-- What a rotate leaves of the flags. -/
theorem rotate_flags (hop : op.isRotate = true) :
    (op.apply f u v k).2
      = { f with
          cf := (op.apply f u v k).2.cf
          ov := if k = 1 then op.overflow v (op.apply f u v k).1 (op.apply f u v k).2.cf else u.ov } := by
  rw [ShiftOp.apply, if_pos hop]

end

theorem rotatesMoveBits : RotatesMoveBits := by
  intro z f u v k hk _ n
  have hn : 0 < n := size_bits_pos z
  refine ⟨⟨fun j hj => ?_, ?_, ?_⟩, ⟨fun j hj => ?_, ?_, ?_⟩, ⟨fun j hj => ?_, ?_⟩, ⟨fun j hj => ?_, ?_⟩⟩
  · exact iter_turns_up (bit := fun x => x.1.getLsbD) rol_step_turns k (v, f.cf) hj
  · exact iter_last (P := fun x => x.2 = x.1.getLsbD 0) (rol_step_carry hn) hk (v, f.cf)
  · rw [← overflow_left (.inl rfl) v]
    exact rotate_flags rfl
  · exact iter_turns_down (bit := fun x => x.1.getLsbD) ror_step_turns k (v, f.cf) hj
  · exact iter_last (P := fun x => x.2 = x.1.getLsbD (n - 1)) (ror_step_carry hn) hk (v, f.cf)
  · rw [← overflow_right (.inl rfl) v]
    exact rotate_flags rfl
  · exact iter_turns_up (rcl_step_turns hn) k (v, f.cf) (Nat.lt_succ_of_le hj)
  · rw [← overflow_left (.inr (.inl rfl)) v]
    exact rotate_flags rfl
  · exact iter_turns_down (rcr_step_turns hn) k (v, f.cf) (Nat.lt_succ_of_le hj)
  · rw [← overflow_right (.inr rfl) v]
    exact rotate_flags rfl

/-! Shifts (R536 to R539). -/

section
variable {n : Nat} (v : BitVec n) (c : Bool)

theorem shl_step_snd (x : BitVec n × Bool) : (ShiftOp.shl.step x).2 = x.1.msb := rfl

theorem shr_step_snd (x : BitVec n × Bool) : (ShiftOp.shr.step x).2 = x.1.getLsbD 0 := rfl

theorem sar_step_snd (x : BitVec n × Bool) : (ShiftOp.sar.step x).2 = x.1.getLsbD 0 := rfl

theorem iter_shl_fst (k : Nat) : (iter ShiftOp.shl.step k (v, c)).1 = v <<< k := by
  induction k generalizing v c with
  | zero => exact (BitVec.shiftLeft_zero v).symm
  | succ k ih => exact (ih ..).trans (by rw [← BitVec.shiftLeft_add, Nat.add_comm])

theorem iter_shr_fst (k : Nat) : (iter ShiftOp.shr.step k (v, c)).1 = v >>> k := by
  induction k generalizing v c with
  | zero => exact (BitVec.ushiftRight_zero v).symm
  | succ k ih => exact (ih ..).trans (by rw [← BitVec.shiftRight_add, Nat.add_comm])

/-- A step of SAR copies the sign into the place it empties. -/
theorem sar_step_fst : (ShiftOp.sar.step (v, c)).1 = v.sshiftRight 1 := by
  refine BitVec.eq_of_getLsbD_eq fun i hi => ?_
  rw [show (ShiftOp.sar.step (v, c)).1 = v >>> 1 ||| (BitVec.ofBool v.msb).setWidth n <<< (n - 1) from rfl,
    getLsbD_shiftInTop _ _ hi, BitVec.getLsbD_sshiftRight, decide_eq_false (Nat.not_le.mpr hi), Bool.not_false,
    Bool.true_and, Nat.add_comm 1 i]
  by_cases h : i = n - 1
  · rw [if_pos h, if_neg (by omega)]
  · rw [if_neg h, if_pos (by omega)]

theorem iter_sar_fst (k : Nat) : (iter ShiftOp.sar.step k (v, c)).1 = v.sshiftRight k := by
  induction k generalizing v c with
  | zero => exact BitVec.sshiftRight_zero.symm
  | succ k ih =>
    rw [iter, Nat.add_comm, BitVec.sshiftRight_add, ← sar_step_fst v c]
    exact ih ..

theorem iter_shl_snd {k : Nat} (hn : 0 < n) (hk : 0 < k) :
    (iter ShiftOp.shl.step k (v, c)).2 = (decide (k ≤ n) && v.getLsbD (n - k)) := by
  obtain ⟨m, rfl⟩ := Nat.exists_eq_add_one.mpr hk
  rw [iter_succ_last, shl_step_snd, iter_shl_fst, BitVec.msb_eq_getLsbD_last, BitVec.getLsbD_shiftLeft]
  have within : (!decide (n - 1 < m)) = decide (m + 1 ≤ n) := by
    rw [← decide_not, decide_eq_decide]
    omega
  rw [decide_eq_true (Nat.sub_lt hn Nat.one_pos), Bool.true_and, within, Nat.sub_sub, Nat.add_comm 1 m]

theorem iter_shr_snd {k : Nat} (hk : 0 < k) : (iter ShiftOp.shr.step k (v, c)).2 = v.getLsbD (k - 1) := by
  obtain ⟨m, rfl⟩ := Nat.exists_eq_add_one.mpr hk
  rw [iter_succ_last, shr_step_snd, iter_shr_fst, BitVec.getLsbD_ushiftRight, Nat.add_zero, Nat.add_sub_cancel]

theorem iter_sar_snd {k : Nat} (hn : 0 < n) (hk : 0 < k) :
    (iter ShiftOp.sar.step k (v, c)).2 = v.getLsbD (min (k - 1) (n - 1)) := by
  obtain ⟨m, rfl⟩ := Nat.exists_eq_add_one.mpr hk
  rw [iter_succ_last, sar_step_snd, iter_sar_fst, BitVec.getLsbD_sshiftRight, decide_eq_false (Nat.not_le.mpr hn),
    Bool.not_false, Bool.true_and, Nat.add_zero, Nat.add_sub_cancel]
  split
  next h => rw [Nat.min_eq_left (by omega)]
  next h => rw [Nat.min_eq_right (by omega), BitVec.msb_eq_getLsbD_last]

/-- The result and the flags of a shift by a count that is not 0. -/
theorem shift_apply {op : ShiftOp} {f : Flags} {u : Status} {k : Nat} (hop : op.isRotate = false) (hk : 0 < k) :
    op.apply f u v k
      = let r := iter op.step k (v, f.cf)
        (r.1, { f.result r.1 with
          cf := r.2, af := u.af, ov := if k = 1 then op.overflow v r.1 r.2 else u.ov }) := by
  rw [ShiftOp.apply, hop, if_neg Bool.false_ne_true, if_neg hk.ne']

end

theorem shiftsAreExact : ShiftsAreExact := by
  intro z f u v k hk
  have hn := size_bits_pos z
  rw [shift_apply v (op := .shl) rfl hk, shift_apply v (op := .shr) rfl hk, shift_apply v (op := .sar) rfl hk]
  refine ⟨⟨?_, iter_shl_snd v f.cf hn hk, rfl, result_describes f _, rfl, ?_⟩,
    ⟨?_, iter_shr_snd v f.cf hk, rfl, result_describes f _, rfl, ?_⟩,
    ⟨?_, iter_sar_snd v f.cf hn hk, rfl, result_describes f _, rfl, rfl⟩⟩
  · rw [iter_shl_fst, BitVec.toNat_shiftLeft, Nat.shiftLeft_eq]
  · exact if_congr Iff.rfl (overflow_left (.inr (.inr rfl)) v _ _) rfl
  · rw [iter_shr_fst, BitVec.toNat_ushiftRight, Nat.shiftRight_eq_div_pow]
  · rw [← BitVec.msb_eq_getLsbD_last]
    rfl
  · rw [iter_sar_fst, BitVec.toInt_sshiftRight, Int.shiftRight_eq_div_pow]
    rfl

/-! Double shifts (R541, R542). -/

/-- Bits moved up out of one word and the highest bits of another moved in below them do not overlap. -/
theorem toNat_shiftLeft_or_ushiftRight {n k m : Nat} (h : k + m = n) (x y : BitVec n) :
    (x <<< k ||| y >>> m).toNat = x.toNat * 2 ^ k % 2 ^ n + y.toNat / 2 ^ m := by
  have apart : x <<< k &&& y >>> m = 0 := by
    refine BitVec.eq_of_getLsbD_eq fun i hi => ?_
    rw [BitVec.getLsbD_and, BitVec.getLsbD_shiftLeft, BitVec.getLsbD_ushiftRight]
    by_cases low : i < k
    · rw [decide_eq_true low, Bool.not_true, Bool.and_false, Bool.false_and, Bool.false_and]
      exact BitVec.getLsbD_zero.symm
    · rw [BitVec.getLsbD_of_ge y (m + i) (by omega), Bool.and_false]
      exact BitVec.getLsbD_zero.symm
  rw [← BitVec.add_eq_or_of_and_eq_zero _ _ apart, BitVec.toNat_add_of_and_eq_zero apart, BitVec.toNat_shiftLeft,
    BitVec.toNat_ushiftRight, Nat.shiftLeft_eq, Nat.shiftRight_eq_div_pow]

section
variable {n : Nat} {f : Flags} {u : Status} {w v src : BitVec n} {k : Nat}

theorem shldApply_of_lt (hk : 0 < k) (hlt : k < n) :
    let res := v <<< k ||| src >>> (n - k)
    shldApply f u w v src k
      = (res, { f.result res with
          cf := v.getLsbD (n - k)
          af := u.af
          ov := if k = 1 then v.msb != res.msb else u.ov }) := by
  rw [shldApply, if_neg hk.ne', if_neg (Nat.not_le.mpr hlt)]

theorem shrdApply_of_lt (hk : 0 < k) (hlt : k < n) :
    let res := v >>> k ||| src <<< (n - k)
    shrdApply f u w v src k
      = (res, { f.result res with
          cf := v.getLsbD (k - 1)
          af := u.af
          ov := if k = 1 then v.msb != res.msb else u.ov }) := by
  rw [shrdApply, if_neg hk.ne', if_neg (Nat.not_le.mpr hlt)]

theorem shldApply_of_le (hk : 0 < k) (hge : n ≤ k) : shldApply f u w v src k = (w, f.undefined u) := by
  rw [shldApply, if_neg hk.ne', if_pos hge]

theorem shrdApply_of_le (hk : 0 < k) (hge : n ≤ k) : shrdApply f u w v src k = (w, f.undefined u) := by
  rw [shrdApply, if_neg hk.ne', if_pos hge]

end

theorem doubleShiftsAreExact : DoubleShiftsAreExact := by
  intro z f u w v src k hk
  refine ⟨?_, fun hge => ⟨shldApply_of_le hk hge, shrdApply_of_le hk hge⟩⟩
  intro x y hlt
  have hx : x = _ := shldApply_of_lt hk hlt
  have hy : y = _ := shrdApply_of_lt hk hlt
  rw [hx, hy, ← BitVec.msb_eq_getLsbD_last, ← BitVec.msb_eq_getLsbD_last, ← BitVec.msb_eq_getLsbD_last]
  refine ⟨⟨toNat_shiftLeft_or_ushiftRight (by omega) v src, rfl, rfl, result_describes f _, rfl, rfl⟩,
    ?_, rfl, rfl, result_describes f _, rfl, rfl⟩
  rw [BitVec.or_comm, toNat_shiftLeft_or_ushiftRight (by omega) src v, Nat.add_comm]

/-- Settles O57, from its six parts. -/
theorem arithmeticIsExact : Obligations.ArithmeticIsExact :=
  ⟨addsExactly, subtractsExactly, operationsAreExact, rotatesMoveBits, shiftsAreExact, doubleShiftsAreExact⟩

end Sys2Proof.Machine
end

section
/-! PROOFS. Decimal adjustment (O17): what the bodies of AAA and AAS, of AAD and AAM, and of DAA and DAS leave of the
state in which they start. -/

namespace Sys2Proof.Machine

/-! AL and AH are the halves of AX (R311). -/

theorem setWidth_read_ax (g : Regs) : (g.read .w .eax).setWidth 8 = g.read .b .eax :=
  BitVec.setWidth_setWidth_of_le g.eax (by decide)

theorem extractLsb'_read_ax (g : Regs) : (g.read .w .eax).extractLsb' 8 8 = g.read .b .esp :=
  BitVec.extractLsb'_setWidth_of_le (by decide)

@[simp] theorem run_freeStatus (s : State) :
    freeStatus s = .ok (statusAt s.draws) { s with draws := s.draws + 6 } := rfl

/-! The four bodies. -/

/-- AAA and AAS: the high digit and the low digit move by their amounts where the test holds, and the upper half of AL is
cleared in both cases (R500, R503). -/
theorem run_asciiAdjust (al6 ah1 : Byte → Byte) (t : State) :
    let al := t.regs.read .b .eax
    let ah := t.regs.read .b .esp
    let c := needsAdjust al t.flags.af
    asciiAdjust al6 ah1 t = .ok ()
      { setReg t .w .eax (if c then ah1 ah ++ (al6 al &&& 0x0F) else ah ++ (al &&& 0x0F)) with
        flags := asciiFlags t.flags (statusAt t.draws) c
        draws := t.draws + 6 } := by
  intro al ah c
  rw [asciiAdjust, run_bind_ok (run_readReg ..), run_bind_ok (run_freeStatus _), run_get_bind, setWidth_read_ax,
    extractLsb'_read_ax]
  by_cases hc : c = true
  · rw [if_pos hc, if_pos hc]
    rfl
  · rw [if_neg hc, if_neg hc]
    rfl

/-- AAD (R501). -/
theorem run_aadBody (t : State) :
    let al := t.regs.read .b .esp * 10 + t.regs.read .b .eax
    aadBody t = .ok ()
      { setReg t .w .eax (0#8 ++ al) with
        flags := baseTenFlags t.flags (statusAt t.draws) al
        draws := t.draws + 6 } := by
  intro al
  rw [aadBody, run_bind_ok (run_readReg ..), setWidth_read_ax, extractLsb'_read_ax]
  rfl

/-- AAM (R502). -/
theorem run_aamBody (t : State) :
    let al := t.regs.read .b .eax
    aamBody t = .ok ()
      { setReg t .w .eax (al / 10 ++ al % 10) with
        flags := baseTenFlags t.flags (statusAt t.draws) (al % 10)
        draws := t.draws + 6 } := rfl

/-- DAA and DAS: the second test is on what the first adjustment leaves in AL (R504, R505, D24). -/
theorem run_decimalAdjust (adj : Byte → Byte → Byte) (t : State) :
    let al := t.regs.read .b .eax
    let c := needsAdjust al t.flags.af
    let al1 := if c then adj al 0x06 else al
    let c2 := decide (0x9F < al1.toNat) || t.flags.cf
    let al2 := if c2 then adj al1 0x60 else al1
    decimalAdjust adj t = .ok ()
      { setReg t .b .eax al2 with
        flags := { t.flags.result al2 with af := c, cf := c2, ov := Config.freeBit t.draws }
        draws := t.draws + 1 } := by
  intro al c al1 c2 al2
  rw [decimalAdjust, run_bind_ok (run_readReg ..), run_bind_ok (run_freeBit _)]
  rfl

/-- Settles O17: the six instructions run the four bodies. -/
theorem decimalAdjustmentsChangeAxAndFlags : Obligations.DecimalAdjustmentsChangeAxAndFlags := fun _ hs =>
  ⟨instr_ok hs (run_asciiAdjust ..), instr_ok hs (run_asciiAdjust ..), instr_ok hs (run_aadBody _),
    instr_ok hs (run_aamBody _), instr_ok hs (run_decimalAdjust ..), instr_ok hs (run_decimalAdjust ..)⟩

end Sys2Proof.Machine
end

section
/-! PROOFS. Shifts, rotates and double shifts (O14): what their bodies leave at a place, for a masked count of 0 and for
any other, and the encodings that run them. -/

namespace Sys2Proof.Machine

/-! The shared shape of an instruction. -/

/-- A read before a write, at the place of an r/m operand: it leaves what an access leaves, and memory that is
still well formed. -/
theorem readRmw_accessed {z : Size} {p : Place} {s v : State} {a : z.Val} (hwf : Mem.wf s.mem = true)
    (hr : p.readRmw z s = .ok a v) : Accessed s v ∧ Mem.wf v.mem = true := by
  have hacc := (accessed_readRmw z p).ok hr
  exact ⟨hacc, accessed_wf hacc hwf⟩

/-! Shifts and rotates of a place (R531 to R539). -/

/-- The result and the flags for a masked count of 0: only the OF of a rotate is not the old one (R531, R536). -/
theorem ShiftOp.apply_zero {n : Nat} (op : ShiftOp) (f : Flags) (u : Status) (v : BitVec n) :
    op.apply f u v 0 = (v, if op.isRotate = true then { f with ov := u.ov } else f) := by
  cases op <;> rfl

section
variable {op : ShiftOp} {z : Size} {p : Place} {count : Byte} {a : z.Val} {s v t : State}

/-- A masked count of 0 writes nothing, and changes no flag but the OF of a rotate of a register. -/
theorem run_shiftTo_zero (hr : p.readRmw z s = .ok a v) (hc : count.toNat % 32 = 0) :
    shiftTo op z p count s = .ok ()
      { v with
        flags :=
          if op.isRotate = true ∧ p.isMem = false then { v.flags with ov := Config.freeBit (v.draws + 5) }
          else v.flags
        draws := v.draws + 6 } := by
  rw [shiftTo, hc, run_bind_ok hr, run_bind_ok (run_freeStatus v), run_get_bind, ShiftOp.apply_zero]
  cases p with
  | reg r => cases op <;> rfl
  | mem sr off => simp [Place.isMem]

/-- Any other count writes the result and sets the flags, once its read and its write have run. -/
theorem run_shiftTo (hr : p.readRmw z s = .ok a v) (hc : count.toNat % 32 ≠ 0)
    (hw : p.write z (op.apply v.flags (statusAt v.draws) a (count.toNat % 32)).1 { v with draws := v.draws + 6 }
      = .ok () t) :
    shiftTo op z p count s = .ok ()
      { t with flags := (op.apply v.flags (statusAt v.draws) a (count.toNat % 32)).2 } := by
  rw [shiftTo, run_bind_ok hr, run_bind_ok (run_freeStatus v), run_get_bind]
  simp only [if_pos hc, decide_eq_false hc, Bool.false_and, if_neg Bool.false_ne_true]
  exact run_bind_ok hw

end

theorem exec_shiftBody (op : ShiftOp) (f : ShiftForm) (s : State) : exec (op.instr f) s = instr (shiftBody op f) s := by
  cases op <;> rfl

/-- An encoding whose body is `shiftTo` at the operand's place, with a count that depends on the registers alone. -/
theorem shiftTo_of_body {op : ShiftOp} {f : ShiftForm} {z : Size} {rm : Rm} {count : State → Byte}
    (hbody : ∀ s p, place rm s = .ok p s → shiftBody op f s = shiftTo op z p (count s) s)
    (hcount : ∀ s t : State, t.regs = s.regs → count t = count s) : ShiftTo op (op.instr f) z rm count := by
  intro s p u a v hs hwf hp hr
  obtain rfl := place_same hp
  obtain ⟨hacc, hwf'⟩ := readRmw_accessed (s := markPoint s) hwf hr
  have completes {t : State} (h : shiftTo op z p (count v) (markPoint s) = .ok () t) :
      Completes (op.instr f) s t := by
    refine (exec_shiftBody op f s).trans (instr_ok hs ?_)
    rw [hbody _ p hp, ← hcount _ v (accessed_regs hacc), h]
  refine ⟨rfl, hacc, fun hc => completes (run_shiftTo_zero hr hc), fun hc t hw => ?_⟩
  obtain ⟨written, -⟩ := write_written (s := { v with draws := v.draws + 6 }) hwf' hw
  exact ⟨written, completes (run_shiftTo hr hc hw)⟩

/-! SHLD and SHRD (R541, R542). -/

/-- The result and the flags of SHLD and of SHRD. -/
def doubleApply {n : Nat} (left : Bool) (f : Flags) (u : Status) (undef v src : BitVec n) (count : Nat) :
    BitVec n × Flags :=
  if left then shldApply f u undef v src count else shrdApply f u undef v src count

section
variable {left : Bool} {z : Size} {rm : Rm} {r : Reg} {m : M Byte} {p : Place} {c : Byte} {a : z.Val} {s v t : State}

theorem run_doubleTo_zero (hp : place rm s = .ok p s) (hm : m s = .ok c s) (hr : p.readRmw z s = .ok a v)
    (hc : c.toNat % 32 = 0) : doubleTo left z rm r m s = .ok () { v with draws := v.draws + 7 } := by
  rw [doubleTo, run_bind_ok hp, run_bind_ok (run_readReg z r s), run_bind_ok hm, run_bind_ok hr, hc]
  cases left <;> rfl

/-- A count that is not 0 writes the result and sets the flags, once its read and its write have run. -/
theorem run_doubleTo (hp : place rm s = .ok p s) (hm : m s = .ok c s) (hr : p.readRmw z s = .ok a v)
    (hc : c.toNat % 32 ≠ 0)
    (hw : p.write z (doubleApply left v.flags (statusAt (v.draws + 1)) (ofWord z (Config.freeWord v.draws)) a
        (s.regs.read z r) (c.toNat % 32)).1 { v with draws := v.draws + 7 } = .ok () t) :
    doubleTo left z rm r m s = .ok ()
      { t with flags := (doubleApply left v.flags (statusAt (v.draws + 1)) (ofWord z (Config.freeWord v.draws)) a
        (s.regs.read z r) (c.toNat % 32)).2 } := by
  rw [doubleTo, run_bind_ok hp, run_bind_ok (run_readReg z r s), run_bind_ok hm, run_bind_ok hr,
    run_bind_ok (run_freeBits 32 v), run_bind_ok (run_freeStatus _), run_get_bind, BitVec.setWidth_eq]
  simp only [if_pos hc]
  exact run_bind_ok hw

end

/-- An encoding of SHLD or SHRD, whose count is read without a change of the state. -/
theorem doubleShift_of_doubleTo {i : Instr} {left : Bool} {z : Size} {rm : Rm} {r : Reg} {m : M Byte}
    {count : State → Byte} (hi : ∀ s, exec i s = instr (doubleTo left z rm r m) s)
    (hm : ∀ s, m (markPoint s) = .ok (count s) (markPoint s)) :
    DoubleShift i z rm r count (doubleApply left) := by
  intro s p u a v hs hwf hp hr
  obtain rfl := place_same hp
  obtain ⟨hacc, hwf'⟩ := readRmw_accessed (s := markPoint s) hwf hr
  refine ⟨rfl, hacc, fun hc => (hi s).trans (instr_ok hs (run_doubleTo_zero hp (hm s) hr hc)), fun hc t => ?_⟩
  intro x hw
  obtain ⟨written, -⟩ := write_written (s := { v with draws := v.draws + 7 }) hwf' hw
  exact ⟨written, (hi s).trans (instr_ok hs (run_doubleTo hp (hm s) hr hc hw))⟩

/-- Settles O14: every encoding runs `shiftTo` or `doubleTo`. -/
theorem shiftsWriteResultAndFlags : Obligations.ShiftsWriteResultAndFlags := by
  refine ⟨fun op => ⟨?_, ?_, ?_, ?_, ?_, ?_⟩, ?_, ?_, ?_, ?_⟩
  -- The count is 1 or an immediate.
  case refine_1 => exact fun _ => shiftTo_of_body (fun _ _ hp => run_bind_ok hp) fun _ _ _ => rfl
  case refine_3 | refine_4 => exact fun _ _ => shiftTo_of_body (fun _ _ hp => run_bind_ok hp) fun _ _ _ => rfl
  case refine_6 => exact fun _ _ _ => shiftTo_of_body (fun _ _ hp => run_bind_ok hp) fun _ _ _ => rfl
  -- The count is CL.
  case refine_2 => exact fun _ => shiftTo_of_body (fun _ _ hp => run_bind_ok hp) fun _ _ => read_of_regs .b .ecx
  case refine_5 => exact fun _ _ => shiftTo_of_body (fun _ _ hp => run_bind_ok hp) fun _ _ => read_of_regs .b .ecx
  -- SHLD, then SHRD.
  case refine_7 => exact fun _ _ _ _ => doubleShift_of_doubleTo (left := true) (fun _ => rfl) fun _ => rfl
  case refine_8 => exact fun _ _ _ => doubleShift_of_doubleTo (left := true) (fun _ => rfl) fun _ => rfl
  case refine_9 => exact fun _ _ _ _ => doubleShift_of_doubleTo (left := false) (fun _ => rfl) fun _ => rfl
  case refine_10 => exact fun _ _ _ => doubleShift_of_doubleTo (left := false) (fun _ => rfl) fun _ => rfl

end Sys2Proof.Machine
end

section
/-! PROOFS. Bit test, bit scan and byte set on condition (O15, O16): the bit that an operation changes, the operand that
a bit offset selects, the bit that a scan finds, and the instructions that run them. -/

namespace Sys2Proof.Machine

/-! One bit of an operand (R525 to R528). -/

/-- A bit instruction changes the bit it names and no other. -/
theorem bitsAreChangedSingly : BitsAreChangedSingly := by
  intro op z v k j hk hj
  have mask : (1#z.bits <<< k).getLsbD j = decide (j = k) := by
    rw [← BitVec.twoPow_eq, BitVec.getLsbD_twoPow, decide_eq_true hk, Bool.true_and]
    exact decide_eq_decide.mpr eq_comm
  have inverse : (~~~(1#z.bits <<< k)).getLsbD j = !decide (j = k) := by
    rw [BitVec.getLsbD_not, decide_eq_true hj, Bool.true_and, mask]
  by_cases h : j = k
  · subst h
    cases op <;> simp [BitOp.apply, BitOp.bit, mask, inverse]
  · cases op <;> simp [BitOp.apply, mask, inverse, h]

/-! The operand that a bit offset selects (R520, R521). -/

/-- A displaced effective address is the sum with the displacement, wrapped at the address size. -/
theorem toNat_displaceEa (e : Ea) (off : Word) (k : Int) :
    ((displaceEa e off (BitVec.ofInt 32 k)).toNat : Int) = (off.toNat + k) % 2 ^ eaBits e := by
  cases e with
  | m16 b d | abs16 d =>
    rw [displaceEa, eaBits, BitVec.toNat_setWidth_of_le (by decide), BitVec.toNat_setWidth, Int.natCast_emod,
      toNat_add_ofInt]
    exact Int.emod_emod_of_dvd _ (by decide)
  | m32 | abs32 | sib | sibAbs => exact toNat_add_ofInt off k

theorem run_bitPlace_mem {e : Ea} (h : eaUndefined e = false) (z : Size) (off : z.Val) (s : State) :
    bitPlace z (.mem e) off s = .ok (.mem (operandSeg s e) (displaceEa e (eaVal s.regs e) (bitDisp z off))) s := by
  rw [bitPlace, run_bind_ok (run_effAddr h s), run_get_bind, dataSeg_eaSeg]
  rfl

theorem bitOffsetsSelectOperands : BitOffsetsSelectOperands := by
  refine fun z off s => ⟨fun _ => rfl, fun e h => ⟨_, ?_, run_bitPlace_mem h z off s⟩⟩
  rw [bitDisp, toNat_displaceEa, Int.fdiv_eq_ediv_of_nonneg _ (Int.natCast_nonneg _)]

/-- Computing the place of a bit instruction's operand changes nothing. -/
theorem bitPlace_same {z : Size} {rm : Rm} {off : z.Val} {s t : State} {p : Place}
    (h : bitPlace z rm off s = .ok p t) : t = s := by
  cases rm with
  | reg r =>
    cases h
    rfl
  | mem e =>
    obtain ⟨ea, u, hea, h⟩ := bind_ok h
    obtain ⟨-, -, same⟩ := effAddr_ok hea
    cases h
    exact same

/-! BT, BTS, BTR and BTC (R525 to R528). -/

section
variable {z : Size} {p : Place} {k : Nat} {a : z.Val} {s v t : State}

/-- BT at a place that can be read. -/
theorem run_bitTo_test (hr : p.read z s = .ok a v) :
    bitTo .test z p k s = .ok ()
      { v with flags := v.flags.bitTest (statusAt v.draws) (a.getLsbD k), draws := v.draws + 6 } :=
  run_bind_ok hr

/-- BTS, BTR and BTC, once their read and their write have run. -/
theorem run_bitTo {op : BitOp} (hop : op ≠ .test) (hr : p.readRmw z s = .ok a v)
    (hw : p.write z (op.apply a k) { v with draws := v.draws + 6 } = .ok () t) :
    bitTo op z p k s = .ok () { t with flags := v.flags.bitTest (statusAt v.draws) (a.getLsbD k) } := by
  have kept : t.flags = v.flags := write_flags (s := { v with draws := v.draws + 6 }) hw
  rw [← kept]
  cases op
  case test => exact absurd rfl hop
  all_goals exact (run_bind_ok hr).trans (run_bind_ok hw)

end

/-- An instruction whose body is `bitTo` at the place that `pl` computes. -/
theorem bitsTo_of_body {op : BitOp} {i : Instr} {mem : Bool} {z : Size} {pl : M Place} {k : State → Nat}
    {body : M Unit} (hi : ∀ s, exec i s = lockable (op != .test && mem) body s)
    (hpl : ∀ s p t, pl s = .ok p t → t = s)
    (hbody : ∀ s p, pl (markPoint s) = .ok p (markPoint s) →
      body (markPoint s) = bitTo op z p (k s) (markPoint s)) : BitsTo op i mem z pl k := by
  intro s p u a v hs hwf hp hr
  obtain rfl := hpl _ _ _ hp
  have completes {t : State} (h : bitTo op z p (k s) (markPoint s) = .ok () t) : Completes i s t :=
    (hi s).trans (lockable_ok hs ((hbody s p hp).trans h))
  by_cases hop : op = .test
  · subst hop
    rw [if_pos rfl] at hr
    exact ⟨rfl, (accessed_read z p).ok hr, fun _ => completes (run_bitTo_test hr), fun h => absurd rfl h⟩
  · rw [if_neg hop] at hr
    obtain ⟨hacc, hwf'⟩ := readRmw_accessed (s := markPoint s) hwf hr
    refine ⟨rfl, hacc, fun h => absurd h hop, fun _ t hw => ?_⟩
    obtain ⟨written, -⟩ := write_written (s := { v with draws := v.draws + 6 }) hwf' hw
    exact ⟨written, completes (run_bitTo hop hr hw)⟩

theorem exec_instrImm (op : BitOp) (o : OSize) (rm : Rm) (i : BitVec 8) (s : State) :
    exec (op.instrImm o rm i) s = bitRmImm op o rm i s := by
  cases op <;> rfl

theorem exec_instrR (op : BitOp) (o : OSize) (rm : Rm) (r : Reg) (s : State) :
    exec (op.instrR o rm r) s = bitRmR op o rm r s := by
  cases op <;> rfl

theorem bitsTo_imm (op : BitOp) (o : OSize) (rm : Rm) (i : BitVec 8) :
    BitsTo op (op.instrImm o rm i) (rmIsMem rm) o.size (place rm) fun _ => i.toNat % o.size.bits :=
  bitsTo_of_body (exec_instrImm op o rm i) (fun _ _ _ => place_same) fun _ _ hp => run_bind_ok hp

theorem bitsTo_reg (op : BitOp) (o : OSize) (rm : Rm) (r : Reg) :
    BitsTo op (op.instrR o rm r) (rmIsMem rm) o.size
      (do
        let off ← readReg o.size r
        bitPlace o.size rm off)
      fun s => (s.regs.read o.size r).toNat % o.size.bits := by
  refine bitsTo_of_body (exec_instrR op o rm r) (fun s p t hp => ?_) fun s p hp => ?_
  · rw [run_bind_ok (run_readReg ..)] at hp
    exact bitPlace_same hp
  · rw [run_bind_ok (run_readReg ..)] at hp ⊢
    exact run_bind_ok hp

/-! BSF and BSR (R523, R524). -/

section
variable {w : Nat} {v : BitVec w}

/-- A scan upward that meets a set bit ends at the lowest one. -/
theorem scanUp_spec {n k i : Nat} (hi : v.getLsbD i = true) (hik : k ≤ i) (hin : i < k + n) :
    v.getLsbD (scanUp v n k) = true ∧ ∀ j, k ≤ j → v.getLsbD j = true → scanUp v n k ≤ j := by
  induction n generalizing k with
  | zero => omega
  | succ n ih =>
    rw [scanUp]
    split
    next hk => exact ⟨hk, fun j hj _ => hj⟩
    next hk =>
      have above {j : Nat} (hkj : k ≤ j) (hj : v.getLsbD j = true) : k + 1 ≤ j :=
        Nat.lt_of_le_of_ne hkj fun h => hk (h ▸ hj)
      obtain ⟨found, lowest⟩ := ih (above hik hi) (by omega)
      exact ⟨found, fun j hkj hj => lowest j (above hkj hj) hj⟩

/-- A scan downward that meets a set bit ends at the highest one. -/
theorem scanDown_spec {n i : Nat} (hi : v.getLsbD i = true) (hin : i < n) :
    v.getLsbD (scanDown v n) = true ∧ ∀ j, j < n → v.getLsbD j = true → j ≤ scanDown v n := by
  induction n with
  | zero => omega
  | succ n ih =>
    rw [scanDown]
    split
    next hn => exact ⟨hn, fun j hj _ => Nat.le_of_lt_succ hj⟩
    next hn =>
      have below {j : Nat} (hjn : j < n + 1) (hj : v.getLsbD j = true) : j < n :=
        Nat.lt_of_le_of_ne (Nat.le_of_lt_succ hjn) fun h => hn (h ▸ hj)
      obtain ⟨found, highest⟩ := ih (below hin hi)
      exact ⟨found, fun j hjn hj => highest j (below hjn hj) hj⟩

/-- A word that is not 0 has a set bit. -/
theorem exists_getLsbD_of_ne_zero (h : v ≠ 0) : ∃ i, v.getLsbD i = true := by
  have notAllClear : ¬∀ i, v.getLsbD i = false := mt BitVec.zero_iff_eq_false.mpr h
  simpa only [not_forall, Bool.not_eq_false] using notAllClear

theorem scanUp_lowest (h : v ≠ 0) :
    v.getLsbD (scanUp v w 0) = true ∧ ∀ j, v.getLsbD j = true → scanUp v w 0 ≤ j := by
  obtain ⟨i, hi⟩ := exists_getLsbD_of_ne_zero h
  obtain ⟨found, lowest⟩ := scanUp_spec hi (Nat.zero_le i) (by rw [Nat.zero_add]; exact BitVec.lt_of_getLsbD hi)
  exact ⟨found, fun j hj => lowest j (Nat.zero_le j) hj⟩

theorem scanDown_highest (h : v ≠ 0) :
    v.getLsbD (scanDown v w) = true ∧ ∀ j, v.getLsbD j = true → j ≤ scanDown v w := by
  obtain ⟨i, hi⟩ := exists_getLsbD_of_ne_zero h
  obtain ⟨found, highest⟩ := scanDown_spec hi (BitVec.lt_of_getLsbD hi)
  exact ⟨found, fun j hj => highest j (BitVec.lt_of_getLsbD hj) hj⟩

end

/-- The body of a scan: ZF says whether the source is 0, and then the destination is undefined. -/
theorem run_scanBody (z : Size) (r : Reg) (scan : z.Val → Nat) (v : z.Val) (t : State) :
    scanBody z r scan v t = .ok ()
      { setReg t z r (if v == 0 then ofWord z (Config.freeWord t.draws) else BitVec.ofNat z.bits (scan v)) with
        flags := t.flags.bitScan (statusAt (t.draws + 1)) (v == 0)
        draws := t.draws + 7 } := by
  rw [scanBody, run_bind_ok (run_freeBits 32 t), run_bind_ok (run_freeStatus _), BitVec.setWidth_eq]
  rfl

theorem scans_of_useRm {i : Instr} {z : Size} {r : Reg} {rm : Rm} {scan : z.Val → Nat} {best : Nat → Nat → Prop}
    (hi : ∀ s, exec i s = useRm z rm (scanBody z r scan) s)
    (hscan : ∀ v, v ≠ 0 → v.getLsbD (scan v) = true ∧ ∀ j, v.getLsbD j = true → best (scan v) j) :
    Scans i z r rm best := by
  intro s v t hs hr
  have completes := (hi s).trans (useRm_ok hs hr (run_scanBody z r scan v t))
  refine ⟨readRm_accessed hr, fun h => ?_, fun h => ?_⟩
  · rw [beq_iff_eq.mpr h] at completes
    exact completes
  · obtain ⟨found, isBest⟩ := hscan v h
    rw [beq_eq_false_iff_ne.mpr h] at completes
    exact ⟨scan v, BitVec.lt_of_getLsbD found, found, isBest, completes⟩

/-- Settles O15, from `bitsTo_imm`, `bitsTo_reg` and the two scans. -/
theorem bitInstructionsTestAndChangeOneBit : Obligations.BitInstructionsTestAndChangeOneBit :=
  ⟨bitsAreChangedSingly, bitOffsetsSelectOperands,
    fun op o rm => ⟨bitsTo_imm op o rm, bitsTo_reg op o rm⟩,
    fun _ _ _ => scans_of_useRm (fun _ => rfl) fun _ => scanUp_lowest,
    fun _ _ _ => scans_of_useRm (fun _ => rfl) fun _ => scanDown_highest⟩

/-! SETcc (R540). -/

theorem setWidth_ofBool_condHolds (c : Cond) (s : State) :
    (BitVec.ofBool (condHolds c s.flags)).setWidth 8 = condByte c s := by
  rw [condByte]
  cases condHolds c s.flags <;> rfl

theorem stores_of_setCond {i : Instr} {c : Cond} {rm : Rm} (hi : ∀ s, exec i s = setCond c rm s) :
    Stores i .b rm (condByte c) :=
  stores_of_write hi fun s p hp => by
    rw [run_get_bind, markPoint_flags, setWidth_ofBool_condHolds, writeRm, run_bind_ok hp]

/-- Settles O16: the sixteen instructions are `setCond` of their conditions. -/
theorem setccStoresTheCondition : Obligations.SetccStoresTheCondition := by
  intro rm
  and_intros <;> exact stores_of_setCond fun _ => rfl

end Sys2Proof.Machine
end

section
/-! PROOFS. Near transfers (O18 to O20): what an access to the stack keeps, what is left of an instruction once its
first operations have run, and the conditional jumps, loops, calls and returns within the code segment. -/

namespace Sys2Proof.Machine

/-! What accesses, pushes and pops keep. -/

/-- The code and the mode in which the program runs are as before. -/
structure SameContext (s t : State) : Prop where
  segs : t.segs = s.segs
  eip : t.eip = s.eip
  cpl : t.cpl = s.cpl
  flags : t.flags = s.flags
  sys : t.sys = s.sys
  mode : t.cur.mode = s.cur.mode

theorem SameContext.trans {s t u : State} (h : SameContext s t) (h' : SameContext t u) : SameContext s u :=
  ⟨h'.segs.trans h.segs, h'.eip.trans h.eip, h'.cpl.trans h.cpl, h'.flags.trans h.flags, h'.sys.trans h.sys,
    h'.mode.trans h.mode⟩

theorem sameContext_accessed {s t : State} (h : Accessed s t) : SameContext s t := by
  obtain ⟨x, -, rfl⟩ := h
  exact ⟨rfl, rfl, rfl, rfl, rfl, rfl⟩

theorem sameContext_pushed {z : Size} {s t : State} (h : Pushed z s t) : SameContext s t := by
  obtain ⟨u, ⟨x, cells, -, -, hu, -⟩, rfl⟩ := h
  rw [hu]
  exact ⟨rfl, rfl, rfl, rfl, rfl, rfl⟩

theorem sameContext_popped {z : Size} {s t : State} (h : Popped z s t) : SameContext s t := by
  obtain ⟨u, ⟨x, -, rfl⟩, rfl⟩ := h
  exact ⟨rfl, rfl, rfl, rfl, rfl, rfl⟩

theorem SameContext.pe {s t : State} (h : SameContext s t) : t.pe = s.pe := by
  rw [State.pe, State.pe, h.mode, h.sys]

theorem SameContext.isReal {s t : State} (h : SameContext s t) : t.isReal = s.isReal := by
  rw [State.isReal, State.isReal, h.pe]

theorem SameContext.isProtected {s t : State} (h : SameContext s t) : t.isProtected = s.isProtected := by
  rw [State.isProtected, State.isProtected, h.pe, h.flags]

theorem SameContext.nearFits {s t : State} (h : SameContext s t) (v : Word) : NearFits t v ↔ NearFits s v := by
  rw [NearFits, NearFits, h.isProtected, h.segs]

/-! What is left of an instruction. -/

/-- What is left of the instruction `i`, which began in `s`, is the computation `rest` in the state `m`. -/
structure GoesOn (i : Instr) (s : State) (rest : M Unit) (m : State) : Prop where
  completes : ∀ {t}, rest m = .ok () t → Completes i s t
  raises : ∀ {e t}, rest m = .error (.exc e) t → exec i s = deliverExc e (markPoint s) t

theorem goesOn_of_instr {i : Instr} {s : State} {body : M Unit} (hi : exec i s = instr body s) (hs : Plain s) :
    GoesOn i s body (markPoint s) :=
  ⟨fun h => hi.trans (instr_ok hs h), fun h => hi.trans (instr_exc hs h)⟩

theorem GoesOn.after {i : Instr} {s m u : State} {rest rest' : M Unit} (h : GoesOn i s rest m)
    (e : rest m = rest' u) : GoesOn i s rest' u :=
  ⟨fun h' => h.completes (e.trans h'), fun h' => h.raises (e.trans h')⟩

theorem goesOn_of_useRm {i : Instr} {z : Size} {rm : Rm} {f : z.Val → M Unit} {s u : State} {v : z.Val}
    (hi : exec i s = useRm z rm f s) (hs : Plain s) (hr : readRm z rm (markPoint s) = .ok v u) :
    GoesOn i s (f v) u :=
  (goesOn_of_instr hi hs).after (run_bind_ok hr)

/-! Near jumps (R601, R620, R622). -/

/-- The offset under an operand size is the target of a relative jump. -/
theorem codeOffset_relTarget (o : OSize) (d : Word) (s : State) : codeOffset o (s.eip + d) = relTarget o d s := by
  cases o with
  | o16 =>
    apply BitVec.eq_of_toNat_eq
    rw [codeOffset, relTarget, BitVec.toNat_and, BitVec.toNat_setWidth_of_le (by decide), BitVec.toNat_setWidth]
    exact Nat.and_two_pow_sub_one_eq_mod _ 16
  | o32 => rfl

theorem nearFits_iff (s : State) (v : Word) : (!s.isProtected || s.segs.cs.inLimit v 1) = true ↔ NearFits s v := by
  cases hp : s.isProtected <;> simp [NearFits, hp]

theorem run_checkNear {s : State} {v : Word} (h : NearFits s v) : checkNear v s = .ok () s := by
  rw [checkNear, run_get_bind, (nearFits_iff s v).mpr h]
  rfl

theorem checkNear_error {s : State} {v : Word} (h : ¬NearFits s v) : checkNear v s = .error (.exc (.gp 0)) s := by
  rw [checkNear, run_get_bind, Bool.eq_false_iff.mpr (mt (nearFits_iff s v).mp h)]
  rfl

theorem run_jumpNear {s : State} {v : Word} (h : NearFits s v) : jumpNear v s = .ok () (goTo s v) :=
  run_bind_ok (run_checkNear h)

theorem jumpNear_error {s : State} {v : Word} (h : ¬NearFits s v) : jumpNear v s = .error (.exc (.gp 0)) s :=
  run_bind_error (checkNear_error h)

theorem run_jumpRel (o : OSize) (d : Word) (s : State) : jumpRel o d s = jumpNear (relTarget o d s) s := by
  rw [jumpRel, run_get_bind, codeOffset_relTarget]

/-- A relative jump on a condition is a near jump on that condition. -/
theorem run_jumpRel_if {p q : Prop} [Decidable p] [Decidable q] (h : p ↔ q) (o : OSize) (d : Word) (s : State) :
    (if p then jumpRel o d else pure ()) s = (if q then jumpNear (relTarget o d s) else pure ()) s := by
  by_cases hp : p
  · rw [if_pos hp, if_pos (h.mp hp), run_jumpRel]
  · rw [if_neg hp, if_neg (mt h.mpr hp)]

/-- An instruction whose body jumps near on a condition, after a change that does not reach the code segment. -/
theorem jumpsIf_of_body {i : Instr} {c : State → Bool} {target : State → Word} {pre : State → State} {body : M Unit}
    (hi : ∀ s, exec i s = instr body s) (hpre : ∀ s v, NearFits (pre (markPoint s)) v ↔ NearFits s v)
    (hbody : ∀ s, body (markPoint s) = (if c s then jumpNear (target s) else pure ()) (pre (markPoint s))) :
    JumpsIf i c target pre := by
  intro s hs
  have left := (goesOn_of_instr (hi s) hs).after (hbody s)
  cases hc : c s with
  | false =>
    rw [hc] at left
    exact ⟨fun _ => left.completes rfl, nofun, nofun⟩
  | true =>
    rw [hc] at left
    exact ⟨nofun, fun _ hfit => left.completes (run_jumpNear ((hpre s _).mpr hfit)),
      fun _ hout => left.raises (jumpNear_error (mt (hpre s _).mp hout))⟩

theorem jumpsIf_jumpRel {i : Instr} {o : OSize} {d : Word} (hi : ∀ s, exec i s = instr (jumpRel o d) s) :
    JumpsIf i (fun _ => true) (relTarget o d) id :=
  jumpsIf_of_body hi (fun _ _ => Iff.rfl) fun s => run_jumpRel o d (markPoint s)

/-! Jcc, JCXZ and JECXZ (R620, R621). -/

theorem exec_jccInstr (c : Cond) (f : JccForm) (s : State) : exec (jccInstr c f) s = instr (jccBody c f) s := by
  cases c <;> rfl

theorem jumpsIf_jcc (c : Cond) (f : JccForm) :
    JumpsIf (jccInstr c f) (fun s => condHolds c s.flags) (jccTarget f) id := by
  refine jumpsIf_of_body (exec_jccInstr c f) (fun _ _ => Iff.rfl) fun s => ?_
  unfold jccBody
  rw [run_get_bind]
  cases f <;> exact run_jumpRel_if Iff.rfl _ _ (markPoint s)

theorem condHolds_iff (c : Cond) (f : Flags) : condHolds c f = true ↔ condMeans c f := by
  cases c <;> simp [condHolds, condMeans]

/-- A jump on a count register of 0. -/
theorem jumpsIf_zero {i : Instr} {o : OSize} {d : Word} {z : Size}
    (hi : ∀ s, exec i s = instr (do let c ← readReg z .ecx; if c = 0 then jumpRel o d) s) :
    JumpsIf i (fun s => s.regs.read z .ecx == 0) (relTarget o d) id := by
  refine jumpsIf_of_body hi (fun _ _ => Iff.rfl) fun s => ?_
  rw [run_bind_ok (run_readReg ..)]
  exact run_jumpRel_if beq_iff_eq.symm o d (markPoint s)

/-- Settles O18: the sixteen conditional jumps are one body, and so are the two jumps on the count register. -/
theorem conditionalJumpsFollowTheirCondition : Obligations.ConditionalJumpsFollowTheirCondition :=
  ⟨jumpsIf_jcc, condHolds_iff, fun _ _ => jumpsIf_zero fun _ => rfl, fun _ _ => jumpsIf_zero (z := .d) fun _ => rfl⟩

/-! LOOP, LOOPE and LOOPNE (R624). -/

theorem sub_one_bne_zero {n : Nat} (c : BitVec n) : (c - 1 != 0) = (c != 1) := by
  rw [Bool.eq_iff_iff, bne_iff_ne, bne_iff_ne, ne_eq, ne_eq, sub_eq_zero]

theorem loopsWhile_of_body {i : Instr} {o : OSize} {a : ASize} {d : BitVec 8} {ok : Bool → Bool}
    (hi : ∀ s, exec i s = instr (loopBody o a d ok) s) : LoopsWhile i o a d ok := by
  refine jumpsIf_of_body hi (fun _ _ => Iff.rfl) fun s => ?_
  rw [loopBody, run_bind_ok (run_readReg ..), run_bind_ok (run_writeReg ..), run_get_bind, sub_one_bne_zero]
  exact run_jumpRel_if Iff.rfl o _ (setReg (markPoint s) _ _ _)

/-- Settles O19: the three instructions share `loopBody`. -/
theorem loopsCountDownAndJump : Obligations.LoopsCountDownAndJump :=
  fun _ _ _ => ⟨loopsWhile_of_body fun _ => rfl, loopsWhile_of_body fun _ => rfl, loopsWhile_of_body fun _ => rfl⟩

/-! Near calls and returns (R601, R602, R625). -/

theorem run_callNear {o : OSize} {v : Word} {s t : State} (hfit : NearFits s v)
    (hp : push o.size s.eip s = .ok () t) : callNear o v s = .ok () (goTo t v) := by
  rw [callNear, run_bind_ok (run_checkNear hfit), run_get_bind, run_bind_ok hp]
  rfl

theorem callNear_error {o : OSize} {v : Word} {s : State} (h : ¬NearFits s v) :
    callNear o v s = .error (.exc (.gp 0)) s :=
  run_bind_error (checkNear_error h)

theorem callsNear_of_body {i : Instr} {o : OSize} {target : State → Word} {body : M Unit}
    (hi : ∀ s, exec i s = instr body s) (hbody : ∀ s, body (markPoint s) = callNear o (target s) (markPoint s)) :
    CallsNear i o target := by
  intro s hs hwf
  have left := (goesOn_of_instr (hi s) hs).after (hbody s)
  refine ⟨fun t hfit hp => ⟨?_, left.completes (run_callNear hfit hp)⟩, fun hout => left.raises (callNear_error hout)⟩
  obtain ⟨pushed, -⟩ := push_pushed (s := markPoint s) hwf hp
  exact pushed

theorem returnsNear_of_body {i : Instr} {o : OSize} {n : BitVec 16}
    (hi : ∀ s, exec i s = instr (retNearBody o n) s) : ReturnsNear i o n := by
  intro s v t hs hp
  have popped := pop_popped hp
  have fits : NearFits t v ↔ NearFits s v := (sameContext_popped popped).nearFits v
  have left := (goesOn_of_instr (hi s) hs).after (run_bind_ok hp)
  refine ⟨popped, fun hfit => left.completes ?_, fun hout => left.raises ?_⟩
  · rw [run_bind_ok (run_checkNear (fits.mpr hfit))]
    rfl
  · exact run_bind_error (checkNear_error (mt fits.mp hout))

/-- Settles O20: a transfer with an r/m operand goes on with its near jump or call once the operand has been read; the
others are one shape each. -/
theorem nearTransfersSetTheInstructionPointer : Obligations.NearTransfersSetTheInstructionPointer := by
  refine ⟨fun _ _ => jumpsIf_jumpRel fun _ => rfl, fun _ => jumpsIf_jumpRel fun _ => rfl,
    fun _ => jumpsIf_jumpRel fun _ => rfl, fun o rm s v t hs hr => ?_,
    fun d => callsNear_of_body (fun _ => rfl) fun s => ?_, fun d => callsNear_of_body (fun _ => rfl) fun s => rfl,
    fun o rm s v u hs hwf hr => ?_, fun _ => returnsNear_of_body fun _ => rfl,
    fun _ _ => returnsNear_of_body fun _ => rfl⟩
  · have read := readRm_accessed hr
    have fits : NearFits t (toWord o.size v) ↔ NearFits s (toWord o.size v) := (sameContext_accessed read).nearFits _
    have left : GoesOn (.jmpRmv o rm) s (jumpNear (toWord o.size v)) t :=
      goesOn_of_useRm (f := fun v => jumpNear (toWord o.size v)) rfl hs hr
    exact ⟨read, fun hfit => left.completes (run_jumpNear (fits.mpr hfit)),
      fun hout => left.raises (jumpNear_error (mt fits.mp hout))⟩
  · rw [run_get_bind, codeOffset_relTarget]
    rfl
  · have read := readRm_accessed hr
    have kept := sameContext_accessed read
    have fits : NearFits u (toWord o.size v) ↔ NearFits s (toWord o.size v) := kept.nearFits _
    have left : GoesOn (.callRmv o rm) s (callNear o (toWord o.size v)) u :=
      goesOn_of_useRm (f := fun v => callNear o (toWord o.size v)) rfl hs hr
    refine ⟨read, fun t hfit hp => ⟨?_, left.completes (run_callNear (fits.mpr hfit) ?_)⟩,
      fun hout => left.raises (callNear_error (mt fits.mp hout))⟩
    · obtain ⟨pushed, -⟩ := push_pushed (accessed_wf read hwf) hp
      exact pushed
    · rw [kept.eip]
      exact hp

end Sys2Proof.Machine
end

section
/-! PROOFS. Software interrupts and BOUND (O23, O24). -/

namespace Sys2Proof.Machine

theorem run_softInt {n : Byte} {s t : State} (h : enter (.soft n) s = .ok () t) :
    softInt n s = .ok () { t with cur := { t.cur with soft := true } } :=
  run_bind_ok h

theorem intAdmitted_iff (s : State) :
    (!(s.isV86 && s.flags.iopl != 3)) = true ↔ (s.isV86 = true → s.flags.iopl = 3) := by
  cases hv : s.isV86 <;> simp

/-- Settles O23: INT n goes on with its interrupt where the IOPL test admits it, and INTO where OF is set. -/
theorem softwareInterruptsTakeTheirVector : Obligations.SoftwareInterruptsTakeTheirVector := by
  intro s hs
  have int3 : GoesOn .int3 s (softInt 3) (markPoint s) := goesOn_of_instr rfl hs
  have intN (n : Byte) : GoesOn (.intImm8 n) s
      (do require (!(s.isV86 && s.flags.iopl != 3)) (.gp 0); softInt n) (markPoint s) :=
    (goesOn_of_instr rfl hs).after rfl
  have into : GoesOn .into s (if s.flags.ov then softInt 4 else pure ()) (markPoint s) :=
    (goesOn_of_instr rfl hs).after rfl
  refine ⟨fun t ht => int3.completes (run_softInt ht), fun n hiopl t ht => (intN n).completes ?_,
    fun n hv hiopl => (intN n).raises ?_, fun hof t ht => into.completes ?_, fun hof => into.completes ?_⟩
  · rw [require_bind ((intAdmitted_iff s).mpr hiopl), run_softInt ht]
  · exact require_bind_false (Bool.eq_false_iff.mpr fun h => hiopl ((intAdmitted_iff s).mp h hv))
  · rw [if_pos hof, run_softInt ht]
  · rw [if_neg (Bool.eq_false_iff.mp hof)]
    rfl

/-- Settles O24: once the two bounds are read, BOUND is left with one signed comparison. -/
theorem boundComparesSignedBounds : Obligations.BoundComparesSignedBounds := by
  intro o r ea s off w lo u hi t hs hea hlo hhi v inside
  obtain ⟨-, -, rfl⟩ := effAddr_ok hea
  let index := s.regs.read o.size r
  have left : GoesOn (.bound o r ea) s
      (require ((ofWord o.size lo).sle index && index.sle (ofWord o.size hi)) .br) t := by
    refine (goesOn_of_instr rfl hs).after ?_
    rw [run_bind_ok (run_readReg ..), run_bind_ok hea, run_get_bind, markPoint_dataSeg, run_bind_ok hlo,
      run_bind_ok hhi]
    rfl
  have compares : ((ofWord o.size lo).sle index && index.sle (ofWord o.size hi)) = true ↔ inside := by
    rw [Bool.and_eq_true, BitVec.sle_iff_toInt_le, BitVec.sle_iff_toInt_le]
  refine ⟨accessed_trans ((accessed_readMem ..).ok hlo) ((accessed_readMem ..).ok hhi), fun hin => left.completes ?_,
    fun hout => left.raises ?_⟩
  · rw [compares.mpr hin]
    rfl
  · rw [Bool.eq_false_iff.mpr (mt compares.mp hout)]
    rfl

end Sys2Proof.Machine
end

section
/-! PROOFS. Far transfers outside protected mode, and far returns in every mode (O21): the pointer of a far JMP or CALL,
the pushes of a return address, and the frame that RET pops. -/

namespace Sys2Proof.Machine

/-! What the pushes of items and the pops leave. -/

theorem Item.drawn_mem (x : Item) (s : State) : (x.drawn s).mem = s.mem := by cases x <;> rfl

theorem sameContext_refl (s : State) : SameContext s s := ⟨rfl, rfl, rfl, rfl, rfl, rfl⟩

theorem sameContext_drawn (x : Item) (s : State) : SameContext s (x.drawn s) := by
  cases x <;> exact ⟨rfl, rfl, rfl, rfl, rfl, rfl⟩

theorem pushed_of_pushesItems {z : Size} {l : List Item} {s t : State} (hwf : Mem.wf s.mem = true)
    (h : PushesItems z l s t) : PushedItems z l s t ∧ Mem.wf t.mem = true := by
  induction l generalizing s with
  | nil =>
    obtain rfl := h
    exact ⟨rfl, hwf⟩
  | cons x rest ih =>
    obtain ⟨u, hp, hrest⟩ := h
    obtain ⟨pushed, hwf'⟩ := push_pushed (s := x.drawn s) (by rw [x.drawn_mem]; exact hwf) hp
    obtain ⟨pushedRest, hwf''⟩ := ih hwf' hrest
    exact ⟨⟨u, pushed, pushedRest⟩, hwf''⟩

theorem sameContext_pushedItems {z : Size} {l : List Item} {s t : State} (h : PushedItems z l s t) :
    SameContext s t := by
  induction l generalizing s with
  | nil =>
    obtain rfl := h
    exact sameContext_refl _
  | cons x rest ih =>
    obtain ⟨u, hp, hrest⟩ := h
    exact ((sameContext_drawn x s).trans (sameContext_pushed hp)).trans (ih hrest)

theorem sameContext_poppedChain {z : Size} {n : Nat} {s t : State} (h : PoppedChain z n s t) : SameContext s t := by
  induction n generalizing s with
  | zero =>
    obtain rfl := h
    exact sameContext_refl _
  | succ n ih =>
    obtain ⟨u, hp, hrest⟩ := h
    exact (sameContext_popped hp).trans (ih hrest)

theorem run_pushSelValue {z : Size} {sel : Half} {v : Word} {s t : State}
    (h : PushesItems z [.sel sel, .value v] s t) : (do pushSel z sel; push z v : M Unit) s = .ok () t := by
  obtain ⟨u, hsel, w, hval, rfl⟩ := h
  have first : pushSel z sel s = .ok () u := hsel
  rw [run_bind_ok first]
  exact hval

theorem run_pushSelValue_bind {β : Type} {z : Size} {sel : Half} {v : Word} {s t : State}
    (h : PushesItems z [.sel sel, .value v] s t) (rest : M β) :
    (do pushSel z sel; push z v; rest) s = rest t := by
  have pair := run_bind_ok (f := fun _ => rest) (run_pushSelValue h)
  rwa [bind_assoc] at pair

/-- The return address of a far call is two items (R603, R605). -/
theorem run_pushFarReturn {z : Size} {s t : State} (h : PushesItems z [.sel s.segs.cs.sel, .value s.eip] s t) :
    pushFarReturn z s = .ok () t := by
  rw [pushFarReturn, run_get_bind]
  exact run_pushSelValue h

theorem pushesItems_of_pushesReturn {z : Size} {s t : State} (h : PushesReturn z s t) :
    PushesItems z [.sel s.segs.cs.sel, .value s.eip] s t := by
  obtain ⟨u, hcs, heip⟩ := h
  exact ⟨u, hcs, t, heip, rfl⟩

/-- What the two pushes of a return address leave. -/
theorem pushed_of_pushesReturn {z : Size} {s t : State} (hwf : Mem.wf s.mem = true) (h : PushesReturn z s t) :
    PushedChain z 2 { s with draws := s.draws + 1 } t ∧ SameContext s t := by
  obtain ⟨pushed, -⟩ := pushed_of_pushesItems hwf (pushesItems_of_pushesReturn h)
  exact ⟨pushed, sameContext_pushedItems pushed⟩

/-! The pointer (R601, R603, R604, R623). -/

/-- Once their pointer has been read, a far JMP and a far CALL are left with their transfer. -/
theorem farOperand_goesOn {j c : Instr} {o : OSize} {s m : State} {sel : Half} {off : Word}
    (h : FarOperand j c o s sel off m) (hs : Plain s) :
    Accessed (markPoint s) m ∧ GoesOn j s (jmpFar sel off) m ∧ GoesOn c s (callFar o sel off) m := by
  cases h with
  | ptr16 | ptr32 => exact ⟨composes_accessed.refl _, goesOn_of_instr rfl hs, goesOn_of_instr rfl hs⟩
  | mem _ _ _ _ _ _ hr =>
    exact ⟨accessed_readFarPtr hr, (goesOn_of_instr rfl hs).after (run_bind_ok (f := fun x => jmpFar x.2 x.1) hr),
      (goesOn_of_instr rfl hs).after (run_bind_ok (f := fun x => callFar o x.2 x.1) hr)⟩

/-! Outside protected mode (R150, R151, R603, R623, R626). -/

section
variable {s t : State} {sel : Half} {off : Word}

theorem run_loadCsReal (h : SameContext s t) (sel : Half) :
    loadCsReal sel t = .ok () (withSeg t .cs (csOf8086 s sel)) := by
  unfold csOf8086
  rw [← h.isReal, ← h.segs]
  rfl

theorem run_loadCsReal_setEip (h : SameContext s t) :
    (do loadCsReal sel; setEip off : M Unit) t = .ok () (goFar t (csOf8086 s sel) off) :=
  run_bind_ok (run_loadCsReal h sel)

theorem run_jmpFar_8086 (h : SameContext s t) (hp : s.isProtected = false) :
    jmpFar sel off t = .ok () (goFar t (csOf8086 s sel) off) := by
  rw [jmpFar, run_get_bind, h.isProtected, hp]
  exact run_loadCsReal_setEip h

theorem run_callFar_8086 {o : OSize} {u : State} (h : SameContext s t) (hp : s.isProtected = false)
    (hpush : PushesReturn o.size t u) (hu : SameContext t u) :
    callFar o sel off t = .ok () (goFar u (csOf8086 s sel) off) := by
  rw [callFar, run_get_bind, h.isProtected, hp]
  exact (run_bind_ok (run_pushFarReturn (pushesItems_of_pushesReturn hpush))).trans
    (run_loadCsReal_setEip (h.trans hu))

end

theorem returnsFar_of_body {i : Instr} {o : OSize} {n : BitVec 16} (hi : ∀ s, exec i s = instr (retFarBody o n) s) :
    ReturnsFar i o n := by
  intro s ip cs t hs hp hpop
  have popped : PoppedChain o.size 2 (markPoint s) t := popped_of_popChain hpop
  have kept := sameContext_poppedChain popped
  refine ⟨popped, (goesOn_of_instr (hi s) hs).completes ?_⟩
  obtain ⟨u, hip, v, hcs, rfl⟩ := hpop
  rw [retFarBody, run_get_bind, markPoint_isProtected, hp, if_neg Bool.false_ne_true, run_bind_ok hip, run_bind_ok hcs,
    run_bind_ok (run_loadCsReal kept _)]
  rfl

/-! RET far in protected mode (R627). -/

/-- A far return in protected mode goes by the level of the selector in its frame. -/
theorem run_retFarBody {o : OSize} {n : BitVec 16} {s s₁ : State} {sel : Half} (hp : s.isProtected = true)
    (hsel : ReturnSelector o.size.bytes s sel s₁) (hl : s.cpl.toNat ≤ (rpl sel).toNat) :
    retFarBody o n s = (if rpl sel == s.cpl then retFarSame o.size n sel else retFarOuter o.size n sel) s₁ := by
  rw [retFarBody, run_get_bind, if_pos hp, run_bind_ok (run_returnSel hsel), require_bind (decide_eq_true hl)]

/-- The far return to the same level runs to its end. -/
theorem run_retFarSame {z : Size} {n : BitVec 16} {sel : Half} {lin eip : Word} {d : Desc} {s s₂ s₃ t : State}
    (hn : selNull sel = false) (hd : fetchDesc sel (.gp (selCode sel false)) s = .ok (lin, d) s₂)
    (htop : needTop 0 (2 * z.bytes) s₂ = .ok () s₂) (heip : peekStack z 0 s₂ = .ok eip s₃)
    (hfits : ReturnFits sel d eip) (hmark : markAccessed lin d s₃ = .ok () t) :
    retFarSame z n sel s = .ok ()
      (atSp (goFar t (d.accessed.toSeg sel) eip) (s.regs.esp + BitVec.ofNat 32 (2 * z.bytes) + n.setWidth 32)) := by
  rw [retFarSame, run_get_bind, run_bind_ok (run_checkReturnCs hn hd hfits)]
  dsimp only
  rw [run_bind_ok htop, run_bind_ok heip, run_bind_ok (run_checkTarget hfits s₃), run_bind_ok (run_loadFromDesc hmark)]
  rfl

theorem returnsFarSame_of_body {i : Instr} {o : OSize} {n : BitVec 16}
    (hi : ∀ s, exec i s = instr (retFarBody o n) s) : ReturnsFarSame i o.size n := by
  intro s sel s₁ lin d s₂ eip s₃ t hs hp hsel hrpl hn hd htop heip hfits hmark
  have a₁ : Accessed (markPoint s) s₁ := accessed_returnSelector hsel
  have a₂ : Accessed (markPoint s) s₂ := accessed_trans a₁ (accessed_fetch hd)
  refine ⟨accessed_trans a₂ (accessed_trans (accessed_peek heip) (accessed_mark hmark)),
    (goesOn_of_instr (hi s) hs).completes ?_⟩
  have same : (rpl sel == (markPoint s).cpl) = true := beq_iff_eq.mpr hrpl
  have run := run_retFarSame (n := n) hn hd (run_needTop_accessed a₂ htop) heip hfits hmark
  rw [esp_accessed a₁] at run
  rw [run_retFarBody (s := markPoint s) hp hsel (by rw [hrpl]; exact le_refl _), if_pos same]
  exact run

/-- The stack pointer of a far return to an outer level, once its stack segment is loaded (R15, R627, D61). -/
theorem run_retEsp (z : Size) (t : State) (ss : Half) (sd : Desc) (esp : Word) :
    retEsp z sd esp (withSeg t .ss (sd.accessed.toSeg ss)) = .ok ()
      (if z = .w ∧ sd.db = true then
        { onStack t ss sd true ((Config.freeWord t.draws).setWidth 16 ++ (esp.setWidth 16 : Half)) with
          draws := t.draws + 1 }
      else onStack t ss sd sd.db esp) := by
  by_cases h : z = .w ∧ sd.db = true
  · rw [retEsp, if_pos (by simpa using h), if_pos h]
    rfl
  · rw [retEsp, if_neg (by simpa using h), if_neg h]
    rfl

/-- The end of a far return to an outer level: the stack pointer, the immediate, the level, and the data segments that
the level may not hold (R627). -/
theorem run_retFarOuterEnd (z : Size) (t : State) (n : BitVec 16) (l : BitVec 2) (ss : Half) (sd : Desc)
    (esp eip : Word) :
    (do retEsp z sd esp; dropStack n; setCpl l; nullOuter l; setEip eip : M Unit)
        (withSeg t .ss (sd.accessed.toSeg ss))
      = .ok () (atOuter t z sd.db n.toNat l ss sd esp eip) := by
  rw [run_bind_ok (run_retEsp z t ss sd esp)]
  simp only [atOuter, BitVec.ofNat_toNat, ← afterOuter_eq]
  rfl

/-- The far return to an outer level runs to its end. -/
theorem run_retFarOuter {z : Size} {n : BitVec 16} {sel ssel : Half} {lin slin eip esp ss : Word} {d sd : Desc}
    {s s₂ s₃ s₄ s₅ s₆ s₇ t : State} (hss : ssel = ss.setWidth 16)
    (htop : needTop 0 (4 * z.bytes + n.toNat) s = .ok () s)
    (hn : selNull sel = false) (hd : fetchDesc sel (.gp (selCode sel false)) s = .ok (lin, d) s₂)
    (hpeek : peekStack .w (3 * z.bytes + n.toNat) s₂ = .ok ss s₃) (hsn : selNull ssel = false)
    (hsd : fetchDesc ssel (.gp (selCode ssel false)) s₃ = .ok (slin, sd) s₄)
    (hsfits : ReturnStackFits ssel (rpl sel) sd) (heip : peekStack z 0 s₄ = .ok eip s₅) (hfits : ReturnFits sel d eip)
    (hesp : peekStack z (2 * z.bytes + n.toNat) s₅ = .ok esp s₆) (hmark : markAccessed lin d s₆ = .ok () s₇)
    (hsmark : markAccessed slin sd (withSeg s₇ .cs (d.accessed.toSeg sel)) = .ok () t) :
    retFarOuter z n sel s = .ok () (atOuter t z sd.db n.toNat (rpl sel) ssel sd esp eip) := by
  subst hss
  rw [retFarOuter, run_bind_ok htop, run_bind_ok (run_checkReturnCs hn hd hfits)]
  dsimp only
  rw [run_bind_ok hpeek, run_bind_ok (run_checkReturnSs hsn hsd hsfits)]
  dsimp only
  rw [run_bind_ok heip, run_bind_ok (run_checkTarget hfits s₅), run_bind_ok hesp, run_bind_ok (run_loadFromDesc hmark),
    run_bind_ok (run_loadFromDesc hsmark)]
  exact run_retFarOuterEnd z t n (rpl sel) (ss.setWidth 16) sd esp eip

theorem returnsFarOuter_of_body {i : Instr} {o : OSize} {n : BitVec 16}
    (hi : ∀ s, exec i s = instr (retFarBody o n) s) : ReturnsFarOuter i o.size n := by
  intro s sel s₁ lin d s₂ ss s₃ slin sd s₄ eip s₅ esp s₆ s₇ t hs hp hsel hrpl htop hn hd hpeek hsn hsd hsfits heip hfits
    hesp hmark hsmark
  have a₁ : Accessed (markPoint s) s₁ := accessed_returnSelector hsel
  have a₄ : Accessed s₁ s₄ :=
    accessed_trans (accessed_fetch hd) (accessed_trans (accessed_peek hpeek) (accessed_fetch hsd))
  have a₇ : Accessed s₄ s₇ :=
    accessed_trans (accessed_peek heip) (accessed_trans (accessed_peek hesp) (accessed_mark hmark))
  refine ⟨accessed_trans a₁ (accessed_trans a₄ a₇), accessed_mark hsmark, (goesOn_of_instr (hi s) hs).completes ?_⟩
  have other : ¬(rpl sel == (markPoint s).cpl) = true := fun h => absurd (beq_iff_eq.mp h ▸ hrpl) (lt_irrefl _)
  rw [run_retFarBody (s := markPoint s) hp hsel (le_of_lt hrpl), if_neg other]
  exact run_retFarOuter rfl (run_needTop_accessed a₁ htop) hn hd hpeek hsn hsd hsfits heip hfits hesp hmark hsmark

/-- Settles O21: outside protected mode a far transfer loads CS and EIP, after its pushes or pops; in protected mode RET
far runs through its checks to the same or an outer level. -/
theorem farTransfersLoadSelectorAndBase : Obligations.FarTransfersLoadSelectorAndBase := by
  refine ⟨fun j c o s sel off m hop hs hp => ?_, fun _ => returnsFar_of_body fun _ => rfl,
    fun _ _ => returnsFar_of_body fun _ => rfl, fun _ => returnsFarSame_of_body fun _ => rfl,
    fun _ _ => returnsFarSame_of_body fun _ => rfl, fun _ => returnsFarOuter_of_body (n := 0) fun _ => rfl,
    fun _ _ => returnsFarOuter_of_body fun _ => rfl⟩
  obtain ⟨read, jmp, call⟩ := farOperand_goesOn hop hs
  have kept : SameContext (markPoint s) m := sameContext_accessed read
  refine ⟨read, jmp.completes (run_jmpFar_8086 (s := markPoint s) kept hp), fun t hwf hpush => ?_⟩
  obtain ⟨pushed, same⟩ := pushed_of_pushesReturn (accessed_wf read hwf) hpush
  exact ⟨pushed, call.completes (run_callFar_8086 (s := markPoint s) kept hp hpush same)⟩

end Sys2Proof.Machine
end

section
/-! PROOFS. Far JMP and CALL in protected mode (O22): what stands behind the selector, code segments, call gates to the
same and to an inner level, task state segments and task gates, and the selectors that are rejected. -/

namespace Sys2Proof.Machine

/-! What a far transfer finds behind its selector (R604, R623). -/

theorem farTarget_code {d : Desc} (h : d.isCode = true) : d.farTarget = .code := by
  simp [Desc.farTarget, h]

theorem isCode_of_system {d : Desc} (h : d.dt = false) : d.isCode = false := by
  simp [Desc.isCode, h]

theorem farTarget_callGate {d : Desc} (hdt : d.dt = false) (h : d.typ = 4 ∨ d.typ = 12) : d.farTarget = .callGate := by
  rcases h with h | h <;> simp [Desc.farTarget, isCode_of_system hdt, hdt, h]

theorem farTarget_taskGate {d : Desc} (hdt : d.dt = false) (h : d.typ = 5) : d.farTarget = .taskGate := by
  simp [Desc.farTarget, isCode_of_system hdt, hdt, h]

theorem farTarget_tss {d : Desc} (h : IsFreeTss d) : d.farTarget = .tss := by
  obtain ⟨hdt, h | h⟩ := h <;> simp [Desc.farTarget, isCode_of_system hdt, hdt, h]

theorem farTarget_other {d : Desc} (hcode : ¬d.isCode = true)
    (h : d.dt = false → d.typ ≠ 4 ∧ d.typ ≠ 12 ∧ d.typ ≠ 5 ∧ ¬IsFreeTss d) : d.farTarget = .other := by
  cases hdt : d.dt with
  | true => simp [Desc.farTarget, hcode, hdt]
  | false =>
    obtain ⟨h4, h12, h5, htss⟩ := h hdt
    obtain ⟨h1, h9⟩ : d.typ ≠ 1 ∧ d.typ ≠ 9 := not_or.mp fun e => htss ⟨hdt, e⟩
    rw [Desc.farTarget, if_neg hcode, hdt, beq_eq_false_iff_ne.mpr h4, beq_eq_false_iff_ne.mpr h12,
      beq_eq_false_iff_ne.mpr h5, beq_eq_false_iff_ne.mpr h1, beq_eq_false_iff_ne.mpr h9]
    rfl

/-- What a far JMP in protected mode does with the descriptor that its selector names. -/
def jmpBehind (sel : Half) (off : Word) (cpl : BitVec 2) (lin : Word) (d : Desc) (target : FarTarget) : M Unit :=
  match target with
  | .code => do
    checkFarCode sel d cpl
    checkTarget d off
    loadGateTarget sel cpl lin d off
  | .callGate => jmpGate sel d cpl
  | .taskGate => viaTaskGate .jmp sel d cpl
  | .tss => viaTss .jmp sel lin d cpl
  | .other => raise (.gp (selCode sel false))

/-- What a far CALL in protected mode does with the descriptor that its selector names. -/
def callBehind (o : OSize) (sel : Half) (off : Word) (cpl : BitVec 2) (lin : Word) (d : Desc) (target : FarTarget) :
    M Unit :=
  match target with
  | .code => do
    checkFarCode sel d cpl
    callSame o.size sel lin d off cpl
  | .callGate => callGate sel d cpl
  | .taskGate => viaTaskGate .call sel d cpl
  | .tss => viaTss .call sel lin d cpl
  | .other => raise (.gp (selCode sel false))

theorem jmpFarProtected_behind {sel : Half} {off lin : Word} {d : Desc} {m u : State} (hn : selNull sel = false)
    (hd : fetchDesc sel (.gp (selCode sel false)) m = .ok (lin, d) u) :
    jmpFarProtected sel off m = jmpBehind sel off m.cpl lin d d.farTarget u := by
  rw [jmpFarProtected, require_bind (by rw [hn]; rfl), run_get_bind, run_bind_ok hd]
  dsimp only
  cases d.farTarget <;> rfl

theorem callFarProtected_behind {o : OSize} {sel : Half} {off lin : Word} {d : Desc} {m u : State}
    (hn : selNull sel = false) (hd : fetchDesc sel (.gp (selCode sel false)) m = .ok (lin, d) u) :
    callFarProtected o sel off m = callBehind o sel off m.cpl lin d d.farTarget u := by
  rw [callFarProtected, require_bind (by rw [hn]; rfl), run_get_bind, run_bind_ok hd]
  dsimp only
  cases d.farTarget <;> rfl

theorem farProtected_null {sel : Half} (h : selNull sel = true) (o : OSize) (off : Word) (m : State) :
    jmpFarProtected sel off m = .error (.exc (.gp 0)) m ∧ callFarProtected o sel off m = .error (.exc (.gp 0)) m :=
  ⟨require_bind_false (by rw [h]; rfl), require_bind_false (by rw [h]; rfl)⟩

theorem farProtected_outside {sel : Half} {m : State} (hn : selNull sel = false) (hd : descAddr m sel = none)
    (o : OSize) (off : Word) :
    jmpFarProtected sel off m = .error (.exc (.gp (selCode sel false))) m ∧
      callFarProtected o sel off m = .error (.exc (.gp (selCode sel false))) m := by
  constructor
  · rw [jmpFarProtected, require_bind (by rw [hn]; rfl), run_get_bind, run_bind_error (fetchDesc_none _ hd)]
  · rw [callFarProtected, require_bind (by rw [hn]; rfl), run_get_bind, run_bind_error (fetchDesc_none _ hd)]

/-! The parts that the transfers share. -/

section
variable {sel : Half} {lin off : Word} {d : Desc} {s t : State}

theorem run_checkTarget_of_inLimit (h : (d.toSeg sel).inLimit off 1 = true) (s : State) :
    checkTarget d off s = .ok () s := by
  rw [checkTarget, show (d.toSeg 0).inLimit off 1 = true from h]
  rfl

theorem run_loadGateTarget {level : BitVec 2} (h : markAccessed lin d s = .ok () t) :
    loadGateTarget sel level lin d off s = .ok () (atLevel t sel level d off) :=
  run_bind_ok (run_loadFromDesc h)

/-- A load of CS at the level that holds already is a far transfer. -/
theorem atLevel_self {level : BitVec 2} (h : t.cpl = level) :
    atLevel t sel level d off = goFar t (csOfDesc sel level d) off := by
  subst h
  rfl

theorem run_checkGateDpl (h : GateAllows s sel d) (t : State) : checkGateDpl sel d s.cpl t = .ok () t := by
  obtain ⟨hcpl, hrpl⟩ := h
  rw [checkGateDpl, require_bind (decide_eq_true hcpl), decide_eq_true hrpl]
  rfl

theorem checkGateDpl_error (h : ¬GateAllows s sel d) (t : State) :
    checkGateDpl sel d s.cpl t = .error (.exc (.gp (selCode sel false))) t := by
  by_cases hcpl : s.cpl.toNat ≤ d.dpl.toNat
  · rw [checkGateDpl, require_bind (decide_eq_true hcpl), decide_eq_false fun hrpl => h ⟨hcpl, hrpl⟩]
    rfl
  · exact require_bind_false (decide_eq_false hcpl)

theorem run_checkFarCode (h : FarCodeFits s sel d off) (t : State) : checkFarCode sel d s.cpl t = .ok () t := by
  obtain ⟨-, hpres, -, ⟨hconf, hdpl⟩ | ⟨hnon, hdpl, hrpl⟩⟩ := h
  · rw [checkFarCode, if_pos hconf, require_bind (decide_eq_true hdpl), hpres]
    rfl
  · rw [checkFarCode, if_neg (by rw [hnon]; decide), require_bind (decide_eq_true hrpl),
      require_bind (beq_iff_eq.mpr hdpl), hpres]
    rfl

theorem run_needRoom {n : Nat} (h : roomFor s.segs.ss s.regs.esp n = true) : needRoom n s = .ok () s := by
  rw [needRoom, run_get_bind, h]
  rfl

/-- A call that stays at its level pushes the return address, and then loads CS and EIP. -/
theorem run_callSame {z : Size} {v : State} {level : BitVec 2}
    (hroom : roomFor s.segs.ss s.regs.esp (2 * z.bytes) = true) (hfit : (d.toSeg sel).inLimit off 1 = true)
    (hpush : PushesItems z [.sel s.segs.cs.sel, .value s.eip] s t) (hmark : markAccessed lin d t = .ok () v) :
    callSame z sel lin d off level s = .ok () (atLevel v sel level d off) := by
  rw [callSame, run_bind_ok (run_needRoom hroom), run_bind_ok (run_checkTarget_of_inLimit hfit s),
    run_bind_ok (run_pushFarReturn hpush), run_loadGateTarget hmark]

end

section
variable {j c : Instr} {o : OSize} {s m : State} {sel : Half} {off : Word}

theorem farOperand_protected (h : FarOperand j c o s sel off m) (hs : Plain s) (hp : s.isProtected = true) :
    GoesOn j s (jmpFarProtected sel off) m ∧ GoesOn c s (callFarProtected o sel off) m := by
  obtain ⟨read, jmp, call⟩ := farOperand_goesOn h hs
  have hp' : m.isProtected = true := (sameContext_accessed read).isProtected.trans hp
  refine ⟨jmp.after ?_, call.after ?_⟩
  · rw [jmpFar, run_get_bind, if_pos hp']
  · rw [callFar, run_get_bind, if_pos hp']

/-- Once the descriptor has been read, a far JMP and a far CALL are left with what its kind asks for. -/
theorem farOperand_behind (h : FarOperand j c o s sel off m) (hs : Plain s) (hp : s.isProtected = true) {lin : Word}
    {d : Desc} {u : State} (hn : selNull sel = false)
    (hd : fetchDesc sel (.gp (selCode sel false)) m = .ok (lin, d) u) {target : FarTarget}
    (htarget : d.farTarget = target) :
    GoesOn j s (jmpBehind sel off s.cpl lin d target) u ∧ GoesOn c s (callBehind o sel off s.cpl lin d target) u := by
  obtain ⟨read, -, -⟩ := farOperand_goesOn h hs
  obtain ⟨jmp, call⟩ := farOperand_protected h hs hp
  have cpl : m.cpl = s.cpl := (sameContext_accessed read).cpl
  rw [← htarget, ← cpl]
  exact ⟨jmp.after (jmpFarProtected_behind hn hd), call.after (callFarProtected_behind hn hd)⟩

/-! To a code segment (R605, R623). -/

theorem reachesCode (h : FarOperand j c o s sel off m) (hs : Plain s) (hp : s.isProtected = true) :
    ReachesCode j c o s sel off m := by
  intro lin d u hn hd hfits
  obtain ⟨read, -, -⟩ := farOperand_goesOn h hs
  have ⟨hcode, _, hfit, _⟩ := hfits
  obtain ⟨jmp, call⟩ := farOperand_behind h hs hp hn hd (farTarget_code hcode)
  have acc : Accessed (markPoint s) u := accessed_trans read (accessed_fetch hd)
  have kept := sameContext_accessed acc
  refine ⟨accessed_fetch hd, fun t hmark => ⟨accessed_mark hmark, jmp.completes ?_⟩,
    fun t v hwf hroom hpush hmark => ?_⟩
  · have cpl : t.cpl = s.cpl := (kept.trans (sameContext_accessed (accessed_mark hmark))).cpl
    rw [← atLevel_self cpl]
    exact (run_bind_ok (run_checkFarCode hfits u)).trans
      ((run_bind_ok (run_checkTarget_of_inLimit hfit u)).trans (run_loadGateTarget hmark))
  · obtain ⟨pushed, same⟩ := pushed_of_pushesReturn (accessed_wf acc hwf) hpush
    have cpl : v.cpl = s.cpl := ((kept.trans same).trans (sameContext_accessed (accessed_mark hmark))).cpl
    have room : roomFor u.segs.ss u.regs.esp (2 * o.size.bytes) = true := by
      rw [kept.segs, accessed_regs acc]
      exact hroom
    refine ⟨pushed, accessed_mark hmark, call.completes ?_⟩
    rw [← atLevel_self cpl]
    exact (run_bind_ok (run_checkFarCode hfits u)).trans
      (run_callSame room hfit (pushesItems_of_pushesReturn hpush) hmark)

end

/-! Through a call gate (R606, R607, R623, R964). -/

theorem run_gateTarget {gate d : Desc} {lin : Word} {s t : State} (hn : selNull gate.gateSel = false)
    (hd : fetchDesc gate.gateSel (.gp (selCode gate.gateSel false)) s = .ok (lin, d) t) (hcode : d.isCode = true) :
    gateTarget gate s = .ok (gate.gateSel, lin, d) t := by
  rw [gateTarget, require_bind (by rw [hn]; rfl), run_bind_ok hd]
  dsimp only
  rw [require_bind hcode]
  rfl

/-- The code segment of a gate to which CPL does not change: conforming code of at most CPL, or nonconforming code of
CPL. -/
abbrev KeepsLevel (s : State) (d : Desc) : Prop :=
  (d.conforming = true ∧ d.dpl.toNat ≤ s.cpl.toNat) ∨ (d.conforming = false ∧ d.dpl = s.cpl)

section
variable {s u v t : State} {sel : Half} {gate d : Desc} {lin : Word}

theorem keepsLevel_check (h : KeepsLevel s d) :
    (if d.conforming then decide (d.dpl.toNat ≤ s.cpl.toNat) else d.dpl == s.cpl) = true := by
  rcases h with ⟨hconf, hdpl⟩ | ⟨hnon, hdpl⟩
  · rw [if_pos hconf, decide_eq_true hdpl]
  · rw [if_neg (by rw [hnon]; decide), beq_iff_eq.mpr hdpl]

theorem keepsLevel_le (h : KeepsLevel s d) : d.dpl.toNat ≤ s.cpl.toNat := by
  rcases h with ⟨-, hdpl⟩ | ⟨-, hdpl⟩
  · exact hdpl
  · exact le_of_eq (congrArg BitVec.toNat hdpl)

theorem keepsLevel_not_inner (h : KeepsLevel s d) : (!d.conforming && decide (d.dpl.toNat < s.cpl.toNat)) = false := by
  rcases h with ⟨hconf, -⟩ | ⟨-, hdpl⟩
  · rw [hconf]
    rfl
  · rw [hdpl, decide_eq_false (lt_irrefl _), Bool.and_false]

theorem run_jmpGate (hallow : GateAllows s sel gate) (hpres : gate.present = true)
    (htarget : gateTarget gate u = .ok (gate.gateSel, lin, d) v) (hlevel : KeepsLevel s d) (hdpres : d.present = true)
    (hfit : (d.toSeg gate.gateSel).inLimit gate.gateOff 1 = true) (hmark : markAccessed lin d v = .ok () t) :
    jmpGate sel gate s.cpl u = .ok () (atLevel t gate.gateSel s.cpl d gate.gateOff) := by
  rw [jmpGate, run_bind_ok (run_checkGateDpl hallow u), require_bind hpres, run_bind_ok htarget]
  dsimp only
  rw [require_bind (keepsLevel_check hlevel), require_bind hdpres, run_bind_ok (run_checkTarget_of_inLimit hfit v),
    run_loadGateTarget hmark]

/-- A call through a gate goes to an inner level or stays at its own. -/
theorem run_callGate (hallow : GateAllows s sel gate) (hpres : gate.present = true)
    (htarget : gateTarget gate u = .ok (gate.gateSel, lin, d) v) (hle : d.dpl.toNat ≤ s.cpl.toNat)
    (hdpres : d.present = true) :
    callGate sel gate s.cpl u
      = (if !d.conforming && decide (d.dpl.toNat < s.cpl.toNat) then
          callInner (gateSize gate) gate gate.gateSel lin d
        else callSame (gateSize gate) gate.gateSel lin d gate.gateOff s.cpl) v := by
  rw [callGate, run_bind_ok (run_checkGateDpl hallow u), require_bind hpres, run_bind_ok htarget]
  dsimp only
  rw [require_bind (decide_eq_true hle), require_bind hdpres]

end

/-! The stack of an inner level (R230, R607). -/

theorem accessed_readHalfReg (lin : Word) : Ends Accessed AccessedStop (readHalfReg lin) :=
  ends_bind composes_accessed (accessed_sysRead ..) fun _ =>
    ends_bind composes_accessed (accessed_freeBits _) fun _ => ends_pure composes_accessed _

theorem accessed_innerStack (level : BitVec 2) (ext : Bool) : Ends Accessed AccessedStop (innerStack level ext) := by
  unfold innerStack
  refine ends_get_any fun s => ends_ite ?_ ?_
  · exact ends_bind composes_accessed (ends_require composes_accessed _ _) fun _ =>
      ends_bind composes_accessed (accessed_sysRead ..) fun _ =>
        ends_bind composes_accessed (accessed_sysRead ..) fun _ => ends_pure composes_accessed _
  · exact ends_bind composes_accessed (ends_require composes_accessed _ _) fun _ =>
      ends_bind composes_accessed (accessed_readHalfReg _) fun _ =>
        ends_bind composes_accessed (accessed_sysRead ..) fun _ => ends_pure composes_accessed _

theorem run_innerStack {level : BitVec 2} {s t : State} {ss : Half} {esp : Word} (h : TssStack level s ss esp t)
    (ext : Bool) : innerStack level ext s = .ok (ss, esp) t := by
  unfold TssStack at h
  rw [innerStack, run_get_bind]
  dsimp only at h ⊢
  split at h
  · rename_i h32
    have wide : tss32 s.sys.tr.typ = true := h32
    obtain ⟨hlim, u, x, hesp, hss, rfl⟩ := h
    rw [if_pos wide, require_bind (decide_eq_true (by omega)), run_bind_ok hesp, run_bind_ok hss]
    rfl
  · rename_i h16
    have narrow : ¬tss32 s.sys.tr.typ = true := h16
    obtain ⟨hlim, u, sp, x, hsp, rfl, hss, rfl⟩ := h
    have half : readHalfReg (s.sys.tr.base + BitVec.ofNat 32 (2 + 4 * level.toNat)) s
        = .ok ((Config.freeWord u.draws).setWidth 16 ++ (sp.setWidth 16 : Half)) { u with draws := u.draws + 1 } := by
      rw [readHalfReg, run_bind_ok hsp]
      rfl
    rw [if_neg narrow, require_bind (decide_eq_true (by omega)), run_bind_ok half, run_bind_ok hss]
    rfl

theorem run_checkInnerSs {ss : Half} {level : BitVec 2} {ext : Bool} {lin : Word} {d : Desc} {s t : State}
    (hn : selNull ss = false) (hd : fetchDesc ss (.ts (selCode ss ext)) s = .ok (lin, d) t) (hrpl : rpl ss = level)
    (hdpl : d.dpl = level) (hw : d.writable = true) (hpres : d.present = true) :
    checkInnerSs ss level ext s = .ok (lin, d) t := by
  rw [checkInnerSs, require_bind (by rw [hn]; rfl), run_bind_ok hd]
  dsimp only
  rw [require_bind (beq_iff_eq.mpr hrpl), require_bind (beq_iff_eq.mpr hdpl), require_bind hw, require_bind hpres]
  rfl

theorem accessed_of_innerStack {level : BitVec 2} {ext : Bool} {n : Nat} {s t : State} {ss : Half} {esp lin : Word}
    {d : Desc} (h : InnerStack level ext n s ss esp lin d t) : Accessed s t := by
  obtain ⟨u, htss, -, hd, -⟩ := h
  exact accessed_trans ((accessed_innerStack level ext).ok (run_innerStack htss ext)) (accessed_fetch hd)

theorem levelEntered_of_entersLevel {sel ss : Half} {level : BitVec 2} {lin off slin esp : Word} {d sd : Desc}
    {big : Bool} {s t : State} (h : EntersLevel sel level lin d off ss slin sd big esp s t) :
    LevelEntered sel level d off ss sd big esp s t := by
  obtain ⟨a, b, ha, hb, rfl⟩ := h
  exact ⟨a, b, accessed_mark ha, accessed_mark hb, rfl⟩

theorem levelEntered_wf {sel ss : Half} {level : BitVec 2} {off esp : Word} {d sd : Desc} {big : Bool} {s t : State}
    (h : LevelEntered sel level d off ss sd big esp s t) (hwf : Mem.wf s.mem = true) : Mem.wf t.mem = true := by
  obtain ⟨a, b, ha, hb, rfl⟩ := h
  rw [onStack_mem]
  refine accessed_wf hb ?_
  rw [atLevel_mem]
  exact accessed_wf ha hwf

/-! The parameters of a gate (R607). -/

theorem run_copyParams {old : State} {z : Size} {n : Nat} {s t : State} (h : CopiesParams old z n s t) :
    copyParams old z n s = .ok () t := by
  induction n generalizing s with
  | zero =>
    obtain rfl := h
    rfl
  | succ n ih =>
    obtain ⟨v, u, w, hseg, hhits, x, hread, hpush, hrest⟩ := h
    have peek : peekOld old z (n * z.bytes) s = .ok v x := by
      rw [peekOld, require_bind hseg, run_bind_ok hhits, hread]
    rw [copyParams, run_bind_ok peek, run_bind_ok hpush, ih hrest]

theorem framesCopied_of_copiesParams {old : State} {z : Size} {n : Nat} {s t : State} (hwf : Mem.wf s.mem = true)
    (h : CopiesParams old z n s t) : FramesCopied z n s t ∧ Mem.wf t.mem = true := by
  induction n generalizing s with
  | zero =>
    obtain rfl := h
    exact ⟨rfl, hwf⟩
  | succ n ih =>
    obtain ⟨v, u, w, -, hhits, x, hread, hpush, hrest⟩ := h
    have read : Accessed s x := accessed_trans ((accessed_recordHits ..).ok hhits) ((accessed_linRead ..).ok hread)
    obtain ⟨pushed, hwf'⟩ := push_pushed (accessed_wf read hwf) hpush
    obtain ⟨copied, hwf''⟩ := ih hwf' hrest
    exact ⟨⟨x, w, read, pushed, copied⟩, hwf''⟩

/-- A call to an inner level: its stack is found, CS and SS are loaded, and the old stack pointer, the parameters and
the return address are pushed (R607). -/
theorem run_callInner {z : Size} {gate d sd : Desc} {csel ss : Half} {lin esp slin : Word} {u v w x y t : State}
    (hfit : (d.toSeg csel).inLimit gate.gateOff 1 = true)
    (hstack : InnerStack d.dpl false ((gate.gateCount + 4) * z.bytes) u ss esp slin sd v)
    (henter : EntersLevel csel d.dpl lin d gate.gateOff ss slin sd sd.db esp v w)
    (hold : PushesItems z [.sel u.segs.ss.sel, .value u.regs.esp] w x) (hparams : CopiesParams u z gate.gateCount x y)
    (hret : PushesItems z [.sel u.segs.cs.sel, .value u.eip] y t) : callInner z gate csel lin d u = .ok () t := by
  obtain ⟨u', htss, hn, hd, hrpl, hdpl, hw, hpres, hroom⟩ := hstack
  obtain ⟨a, b, hcs, hss, rfl⟩ := henter
  rw [callInner, run_get_bind, run_bind_ok (run_innerStack htss false)]
  dsimp only
  rw [run_bind_ok (run_checkInnerSs hn hd hrpl hdpl hw hpres)]
  dsimp only
  rw [require_bind hroom, run_bind_ok (run_checkTarget_of_inLimit hfit v), run_bind_ok (run_loadGateTarget hcs),
    run_bind_ok (run_loadFromDesc hss)]
  have loaded : loadSp sd.db esp (withSeg b .ss (sd.accessed.toSeg ss)) = .ok () (onStack b ss sd sd.db esp) := rfl
  rw [run_bind_ok loaded, run_pushSelValue_bind hold, run_bind_ok (run_copyParams hparams)]
  exact run_pushSelValue hret

theorem passesGate {j c : Instr} {o : OSize} {s m : State} {sel : Half} {off : Word}
    (h : FarOperand j c o s sel off m) (hs : Plain s) (hp : s.isProtected = true) : PassesGate j c s sel m := by
  intro gate lin d u hthrough hfit z
  obtain ⟨hn, hdt, htyp, hpres, hcpl, hrpl, hgn, hcode, hdpres, glin, v, hgate, hd⟩ := hthrough
  have allow : GateAllows s sel gate := ⟨hcpl, hrpl⟩
  have target := run_gateTarget hgn hd hcode
  obtain ⟨read, -, -⟩ := farOperand_goesOn h hs
  obtain ⟨jmp, call⟩ : GoesOn j s (jmpGate sel gate s.cpl) v ∧ GoesOn c s (callGate sel gate s.cpl) v :=
    farOperand_behind h hs hp hn hgate (farTarget_callGate hdt htyp)
  have acc : Accessed m u := accessed_trans (accessed_fetch hgate) (accessed_fetch hd)
  have all : Accessed (markPoint s) u := accessed_trans read acc
  have segs : u.segs = s.segs := (sameContext_accessed all).segs
  have esp : u.regs.esp = s.regs.esp := by rw [esp_accessed all, markPoint_regs]
  have eip : u.eip = m.eip := (sameContext_accessed acc).eip
  refine ⟨acc, fun hlevel => ⟨fun t hmark => ⟨accessed_mark hmark, jmp.completes ?_⟩,
    fun t v hwf hroom hpush hmark => ?_⟩,
    fun hnon hlt hwf ss esp' slin sd v w x y t hstack henter hold hparams hret => ?_⟩
  · exact run_jmpGate allow hpres target hlevel hdpres hfit hmark
  · obtain ⟨pushed, -⟩ := pushed_of_pushesItems (accessed_wf all hwf) hpush
    refine ⟨pushed, accessed_mark hmark, call.completes ?_⟩
    rw [run_callGate allow hpres target (keepsLevel_le hlevel) hdpres, keepsLevel_not_inner hlevel,
      if_neg Bool.false_ne_true]
    rw [← segs, ← esp] at hroom
    rw [← segs, ← eip] at hpush
    exact run_callSame hroom hfit hpush hmark
  · have found := accessed_of_innerStack hstack
    have entered := levelEntered_of_entersLevel henter
    have wf₀ := levelEntered_wf entered (accessed_wf (accessed_trans all found) hwf)
    obtain ⟨pushedOld, wf₁⟩ := pushed_of_pushesItems wf₀ hold
    obtain ⟨copied, wf₂⟩ := framesCopied_of_copiesParams wf₁ hparams
    obtain ⟨pushedReturn, -⟩ := pushed_of_pushesItems wf₂ hret
    refine ⟨found, entered, pushedOld, copied, pushedReturn, call.completes ?_⟩
    have inner : (!d.conforming && decide (d.dpl.toNat < s.cpl.toNat)) = true := by simp [hnon, hlt]
    rw [run_callGate allow hpres target (le_of_lt hlt) hdpres, if_pos inner]
    rw [← segs, ← esp] at hold
    rw [← segs, ← eip] at hret
    exact run_callInner hfit hstack henter hold hparams hret

/-! To a task (R608, R623, R990). -/

theorem availTss_iff (d : Desc) : d.availTss = true ↔ IsFreeTss d := by
  simp [Desc.availTss]

theorem goesToTask_of_goesOn {i : Instr} {kind : TaskKind} {s u : State} {sel : Half} {lin : Word} {d : Desc}
    (h : GoesOn i s (toTss kind sel lin d) u) : GoesToTask i kind s sel lin d u := by
  refine ⟨fun hfree => h.raises ?_, fun hfree hpres => h.raises ?_, fun t hfree hpres hswitch =>
    ⟨fun hfit => h.completes ?_, fun htrap hout => h.raises ?_⟩⟩
  · exact require_bind_false (Bool.eq_false_iff.mpr (mt (availTss_iff d).mp hfree))
  · rw [toTss, require_bind ((availTss_iff d).mpr hfree), require_bind_false hpres]
  · rw [toTss, require_bind ((availTss_iff d).mpr hfree), require_bind hpres, run_bind_ok hswitch, checkNewEip_ok hfit]
  · rw [toTss, require_bind ((availTss_iff d).mpr hfree), require_bind hpres, run_bind_ok hswitch,
      checkNewEip_error htrap hout]

section
variable {s u v : State} {sel : Half} {lin : Word} {d gate : Desc} (kind : TaskKind)

theorem run_viaTss (hallow : GateAllows s sel d) (hti : selTi sel = false) :
    viaTss kind sel lin d s.cpl u = toTss kind sel lin d u := by
  rw [viaTss, run_bind_ok (run_checkGateDpl hallow u), require_bind (by rw [hti]; rfl)]

theorem viaTss_denied (h : ¬(GateAllows s sel d ∧ selTi sel = false)) :
    viaTss kind sel lin d s.cpl u = .error (.exc (.gp (selCode sel false))) u := by
  by_cases hallow : GateAllows s sel d
  · have hti : selTi sel = true := by
      simpa using fun hti => h ⟨hallow, hti⟩
    rw [viaTss, run_bind_ok (run_checkGateDpl hallow u), require_bind_false (by rw [hti]; rfl)]
  · exact run_bind_error (checkGateDpl_error hallow u)

theorem viaTaskGate_denied (h : ¬GateAllows s sel gate) :
    viaTaskGate kind sel gate s.cpl u = .error (.exc (.gp (selCode sel false))) u :=
  run_bind_error (checkGateDpl_error h u)

theorem viaTaskGate_absent (hallow : GateAllows s sel gate) (hpres : gate.present = false) :
    viaTaskGate kind sel gate s.cpl u = .error (.exc (.np (selCode sel false))) u := by
  rw [viaTaskGate, run_bind_ok (run_checkGateDpl hallow u), require_bind_false hpres]

/-- A task gate whose selector names no descriptor of the GDT. -/
theorem viaTaskGate_invalid (hallow : GateAllows s sel gate) (hpres : gate.present = true)
    (h : selNull gate.gateSel = true ∨ selTi gate.gateSel = true ∨ descAddr u gate.gateSel = none) :
    viaTaskGate kind sel gate s.cpl u = .error (.exc (.gp (selCode gate.gateSel false))) u := by
  rw [viaTaskGate, run_bind_ok (run_checkGateDpl hallow u), require_bind hpres]
  dsimp only
  cases hok : !selNull gate.gateSel && !selTi gate.gateSel with
  | false => exact require_bind_false rfl
  | true =>
    obtain ⟨hn, hti⟩ : selNull gate.gateSel = false ∧ selTi gate.gateSel = false := by simpa using hok
    have outside : descAddr u gate.gateSel = none := by simpa [hn, hti] using h
    rw [require_bind rfl, run_bind_error (fetchDesc_none _ outside)]

theorem run_viaTaskGate (hallow : GateAllows s sel gate) (hpres : gate.present = true)
    (hn : selNull gate.gateSel = false) (hti : selTi gate.gateSel = false)
    (hd : fetchDesc gate.gateSel (.gp (selCode gate.gateSel false)) u = .ok (lin, d) v) :
    viaTaskGate kind sel gate s.cpl u = toTss kind gate.gateSel lin d v := by
  rw [viaTaskGate, run_bind_ok (run_checkGateDpl hallow u), require_bind hpres]
  dsimp only
  rw [require_bind (by rw [hn, hti]; rfl), run_bind_ok hd]

end

section
variable {j c : Instr} {o : OSize} {s m : State} {sel : Half} {off : Word}

theorem reachesTss (h : FarOperand j c o s sel off m) (hs : Plain s) (hp : s.isProtected = true) :
    ReachesTss j c s sel m := by
  intro lin d u hn hd hfree
  obtain ⟨jmp, call⟩ : GoesOn j s (viaTss .jmp sel lin d s.cpl) u ∧ GoesOn c s (viaTss .call sel lin d s.cpl) u :=
    farOperand_behind h hs hp hn hd (farTarget_tss hfree)
  exact ⟨accessed_fetch hd, fun hdeny => ⟨jmp.raises (viaTss_denied _ hdeny), call.raises (viaTss_denied _ hdeny)⟩,
    fun hallow hti => ⟨goesToTask_of_goesOn (jmp.after (run_viaTss _ hallow hti)),
      goesToTask_of_goesOn (call.after (run_viaTss _ hallow hti))⟩⟩

theorem passesTaskGate (h : FarOperand j c o s sel off m) (hs : Plain s) (hp : s.isProtected = true) :
    PassesTaskGate j c s sel m := by
  intro glin gate u hn hgate hdt htyp
  obtain ⟨jmp, call⟩ :
      GoesOn j s (viaTaskGate .jmp sel gate s.cpl) u ∧ GoesOn c s (viaTaskGate .call sel gate s.cpl) u :=
    farOperand_behind h hs hp hn hgate (farTarget_taskGate hdt htyp)
  refine ⟨accessed_fetch hgate,
    fun hdeny => ⟨jmp.raises (viaTaskGate_denied _ hdeny), call.raises (viaTaskGate_denied _ hdeny)⟩,
    fun hallow hpres =>
      ⟨jmp.raises (viaTaskGate_absent _ hallow hpres), call.raises (viaTaskGate_absent _ hallow hpres)⟩,
    fun hallow hpres => ⟨fun hbad => ⟨jmp.raises (viaTaskGate_invalid _ hallow hpres hbad),
      call.raises (viaTaskGate_invalid _ hallow hpres hbad)⟩, fun lin d v htn hti hd => ⟨accessed_fetch hd, ?_, ?_⟩⟩⟩
  · exact goesToTask_of_goesOn (jmp.after (run_viaTaskGate _ hallow hpres htn hti hd))
  · exact goesToTask_of_goesOn (call.after (run_viaTaskGate _ hallow hpres htn hti hd))

/-! Rejected selectors (R604, R623). -/

theorem rejectsSelector (h : FarOperand j c o s sel off m) (hs : Plain s) (hp : s.isProtected = true) :
    RejectsSelector j c s sel m := by
  obtain ⟨read, -, -⟩ := farOperand_goesOn h hs
  obtain ⟨jmp, call⟩ := farOperand_protected h hs hp
  refine ⟨fun hn => ?_, fun hn hd => ?_, fun lin d u hn hd hcode hsystem => ?_⟩
  · obtain ⟨jmpNull, callNull⟩ := farProtected_null hn o off m
    exact ⟨jmp.raises jmpNull, call.raises callNull⟩
  · obtain ⟨jmpOut, callOut⟩ := farProtected_outside hn ((descAddr_accessed read sel).trans hd) o off
    exact ⟨jmp.raises jmpOut, call.raises callOut⟩
  · obtain ⟨jmp, call⟩ := farOperand_behind h hs hp hn hd (farTarget_other hcode hsystem)
    exact ⟨jmp.raises rfl, call.raises rfl⟩

end

/-- Settles O22: behind its selector a far transfer finds one of five kinds of descriptor, and its checks, loads, pushes
or task switch follow one after the other. -/
theorem farTransfersCheckTheCodeSegment : Obligations.FarTransfersCheckTheCodeSegment :=
  fun _ _ _ _ _ _ _ h hs hp =>
    ⟨reachesCode h hs hp, passesGate h hs hp, reachesTss h hs hp, passesTaskGate h hs hp, rejectsSelector h hs hp⟩

end Sys2Proof.Machine
end

section
/-! PROOFS. Input and output ports (O58): the permission check (R719), and an access that fits below port FFFFH. -/

namespace Sys2Proof.Machine

/-! The I/O permission bit map (R719). -/

/-- The mask of an access selects its bits of the map, and no other. -/
theorem portMask_clear_iff (bits : Word) {p n : Nat} (h : p + n ≤ 32) :
    (bits &&& BitVec.ofNat 32 (2 ^ n - 1) <<< p == 0) = true ↔ ∀ k, k < n → bits.getLsbD (p + k) = false := by
  have bit (i : Nat) : (bits &&& BitVec.ofNat 32 (2 ^ n - 1) <<< p).getLsbD i
      = (bits.getLsbD i && decide (p ≤ i ∧ i < p + n)) := by
    rw [BitVec.getLsbD_and, BitVec.getLsbD_shiftLeft, BitVec.getLsbD_ofNat, Nat.testBit_two_pow_sub_one]
    congr 1
    rw [Bool.eq_iff_iff]
    simp only [Bool.and_eq_true, Bool.not_eq_true', decide_eq_true_eq, decide_eq_false_iff_not]
    omega
  rw [beq_iff_eq]
  constructor
  · intro hz k hk
    have clear := bit (p + k)
    rw [hz, decide_eq_true (by omega), Bool.and_true] at clear
    simpa using clear.symm
  · intro hclear
    refine BitVec.eq_of_getLsbD_eq fun i _ => ?_
    rw [bit]
    by_cases hi : p ≤ i ∧ i < p + n
    · rw [← Nat.add_sub_cancel' hi.1, hclear (i - p) (by omega)]
      simp
    · simp [hi]

section
variable {port : Half} {n : Nat} {s : State}

/-- An 80286 TSS, and a TSS too short to say where its map begins, permit no port. -/
theorem ioPermitted_noMap (h : tss32 s.sys.tr.typ = false ∨ s.sys.tr.limit.toNat < 0x67) :
    ioPermitted port n s = .ok false s := by
  rw [ioPermitted, run_get_bind]
  dsimp only
  rw [if_pos (by simpa using h)]
  rfl

section
variable {ptr bits : Word} {u t : State}

/-- The rest of the check, once the place of the map is read. -/
theorem ioPermitted_map (htss : tss32 s.sys.tr.typ = true) (hlim : 0x67 ≤ s.sys.tr.limit.toNat)
    (hptr : sysRead (s.sys.tr.base + 0x66) 2 s = .ok ptr u) :
    ioPermitted port n s =
      (if s.sys.tr.limit.toNat < port.toNat / 8 + ptr.toNat + 1 then pure false
      else do
        let bits ← sysRead (s.sys.tr.base + BitVec.ofNat 32 (port.toNat / 8 + ptr.toNat)) 2
        return bits &&& BitVec.ofNat 32 (2 ^ n - 1) <<< (port.toNat % 8) == 0 : M Bool) u := by
  rw [ioPermitted, run_get_bind]
  dsimp only
  rw [if_neg (by simp [htss, hlim]), run_bind_ok hptr]

/-- A map whose bytes lie past the limit permits no port. -/
theorem ioPermitted_past (htss : tss32 s.sys.tr.typ = true) (hlim : 0x67 ≤ s.sys.tr.limit.toNat)
    (hptr : sysRead (s.sys.tr.base + 0x66) 2 s = .ok ptr u)
    (hpast : s.sys.tr.limit.toNat < port.toNat / 8 + ptr.toNat + 1) : ioPermitted port n s = .ok false u := by
  rw [ioPermitted_map htss hlim hptr, if_pos hpast]
  rfl

theorem ioPermitted_bits (htss : tss32 s.sys.tr.typ = true) (hlim : 0x67 ≤ s.sys.tr.limit.toNat)
    (hptr : sysRead (s.sys.tr.base + 0x66) 2 s = .ok ptr u)
    (hfits : port.toNat / 8 + ptr.toNat + 1 ≤ s.sys.tr.limit.toNat)
    (hbits : sysRead (s.sys.tr.base + BitVec.ofNat 32 (port.toNat / 8 + ptr.toNat)) 2 u = .ok bits t) :
    ioPermitted port n s = .ok (bits &&& BitVec.ofNat 32 (2 ^ n - 1) <<< (port.toNat % 8) == 0) t := by
  rw [ioPermitted_map htss hlim hptr, if_neg hfits.not_gt, run_bind_ok hbits]
  rfl

end

/-! The check. -/

/-- No check in real-address mode and at a level that IOPL admits. -/
theorem checkPort_free (h : ¬(s.pe = true ∧ (s.flags.vm = true ∨ s.flags.iopl.toNat < s.cpl.toNat))) :
    checkPort port n s = .ok () s := by
  rw [checkPort, run_get_bind, if_neg (by simpa using h)]
  rfl

section
variable {t : State} (hpe : s.pe = true) (hlevel : s.flags.vm = true ∨ s.flags.iopl.toNat < s.cpl.toNat)
include hpe hlevel

/-- Elsewhere the bit map decides. -/
theorem checkPort_asks {ok : Bool} (hmap : ioPermitted port n s = .ok ok t) :
    checkPort port n s = require ok (.gp 0) t := by
  rw [checkPort, run_get_bind, if_pos (by simpa [hpe] using hlevel), run_bind_ok hmap]

theorem checkPort_permits (hmap : ioPermitted port n s = .ok true t) : checkPort port n s = .ok () t :=
  checkPort_asks hpe hlevel hmap

theorem checkPort_denies (hmap : ioPermitted port n s = .ok false t) :
    checkPort port n s = .error (.exc (.gp 0)) t :=
  checkPort_asks hpe hlevel hmap

end

end

/-- The types of a 386 SX TSS are those with bit 3 set (R85). -/
theorem tss32_of_386 {typ : BitVec 4} (h : typ = 9 ∨ typ = 11) : tss32 typ = true := by
  rcases h with rfl | rfl <;> rfl

theorem tss32_of_286 {typ : BitVec 4} (h : typ = 1 ∨ typ = 3) : tss32 typ = false := by
  rcases h with rfl | rfl <;> rfl

/-- Settles O58: `checkPort` asks the bit map, which is missing, ends too soon, or has the bits of the access set or
clear. -/
theorem portsNeedPermission : Obligations.PortsNeedPermission := by
  refine ⟨fun _ _ _ => checkPort_free, fun s port n hpe hlevel hn => ⟨fun htyp => ?_, fun _ hshort => ?_, ?_⟩⟩
  · exact checkPort_denies hpe hlevel (ioPermitted_noMap (.inl (tss32_of_286 htyp)))
  · exact checkPort_denies hpe hlevel (ioPermitted_noMap (.inr hshort))
  intro htyp hlim ptr u hptr
  have htss := tss32_of_386 htyp
  refine ⟨fun hpast => checkPort_denies hpe hlevel (ioPermitted_past htss hlim hptr hpast),
    fun bits t hfits hbits => ?_⟩
  have clear := portMask_clear_iff bits (p := port.toNat % 8) (n := n) (by omega)
  have hmap := ioPermitted_bits (n := n) htss hlim hptr hfits hbits
  constructor
  · intro hclear
    rw [clear.mpr hclear] at hmap
    exact checkPort_permits hpe hlevel hmap
  · intro hset
    rw [Bool.eq_false_iff.mpr (mt clear.mp hset)] at hmap
    exact checkPort_denies hpe hlevel hmap

/-! What the check leaves. -/

theorem accessed_ioPermitted (port : Half) (n : Nat) : Ends Accessed AccessedStop (ioPermitted port n) := by
  unfold ioPermitted
  refine ends_get_any fun s => ends_ite (ends_pure composes_accessed _) ?_
  refine ends_bind composes_accessed (accessed_sysRead ..) fun ptr => ends_ite (ends_pure composes_accessed _) ?_
  exact ends_bind composes_accessed (accessed_sysRead ..) fun bits => ends_pure composes_accessed _

/-- The permission check leaves everything as it was but for Accessed and Dirty bits. -/
theorem accessed_checkPort (port : Half) (n : Nat) : Ends Accessed AccessedStop (checkPort port n) := by
  unfold checkPort
  refine ends_get_any fun s => ends_ite ?_ (ends_pure composes_accessed _)
  exact ends_bind composes_accessed (accessed_ioPermitted ..) fun ok => ends_require composes_accessed ok _

/-! Port accesses (R270). -/

@[simp] theorem portReadDone_mem (port : Half) (z : Size) (s : State) : (portReadDone port z s).mem = s.mem := rfl

@[simp] theorem portReadDone_linear (port : Half) (z : Size) (s : State) (r : SReg) (off : Word) :
    (portReadDone port z s).linear r off = s.linear r off := rfl

section
variable {port : Half} {z : Size}

theorem ioRead_fits (h : PortFits port z) (s : State) :
    ioRead port z.bytes s = .ok (portIn z s) (portReadDone port z s) := by
  rw [ioRead, portInRange, if_pos h]
  rfl

theorem ioRead_past (h : ¬PortFits port z) (s : State) :
    ioRead port z.bytes s = .error (.refuse .portRange) s := by
  rw [ioRead, portInRange, if_neg h]
  rfl

theorem ioWrite_fits (h : PortFits port z) (v : Word) (s : State) :
    ioWrite port z.bytes v s = .ok () (portWriteDone port z v s) := by
  rw [ioWrite, portInRange, if_pos h]
  rfl

theorem ioWrite_past (h : ¬PortFits port z) (v : Word) (s : State) :
    ioWrite port z.bytes v s = .error (.refuse .portRange) s := by
  rw [ioWrite, portInRange, if_neg h]
  rfl

end

/-! IN and OUT (R720, R722). -/

/-- An instruction whose body is that of IN at a port, given by the state in which it begins. -/
theorem inputs_of_body {i : Instr} {z : Size} {port : State → Half} {body : M Unit}
    (hi : ∀ s, exec i s = instr body s)
    (hbody : ∀ s, body (markPoint s) = inBody z (port s) (markPoint s)) : Inputs i z port := by
  intro s u hs hcheck
  refine ⟨(accessed_checkPort ..).ok hcheck, fun hfits => (hi s).trans (instr_ok hs ?_),
    fun hpast => (hi s).trans (instr_refused (t := u) hs ?_)⟩
  · rw [hbody, inBody, run_bind_ok hcheck, run_bind_ok (ioRead_fits hfits u)]
    rfl
  · rw [hbody, inBody, run_bind_ok hcheck, run_bind_error (ioRead_past hpast u)]

/-- An instruction whose body is that of OUT at a port, given by the state in which it begins. -/
theorem outputs_of_body {i : Instr} {z : Size} {port : State → Half} {body : M Unit}
    (hi : ∀ s, exec i s = instr body s)
    (hbody : ∀ s, body (markPoint s) = outBody z (port s) (markPoint s)) : Outputs i z port := by
  intro s u hs hcheck
  have acc := (accessed_checkPort ..).ok hcheck
  refine ⟨acc, fun hfits => (hi s).trans (instr_ok hs ?_), fun hpast => (hi s).trans (instr_refused (t := u) hs ?_)⟩
  · rw [hbody, outBody, run_bind_ok hcheck, run_bind_ok (run_readReg ..), accessed_regs acc]
    exact ioWrite_fits hfits ..
  · rw [hbody, outBody, run_bind_ok hcheck, run_bind_ok (run_readReg ..)]
    exact ioWrite_past hpast ..

end Sys2Proof.Machine
end

section
/-! PROOFS. String instructions and their repetition (O26 to O28): the registers that an element uses, what REP makes of an
instruction, and the element of each instruction. -/

namespace Sys2Proof.Machine

/-! The registers of an element (R700). -/

theorem run_addrReg (a : ASize) (r : Reg) (s : State) : addrReg a r s = .ok (indexOf a r s) s := rfl

theorem run_setAddrReg (a : ASize) (r : Reg) (v : Word) (s : State) :
    setAddrReg a r v s = .ok () (setReg s (asizeOf a) r (ofWord (asizeOf a) v)) := rfl

theorem run_advance (a : ASize) (z : Size) (r : Reg) (s : State) :
    advance a z r s = .ok () (advanced a z r s) := rfl

theorem run_readSource (a : ASize) (z : Size) (s : State) :
    readSource a z s = readMem (s.dataSeg .ds) (indexOf a .esi s) z.bytes s := rfl

theorem run_readDest (a : ASize) (z : Size) (s : State) :
    readDest a z s = readMem .es (indexOf a .edi s) z.bytes s := rfl

theorem run_writeDest (a : ASize) (z : Size) (v : Word) (s : State) :
    writeDest a z v s = writeMem .es (indexOf a .edi s) z.bytes v s := rfl

theorem accessed_readMem_ok {r : SReg} {off v : Word} {n : Nat} {s t : State} (h : readMem r off n s = .ok v t) :
    Accessed s t :=
  (accessed_readMem r off n).ok h

theorem indexOf_accessed {s t : State} (h : Accessed s t) (a : ASize) (r : Reg) : indexOf a r t = indexOf a r s := by
  rw [indexOf, indexOf, accessed_regs h]

theorem dataSeg_accessed {s t : State} (h : Accessed s t) (r : SReg) : t.dataSeg r = s.dataSeg r := by
  obtain ⟨x, -, rfl⟩ := h
  rfl

/-! Repetition (R710). -/

/-- A repetition goes on while the count is not 0 and, where it looks at ZF, ZF is set for REPE and clear for REPNE. -/
theorem repeats_iff (k : RepKind) (compares zf : Bool) (count : Word) :
    repeats k compares zf count = true ↔ count ≠ 0 ∧ (compares = true → zf = (k == .repe)) := by
  unfold repeats
  rw [Bool.and_eq_true, bne_iff_ne]
  refine and_congr_right fun _ => ?_
  cases compares with
  | false => simp
  | true => cases k <;> cases zf <;> decide

section
variable {a : ASize} {compares : Bool} {prim : M Unit} {s t : State} {k : RepKind}

theorem repeated_once (hr : s.cur.rep = none) : repeated a compares prim s = prim s := by
  rw [repeated, run_get_bind, hr]

theorem repeated_exhausted (hr : s.cur.rep = some k) (hc : indexOf a .ecx s = 0) :
    repeated a compares prim s = .ok () s := by
  rw [repeated, run_get_bind, hr]
  dsimp only
  rw [run_bind_ok (run_addrReg ..), if_pos hc]
  rfl

/-- An iteration is the element, and after it the count and the test of its condition. -/
theorem repeated_iterates (hr : s.cur.rep = some k) (hc : indexOf a .ecx s ≠ 0) :
    repeated a compares prim s = (do
      prim
      setAddrReg a .ecx (indexOf a .ecx s - 1)
      let u ← get
      if repeats k compares u.flags.zf (indexOf a .ecx s - 1) then
        modify fun u => { u with eip := u.cur.start, cur := { u.cur with again := true } } : M Unit) s := by
  rw [repeated, run_get_bind, hr]
  dsimp only
  rw [run_bind_ok (run_addrReg ..), if_neg hc]

/-- An element that stops the instruction stops it before the count is changed. -/
theorem repeated_stops {e : Err} (hrun : s.cur.rep = none ∨ indexOf a .ecx s ≠ 0) (hp : prim s = .error e t) :
    repeated a compares prim s = .error e t := by
  cases hr : s.cur.rep with
  | none => rw [repeated_once hr, hp]
  | some k => rw [repeated_iterates hr (hrun.resolve_left (by rw [hr]; nofun)), run_bind_error hp]

/-- An iteration whose element completes, up to the test of its condition. -/
theorem repeated_counts (hr : s.cur.rep = some k) (hc : indexOf a .ecx s ≠ 0) (hp : prim s = .ok () t) :
    let u := setReg t (asizeOf a) .ecx (ofWord (asizeOf a) (indexOf a .ecx s - 1))
    repeated a compares prim s =
      if repeats k compares t.flags.zf (indexOf a .ecx s - 1) then
        .ok () { u with eip := u.cur.start, cur := { u.cur with again := true } }
      else .ok () u := by
  rw [repeated_iterates hr hc, run_bind_ok hp, run_bind_ok (run_setAddrReg ..), run_get_bind, setReg_flags]
  split <;> rfl

end

/-- An instruction that repeats a body whose completed runs are the steps `one`. -/
theorem stringRuns_of_body {i : Instr} {a : ASize} {compares : Bool} {body : M Unit} {one : State → State → Prop}
    (hi : ∀ s, exec i s = stringInstr (repeated a compares body) s)
    (hbody : ∀ {s t}, one s t → body s = .ok () t) : StringRuns i a compares one := by
  intro s hl
  have ends {t : State} (h : repeated a compares body (markPoint s) = .ok () t) : Completes i s t :=
    (hi s).trans (stringInstr_ok hl h)
  refine ⟨fun t hr hone => ends ((repeated_once (s := markPoint s) hr).trans (hbody hone)), fun k hr =>
    ⟨fun hc => ends (repeated_exhausted hr hc), fun t hc hone => ?_⟩⟩
  have iteration := repeated_counts (compares := compares) (s := markPoint s) hr hc (hbody hone)
  constructor
  · intro hgo
    exact ends (iteration.trans (if_pos ((repeats_iff ..).mpr hgo)))
  · intro hend
    refine ends (iteration.trans (if_neg fun hgo => ?_))
    obtain ⟨hcount, hzf⟩ := (repeats_iff ..).mp hgo
    exact hend.elim hcount fun ⟨hcmp, hne⟩ => hne (hzf hcmp)

/-- A string instruction whose element is refused, once or repeated. -/
theorem refused_of_body {i : Instr} {a : ASize} {compares : Bool} {body : M Unit} {s t : State} {r : Refusal}
    (hi : exec i s = stringInstr (repeated a compares body) s) (hl : Unlocked s)
    (hrun : s.cur.rep = none ∨ indexOf a .ecx s ≠ 0) (hbody : body (markPoint s) = .error (.refuse r) t) :
    exec i s = .refused r :=
  hi.trans (stringInstr_refused hl (repeated_stops hrun hbody))

/-! The elements (R700 to R705, R721, R723). -/

section
variable {a : ASize} {z : Size} {s t : State}

theorem run_movsBody (h : MovsStep a z s t) : movsBody a z s = .ok () t := by
  obtain ⟨v, u, w, hread, hwrite, rfl⟩ := h
  rw [← indexOf_accessed (accessed_readMem_ok hread)] at hwrite
  rw [movsBody, run_bind_ok ((run_readSource ..).trans hread), run_bind_ok ((run_writeDest ..).trans hwrite),
    run_bind_ok (run_advance ..), run_advance]

theorem run_cmpsBody (h : CmpsStep a z s t) : cmpsBody a z s = .ok () t := by
  obtain ⟨x, y, u, w, hsource, hdest, rfl⟩ := h
  have source := accessed_readMem_ok hsource
  have all : Accessed s w := accessed_trans source (accessed_readMem_ok hdest)
  rw [← indexOf_accessed source] at hdest
  rw [cmpsBody, run_bind_ok ((run_readSource ..).trans hsource), run_bind_ok ((run_readDest ..).trans hdest),
    run_get_bind, run_bind_ok (run_setFlags ..), run_bind_ok (run_advance ..), run_advance,
    (sameContext_accessed all).flags]

theorem run_stosBody (h : StosStep a z s t) : stosBody a z s = .ok () t := by
  obtain ⟨w, hwrite, rfl⟩ := h
  rw [stosBody, run_bind_ok (run_readReg ..), run_bind_ok ((run_writeDest ..).trans hwrite), run_advance]

theorem run_lodsBody (h : LodsStep a z s t) : lodsBody a z s = .ok () t := by
  obtain ⟨v, u, hread, rfl⟩ := h
  rw [lodsBody, run_bind_ok ((run_readSource ..).trans hread), run_bind_ok (run_writeReg ..)]
  exact run_advance ..

theorem run_scasBody (h : ScasStep a z s t) : scasBody a z s = .ok () t := by
  obtain ⟨y, u, hread, rfl⟩ := h
  have acc := accessed_readMem_ok hread
  rw [scasBody, run_bind_ok ((run_readDest ..).trans hread), run_bind_ok (run_readReg ..), run_get_bind,
    run_bind_ok (run_setFlags ..), run_advance, (sameContext_accessed acc).flags, accessed_regs acc]

/-- INS up to the access to the port, once the port and the destination have passed their checks. -/
theorem run_insBody_checked {u v : State} {ts : Trans × Trans}
    (hcheck : checkPort (portDx s) z.bytes s = .ok () u)
    (hprobe : probeMem .es (indexOf a .edi s) z.bytes u = .ok ts v) :
    insBody a z s = (do
      let x ← ioRead (portDx s) z.bytes
      writeProbed .es (indexOf a .edi s) z.bytes ts x
      advance a z .edi : M Unit) v := by
  rw [← indexOf_accessed ((accessed_checkPort ..).ok hcheck)] at hprobe ⊢
  rw [insBody, run_bind_ok (run_readReg ..)]
  exact (run_bind_ok hcheck).trans ((run_bind_ok (run_addrReg ..)).trans (run_bind_ok hprobe))

theorem run_insBody (h : InsStep a z s t) : insBody a z s = .ok () t := by
  obtain ⟨u, ts, v, w, hfits, hcheck, hprobe, hwrite, rfl⟩ := h
  calc insBody a z s
    _ = _ := run_insBody_checked hcheck hprobe
    _ = _ := run_bind_ok (ioRead_fits hfits v)
    _ = _ := run_bind_ok hwrite
    _ = _ := run_advance ..

/-- OUTS up to the access to the port, once the port has passed its check and the element is read. -/
theorem run_outsBody_checked {u v : State} {x : Word} (hcheck : checkPort (portDx s) z.bytes s = .ok () u)
    (hread : readMem (s.dataSeg .ds) (indexOf a .esi s) z.bytes u = .ok x v) :
    outsBody a z s = (do
      ioWrite (portDx s) z.bytes x
      advance a z .esi : M Unit) v := by
  have acc := (accessed_checkPort ..).ok hcheck
  rw [← indexOf_accessed acc, ← dataSeg_accessed acc] at hread
  rw [outsBody, run_bind_ok (run_readReg ..)]
  exact (run_bind_ok hcheck).trans (run_bind_ok ((run_readSource ..).trans hread))

theorem run_outsBody (h : OutsStep a z s t) : outsBody a z s = .ok () t := by
  obtain ⟨x, u, v, hfits, hcheck, hread, rfl⟩ := h
  calc outsBody a z s
    _ = _ := run_outsBody_checked hcheck hread
    _ = _ := run_bind_ok (ioWrite_fits hfits ..)
    _ = _ := run_advance ..

end

/-- INS and OUTS past port FFFFH: the checks before the access pass, and the access is refused. -/
theorem portRefused_of_body {i j : Instr} {a : ASize} {z : Size}
    (hi : ∀ s, exec i s = stringInstr (repeated a false (insBody a z)) s)
    (hj : ∀ s, exec j s = stringInstr (repeated a false (outsBody a z)) s) : PortRefused i j a z := by
  intro s u hl hrun hpast hcheck
  constructor
  · intro ts v hprobe
    refine refused_of_body (t := v) (hi s) hl hrun ?_
    rw [run_insBody_checked (s := markPoint s) hcheck hprobe]
    exact run_bind_error (ioRead_past hpast v)
  · intro x v hread
    refine refused_of_body (t := v) (hj s) hl hrun ?_
    rw [run_outsBody_checked (s := markPoint s) hcheck hread]
    exact run_bind_error (ioWrite_past hpast x v)

/-- Settles O26: each instruction repeats its body, and the body's completed runs are the instruction's steps. -/
theorem stringInstructionsRunAndRepeat : Obligations.StringInstructionsRunAndRepeat := by
  intro a
  refine ⟨?_, ?_, ?_, ?_, ?_, ?_, ?_, ?_, ?_, ?_, ?_, ?_, ?_, ?_, ?_⟩
  iterate 3 exact stringRuns_of_body (fun _ => rfl) run_movsBody
  iterate 3 exact stringRuns_of_body (fun _ => rfl) run_cmpsBody
  iterate 3 exact stringRuns_of_body (fun _ => rfl) run_stosBody
  iterate 3 exact stringRuns_of_body (fun _ => rfl) run_lodsBody
  iterate 3 exact stringRuns_of_body (fun _ => rfl) run_scasBody

/-- Settles O27: IN and OUT by their two bodies, INS and OUTS as O26's instructions, and the refusal of their access. -/
theorem portInstructionsMoveTheirData : Obligations.PortInstructionsMoveTheirData := by
  refine ⟨?_, ?_, ?_, ?_, ?_, ?_, ?_, ?_, fun a => ⟨?_, ?_, ?_, ?_, ?_, ?_, ?_, ?_⟩⟩
  iterate 4
    intros
    exact inputs_of_body (fun _ => rfl) fun _ => rfl
  iterate 4
    intros
    exact outputs_of_body (fun _ => rfl) fun _ => rfl
  iterate 3 exact stringRuns_of_body (fun _ => rfl) run_insBody
  iterate 3 exact stringRuns_of_body (fun _ => rfl) run_outsBody
  iterate 2 exact portRefused_of_body (fun _ => rfl) fun _ => rfl

/-! What an element leaves (R700 to R705, R721, R723). -/

section
variable {a : ASize} {z : Size} {s t : State}

theorem movsStep_leaves (h : MovsStep a z s t) (hwf : Mem.wf s.mem = true) :
    ∃ u w, Accessed s u ∧ Stored .es (indexOf a .edi s) z.bytes u w ∧
      t = advanced a z .edi (advanced a z .esi w) := by
  obtain ⟨v, u, w, hread, hwrite, rfl⟩ := h
  have acc := accessed_readMem_ok hread
  obtain ⟨stored, -⟩ := writeMem_stored (accessed_wf acc hwf) hwrite
  exact ⟨u, w, acc, stored, rfl⟩

theorem cmpsStep_leaves (h : CmpsStep a z s t) :
    ∃ u f, Accessed s u ∧ t = advanced a z .edi (advanced a z .esi { u with flags := f }) := by
  obtain ⟨x, y, u, w, hsource, hdest, rfl⟩ := h
  exact ⟨w, _, accessed_trans (accessed_readMem_ok hsource) (accessed_readMem_ok hdest), rfl⟩

theorem stosStep_leaves (h : StosStep a z s t) (hwf : Mem.wf s.mem = true) :
    ∃ w, Stored .es (indexOf a .edi s) z.bytes s w ∧ t = advanced a z .edi w := by
  obtain ⟨w, hwrite, rfl⟩ := h
  obtain ⟨stored, -⟩ := writeMem_stored hwf hwrite
  exact ⟨w, stored, rfl⟩

theorem lodsStep_leaves (h : LodsStep a z s t) :
    ∃ u v, Accessed s u ∧ t = advanced a z .esi (setReg u z .eax v) := by
  obtain ⟨v, u, hread, rfl⟩ := h
  exact ⟨u, _, accessed_readMem_ok hread, rfl⟩

theorem scasStep_leaves (h : ScasStep a z s t) :
    ∃ u f, Accessed s u ∧ t = advanced a z .edi { u with flags := f } := by
  obtain ⟨y, u, hread, rfl⟩ := h
  exact ⟨u, _, accessed_readMem_ok hread, rfl⟩

theorem linear_accessed (h : Accessed s t) (r : SReg) (off : Word) : t.linear r off = s.linear r off := by
  rw [State.linear, State.linear, State.seg, State.seg, (sameContext_accessed h).segs]

/-- The store of INS goes where the translation put it that was checked before the port was read (D41). -/
theorem insStep_leaves (h : InsStep a z s t) (hwf : Mem.wf s.mem = true) :
    ∃ u ts v w, Accessed s u ∧ probeMem .es (indexOf a .edi s) z.bytes u = .ok ts v ∧ Accessed u v ∧
      StoredAt (probedAt s .es (indexOf a .edi s) z.bytes ts) (portReadDone (portDx s) z v) w ∧
      t = advanced a z .edi w := by
  obtain ⟨u, ts, v, w, -, hcheck, hprobe, hwrite, rfl⟩ := h
  have checked := (accessed_checkPort ..).ok hcheck
  have probed := (accessed_probeMem ..).ok hprobe
  have all := accessed_trans checked probed
  have hwf' : Mem.wf (portReadDone (s.regs.read .w .edx) z v).mem = true := by
    rw [portReadDone_mem]
    exact accessed_wf all hwf
  obtain ⟨stored, -⟩ := writeProbed_stored hwf' hwrite
  rw [portReadDone_linear, linear_accessed all] at stored
  exact ⟨u, ts, v, w, checked, hprobe, probed, stored, rfl⟩

theorem outsStep_leaves (h : OutsStep a z s t) :
    ∃ u x, Accessed s u ∧ t = advanced a z .esi (portWriteDone (portDx s) z x u) := by
  obtain ⟨x, u, v, -, hcheck, hread, rfl⟩ := h
  exact ⟨v, x, accessed_trans ((accessed_checkPort ..).ok hcheck) (accessed_readMem_ok hread), rfl⟩

end

/-- Settles O28, step by step. -/
theorem stringElementsChangeOnlyTheirOperands : Obligations.StringElementsChangeOnlyTheirOperands :=
  fun _ _ _ _ hwf =>
    ⟨fun h => movsStep_leaves h hwf, cmpsStep_leaves, fun h => stosStep_leaves h hwf, lodsStep_leaves,
      scasStep_leaves, fun h => insStep_leaves h hwf, outsStep_leaves⟩

end Sys2Proof.Machine
end

section
/-! PROOFS. Flag control and transfer, NOP, and CLI and STI (O29 to O33): opcodes of one byte, and what is left of the
state by instructions that change flags, AH or nothing. -/

namespace Sys2Proof.Machine

/-! Flag control and NOP (R760, R761, R763, R766, R767, R780). -/

/-- An opcode of one byte that stands for one instruction under every size. -/
theorem decode_opcode {i : Instr} {op : Byte} (henc : encode i = [op]) (hw : i.wf = true)
    (hf : ∀ o a, i.fits o a = true) (o : OSize) (a : ASize) (rest : List Byte) :
    decode o a (op :: rest) = .ok (i, rest) := by
  have back := encodedInstructionDecodesBack i o a rest hw (hf o a)
  rwa [henc] at back

theorem flagsBecome_of_changeFlags {i : Instr} {f : Flags → Flags} (hi : ∀ s, exec i s = changeFlags f s) :
    FlagsBecome i f :=
  fun s hs => (hi s).trans (instr_ok hs (run_modify ..))

/-- Settles O29: each opcode is the encoding of its instruction, and each instruction is one change of the flags. -/
theorem flagInstructionsChangeOneFlag : Obligations.FlagInstructionsChangeOneFlag := by
  refine ⟨fun o a rest => ⟨?_, ?_, ?_, ?_, ?_⟩, ?_, ?_, ?_, ?_, ?_⟩
  iterate 5 exact decode_opcode rfl rfl (fun _ _ => rfl) o a rest
  iterate 5 exact flagsBecome_of_changeFlags fun _ => rfl

/-- Settles O30: AH is read, and its bits replace five flags. -/
theorem sahfLoadsFiveFlags : Obligations.SahfLoadsFiveFlags :=
  ⟨decode_opcode rfl rfl fun _ _ => rfl, fun _ hs => instr_ok hs (run_bind_ok (run_readReg ..))⟩

/-- An exchange of EAX with itself writes back what it has read. -/
theorem run_xchgTo_eax_eax (s : State) : xchgTo .d (.reg .eax) .eax s = .ok () s :=
  run_xchgTo (p := .reg .eax) (t := s) rfl rfl

/-- Settles O31: the exchange of EAX with itself has the empty body of NOP. -/
theorem nopChangesNothing : Obligations.NopChangesNothing :=
  have sameBody : xchgTo .d (.reg .eax) .eax = pure () := funext run_xchgTo_eax_eax
  ⟨decode_opcode rfl rfl fun _ _ => rfl,
    fun s hs => ⟨instr_ok hs (run_pure ..), congrArg (fun body => instr body s) sameBody⟩⟩

/-! LAHF (R764). -/

/-- AH after LAHF, with the open bits 5, 3 and 1 from `x` (U3). -/
def lahfByte (f : Flags) (x : BitVec 3) : Byte :=
  BitVec.ofBool f.sf ++ BitVec.ofBool f.zf ++ x.extractLsb' 2 1 ++ BitVec.ofBool f.af ++ x.extractLsb' 1 1
    ++ BitVec.ofBool f.pf ++ x.extractLsb' 0 1 ++ BitVec.ofBool f.cf

theorem lahfByte_flags (f : Flags) (x : BitVec 3) :
    (lahfByte f x).getLsbD 7 = f.sf ∧ (lahfByte f x).getLsbD 6 = f.zf ∧ (lahfByte f x).getLsbD 4 = f.af ∧
      (lahfByte f x).getLsbD 2 = f.pf ∧ (lahfByte f x).getLsbD 0 = f.cf := by
  simp only [lahfByte, BitVec.getLsbD_append]
  simp

/-- Settles O32, with the open bits of `lahfByte` drawn. -/
theorem lahfStoresFiveFlags : Obligations.LahfStoresFiveFlags := by
  intro s hs
  obtain ⟨sf, zf, af, pf, cf⟩ := lahfByte_flags s.flags ((Config.freeWord s.draws).setWidth 3)
  refine ⟨_, sf, zf, af, pf, cf, instr_ok hs ?_⟩
  rw [run_get_bind, run_bind_ok (run_freeBits ..)]
  rfl

/-! CLI and STI (R762, R768). -/

theorem mayChangeIf_iff (s : State) : s.mayChangeIf = true ↔ MayChangeIf s := by
  rw [State.mayChangeIf, Bool.or_eq_true, decide_eq_true_iff]

/-- What CLI and STI do once they have looked at the privilege level. -/
theorem needMayChangeIf {i : Instr} {s : State} {rest : State → M Unit} (hs : Plain s)
    (hi : exec i s = instr (do
      let s ← get
      require s.mayChangeIf (.gp 0)
      rest s) s) :
    (MayChangeIf s → GoesOn i s (rest (markPoint s)) (markPoint s)) ∧
      (¬MayChangeIf s → exec i s = deliverExc (.gp 0) (markPoint s) (markPoint s)) := by
  have start := goesOn_of_instr hi hs
  refine ⟨fun h => start.after (require_bind ((mayChangeIf_iff (markPoint s)).mpr h)), fun h => start.raises ?_⟩
  exact require_bind_error (Bool.eq_false_iff.mpr (mt (mayChangeIf_iff (markPoint s)).mp h))

/-- Settles O33: what CLI and STI do after the test of `needMayChangeIf`. -/
theorem cliAndStiNeedTheIoPrivilege : Obligations.CliAndStiNeedTheIoPrivilege := by
  intro s hs
  obtain ⟨cli, cliDenied⟩ := needMayChangeIf (i := .cli)
    (rest := fun s => setFlags { s.flags with ie := false }) hs rfl
  obtain ⟨sti, stiDenied⟩ := needMayChangeIf (i := .sti)
    (rest := fun s => do
      setFlags { s.flags with ie := true }
      modify fun t => { t with latches := { t.latches with stiShadow := !s.flags.ie } }) hs rfl
  exact ⟨fun h => ⟨(cli h).completes rfl, (sti h).completes rfl⟩, fun h => ⟨cliDenied h, stiDenied h⟩⟩

end Sys2Proof.Machine
end

section
/-! PROOFS. ESC, WAIT and the reserved opcodes (O35): the delivery of an exception answers a next state, and what the
coprocessor instructions look at, one after the other. -/

namespace Sys2Proof.Machine

/-! The delivery of an exception ends (R918). -/

/-- Taking an event refuses nothing, so every branch of its delivery answers a state. -/
theorem deliverN_next (fuel : Nat) (ev : Event) (s : State) : ∃ t, deliverN fuel ev s = .next t := by
  induction fuel generalizing ev s with
  | zero => exact ⟨_, rfl⟩
  | succ n ih =>
    unfold deliverN
    simp only
    cases hrun : enter ev (markPoint (currentMode s)) with
    | ok a t => exact ⟨_, rfl⟩
    | error e t =>
      obtain ⟨x, rfl, -⟩ := (raises_enter ev).run _ _ _ hrun
      simp only
      cases escalate ev x with
      | none => exact ⟨_, rfl⟩
      | some ev' => exact ih ev' _

theorem deliverExc_next (e : Exc) (before after : State) : ∃ t, deliverExc e before after = .next t :=
  deliverN_next ..

/-! ESC (R795). -/

theorem escBody_notAvailable {rm : Rm} {s : State} (h : s.sys.cr0.em = true ∨ s.sys.cr0.ts = true) :
    escBody rm s = .error (.exc .nm) s := by
  rw [escBody, run_get_bind]
  cases hem : s.sys.cr0.em with
  | true => rfl
  | false =>
    rw [h.resolve_left (by simp [hem])]
    rfl

/-- With EM and TS clear and an operand that can be read, the coprocessor is reached. -/
theorem escBody_reaches {rm : Rm} {s t : State} {v : Byte} (hem : s.sys.cr0.em = false) (hts : s.sys.cr0.ts = false)
    (hr : readRm .b rm s = .ok v t) : ∃ u, escBody rm s = .error (.refuse .coprocessor) u := by
  obtain ⟨p, hp, hread⟩ := readRm_ok hr
  rw [escBody, run_get_bind, require_bind (by simp [hem]), require_bind (by simp [hts]), run_bind_ok hp]
  cases p with
  | reg r => exact ⟨s, rfl⟩
  | mem sr off =>
    obtain ⟨w, u, hmem, -⟩ := bind_ok hread
    exact ⟨u, run_bind_ok hmem⟩

theorem escapes_of_escBody {i : Instr} {rm : Rm} (hi : ∀ s, exec i s = instr (escBody rm) s) : Escapes i rm := by
  intro s hs
  refine ⟨fun h => ?_, fun hem hts v t hr => ?_⟩
  · have raised : exec i s = deliverExc .nm (markPoint s) (markPoint s) :=
      (hi s).trans (instr_exc hs (escBody_notAvailable (s := markPoint s) h))
    exact ⟨raised, raised ▸ deliverExc_next ..⟩
  · obtain ⟨u, reached⟩ := escBody_reaches (s := markPoint s) hem hts hr
    exact (hi s).trans (instr_refused hs reached)

/-! WAIT (R796). -/

/-- What is left of WAIT once TS and MP have been looked at. -/
def waitReady (s : State) : M Unit :=
  if s.now.busy then modify fun s => { s with eip := s.cur.start, cur := { s.cur with again := true, soft := true } }
  else require (!s.now.error) .mf

theorem wait_notAvailable {s : State} (hs : Plain s) (h : s.sys.cr0.ts = true ∧ s.sys.cr0.mp = true) :
    exec .wait s = deliverExc .nm (markPoint s) (markPoint s) :=
  (goesOn_of_instr rfl hs).raises (require_bind_error (by simp [h]))

theorem wait_goesOn {s : State} (hs : Plain s) (h : ¬(s.sys.cr0.ts = true ∧ s.sys.cr0.mp = true)) :
    GoesOn .wait s (waitReady (markPoint s)) (markPoint s) :=
  (goesOn_of_instr rfl hs).after (require_bind (by rwa [Bool.not_eq_true', ← Bool.not_eq_true, Bool.and_eq_true]))

/-! The reserved opcodes (R351). -/

theorem exec_reserved {i : Instr} (h : isReserved i = true) (s : State) : exec i s = .refused .reservedOpcode := by
  cases i
  case reservedF6 | reservedF7 | reservedC0 | reservedC1 | reservedD0 | reservedD1 | reservedD2 | reservedD3
      | reserved82 | reservedD6 | reservedF1 | reserved0F07 | reserved0F10 | reserved0F11 | reserved0F12
      | reserved0F13 => rfl
  -- No other instruction is reserved.
  all_goals cases h

/-- Settles O35: the eight ESC rows share one body, and WAIT goes on by BUSY# and then by ERROR#. -/
theorem coprocessorAndReservedOpcodes : Obligations.CoprocessorAndReservedOpcodes := by
  refine ⟨fun n rm => ?_, fun s hs => ⟨wait_notAvailable hs, fun h => ?_⟩, fun i s h => exec_reserved h s⟩
  · and_intros <;> exact escapes_of_escBody fun _ => rfl
  · have left := wait_goesOn hs h
    refine ⟨fun hb he => left.completes ?_, fun hb he => left.raises ?_, fun hb => left.completes ?_⟩
    · rw [waitReady, markPoint_now, hb, he]
      rfl
    · rw [waitReady, markPoint_now, hb, he]
      rfl
    · rw [waitReady, markPoint_now, hb]
      rfl

end Sys2Proof.Machine
end

section
/-! PROOFS. ENTER and LEAVE (O25): the enclosing frame pointers that ENTER copies, the frame pointer that it sets, and
the room for the locals. -/

namespace Sys2Proof.Machine

/-! What the pushes of ENTER leave. -/

theorem framesCopied_of_copyFrames {z : Size} {n : Nat} {bp : Word} {s t : State} (hwf : Mem.wf s.mem = true)
    (h : copyFrames z n bp s = .ok () t) : FramesCopied z n s t ∧ Mem.wf t.mem = true := by
  induction n generalizing bp s with
  | zero =>
    cases h
    exact ⟨rfl, hwf⟩
  | succ n ih =>
    obtain ⟨v, u, hread, h⟩ := bind_ok h
    obtain ⟨_, w, hpush, hrest⟩ := bind_ok h
    have read := accessed_readMem_ok hread
    obtain ⟨pushed, hwf'⟩ := push_pushed (accessed_wf read hwf) hpush
    obtain ⟨copied, hwf''⟩ := ih hwf' hrest
    exact ⟨⟨u, w, read, pushed, copied⟩, hwf''⟩

theorem sameContext_framesCopied {z : Size} {n : Nat} {s t : State} (h : FramesCopied z n s t) : SameContext s t := by
  induction n generalizing s with
  | zero =>
    obtain rfl := h
    exact sameContext_refl _
  | succ n ih =>
    obtain ⟨u, w, read, pushed, copied⟩ := h
    exact ((sameContext_accessed read).trans (sameContext_pushed pushed)).trans (ih copied)

/-! The frame pointer (R770, log entry 58). -/

theorem frameDrawn_mem (o : OSize) (s t : State) : (frameDrawn o s t).mem = t.mem := by
  unfold frameDrawn
  split <;> rfl

theorem sameContext_frameDrawn (o : OSize) (s t : State) : SameContext t (frameDrawn o s t) := by
  unfold frameDrawn
  split <;> exact ⟨rfl, rfl, rfl, rfl, rfl, rfl⟩

theorem run_padFrame (o : OSize) (s t : State) (frame : Word) :
    padFrame o.size s.stackSize frame t = .ok (frameWord o s frame t.draws) (frameDrawn o s t) := by
  unfold padFrame frameWord frameDrawn
  cases o <;> cases s.stackSize <;> rfl

/-! The end of ENTER (R770). -/

/-- ENTER after its pushes. -/
def makeRoom (o : OSize) (n : BitVec 16) (a : ASize) (frame : Word) : M Unit := do
  let bp ← padFrame o.size a frame
  writeReg o.size .ebp (ofWord o.size bp)
  let u ← get
  let sp := u.regs.esp - n.setWidth 32
  require (!u.isProtected || u.segs.ss.inLimit (stackOff u.stackSize sp) 1) (.ss 0)
  setSp sp

theorem sameContext_setReg (s : State) (z : Size) (r : Reg) (v : z.Val) : SameContext s (setReg s z r v) :=
  ⟨rfl, rfl, rfl, rfl, rfl, rfl⟩

theorem SameContext.stackSize {s t : State} (h : SameContext s t) : t.stackSize = s.stackSize := by
  rw [State.stackSize, State.stackSize, h.segs]

theorem frameEnds_of_makeRoom {i : Instr} {o : OSize} {n : BitVec 16} {s w : State} {frame : Word}
    (hw : SameContext (markPoint s) w) (left : GoesOn i s (makeRoom o n s.stackSize frame) w) :
    FrameEnds i o n s frame w := by
  unfold FrameEnds
  intro v sp fits
  have hv : SameContext (markPoint s) v :=
    (hw.trans (sameContext_frameDrawn o s w)).trans (sameContext_setReg ..)
  have room : GoesOn i s (do
      require (!v.isProtected || v.segs.ss.inLimit (stackOff v.stackSize sp) 1) (.ss 0)
      setSp sp) v := left.after (run_bind_ok (run_padFrame o s w frame))
  have within : (!v.isProtected || v.segs.ss.inLimit (stackOff v.stackSize sp) 1) = true ↔ fits := by
    rw [hv.isProtected, hv.segs, hv.stackSize]
    cases hp : s.isProtected <;> simp [fits, hp]
  exact ⟨fun h => room.completes (require_bind (within.mpr h)),
    fun h => room.raises (require_bind_error (Bool.eq_false_iff.mpr (mt within.mp h)))⟩

section
variable {o : OSize} {n : BitVec 16} {l : BitVec 8} {s t : State}

theorem enter_level_zero (hs : Plain s) (hl : l.toNat % 32 = 0)
    (hp : push o.size (toWord o.size (s.regs.read o.size .ebp)) (markPoint s) = .ok () t) :
    GoesOn (.enter o n l) s (makeRoom o n s.stackSize t.regs.esp) t := by
  refine (goesOn_of_instr rfl hs).after ((run_bind_ok hp).trans ?_)
  exact congrFun (if_neg (not_not_intro hl)) t

theorem enter_level_pos {u w : State} (hs : Plain s) (hl : l.toNat % 32 ≠ 0)
    (hp : push o.size (toWord o.size (s.regs.read o.size .ebp)) (markPoint s) = .ok () t)
    (hc : copyFrames o.size (l.toNat % 32 - 1) s.regs.ebp t = .ok () u)
    (hf : push o.size (frameWord o s t.regs.esp u.draws) (frameDrawn o s u) = .ok () w) :
    GoesOn (.enter o n l) s (makeRoom o n s.stackSize t.regs.esp) w := by
  refine (goesOn_of_instr rfl hs).after ((run_bind_ok hp).trans ?_)
  refine (congrFun (if_pos hl) t).trans ?_
  exact (run_bind_ok hc).trans ((run_bind_ok (run_padFrame o s u t.regs.esp)).trans (run_bind_ok hf))

end

/-- Settles O25: after its pushes every ENTER ends by `makeRoom`. -/
theorem enterAndLeaveBuildStackFrames : Obligations.EnterAndLeaveBuildStackFrames := by
  refine ⟨fun o n l s t hs hwf hl hp => ?_, fun o n l s t u w hs hwf hl hp hc hf => ?_, fun o s v t hs hp => ?_⟩
  · obtain ⟨pushed, -⟩ := push_pushed (s := markPoint s) hwf hp
    exact ⟨pushed, frameEnds_of_makeRoom (sameContext_pushed pushed) (enter_level_zero hs hl hp)⟩
  · obtain ⟨pushed, hwf'⟩ := push_pushed (s := markPoint s) hwf hp
    obtain ⟨copied, hwf''⟩ := framesCopied_of_copyFrames hwf' hc
    obtain ⟨pushedFrame, -⟩ := push_pushed (s := frameDrawn o s u) (by rwa [frameDrawn_mem]) hf
    have context : SameContext (markPoint s) w :=
      (((sameContext_pushed pushed).trans (sameContext_framesCopied copied)).trans
        (sameContext_frameDrawn o s u)).trans (sameContext_pushed pushedFrame)
    exact ⟨pushed, copied, pushedFrame, frameEnds_of_makeRoom context (enter_level_pos hs hl hp hc hf)⟩
  · exact ⟨pop_popped hp, instr_ok hs (run_bind_ok hp)⟩

end Sys2Proof.Machine
end

section
/-! PROOFS. The system instructions (O36 to O40, O42): the privilege level and the mode that they need, the stores and
loads of system registers, and what LAR, LSL, VERR, VERW and ARPL make of a selector. -/

namespace Sys2Proof.Machine

/-! The privilege level and the mode that an instruction needs (R820 to R835). -/

theorem curCpl_protected {s : State} (h : s.isProtected = true) : s.curCpl = s.cpl := by
  obtain ⟨hr, -⟩ := protected_modes h
  simp only [State.isProtected, Bool.and_eq_true, Bool.not_eq_true'] at h
  simp [State.curCpl, hr, h.2]

theorem privileged_error {s : State} (h : s.curCpl ≠ 0) : privileged s = .error (.exc (.gp 0)) s := by
  rw [privileged, run_get_bind, beq_eq_false_iff_ne.mpr h]
  rfl

theorem run_needProtected {s : State} (h : s.isProtected = true) : needProtected s = .ok () s := by
  rw [needProtected, run_get_bind, h]
  rfl

theorem needProtected_error {s : State} (h : s.isProtected = false) : needProtected s = .error (.exc .ud) s := by
  rw [needProtected, run_get_bind, h]
  rfl

/-- What is left of an instruction once its next operation has run. -/
theorem GoesOn.step {α : Type} {i : Instr} {s m u : State} {op : M α} {f : α → M Unit} {a : α}
    (h : GoesOn i s (op >>= f) m) (e : op m = .ok a u) : GoesOn i s (f a) u :=
  h.after (run_bind_ok e)

section
variable {i : Instr} {s : State} {rest : M Unit}

theorem goesOn_privileged (hi : exec i s = instr (do privileged; rest) s) (hs : Plain s) (hc : s.curCpl = 0) :
    GoesOn i s rest (markPoint s) :=
  (goesOn_of_instr hi hs).step (run_privileged (s := markPoint s) hc)

theorem exec_unprivileged (hi : exec i s = instr (do privileged; rest) s) (hs : Plain s) (hc : s.curCpl ≠ 0) :
    exec i s = deliverExc (.gp 0) (markPoint s) (markPoint s) :=
  (goesOn_of_instr hi hs).raises (run_bind_error (privileged_error (s := markPoint s) hc))

theorem goesOn_protected (hi : exec i s = instr (do needProtected; rest) s) (hs : Plain s)
    (hp : s.isProtected = true) : GoesOn i s rest (markPoint s) :=
  (goesOn_of_instr hi hs).step (run_needProtected (s := markPoint s) hp)

theorem exec_unprotected (hi : exec i s = instr (do needProtected; rest) s) (hs : Plain s)
    (hp : s.isProtected = false) : exec i s = deliverExc .ud (markPoint s) (markPoint s) :=
  (goesOn_of_instr hi hs).raises (run_bind_error (needProtected_error (s := markPoint s) hp))

/-- LLDT and LTR look at the mode and then at the privilege level (R826, R829). -/
theorem goesOn_protectedPrivileged (hi : exec i s = instr (do needProtected; privileged; rest) s) (hs : Plain s)
    (hp : s.isProtected = true) (hc : s.cpl = 0) : GoesOn i s rest (markPoint s) :=
  (goesOn_protected hi hs hp).step (run_privileged (s := markPoint s) ((curCpl_protected hp).trans hc))

theorem exec_protectedUnprivileged (hi : exec i s = instr (do needProtected; privileged; rest) s) (hs : Plain s)
    (hp : s.isProtected = true) (hc : s.cpl ≠ 0) : exec i s = deliverExc (.gp 0) (markPoint s) (markPoint s) :=
  (goesOn_protected hi hs hp).raises
    (run_bind_error (privileged_error (s := markPoint s) ((curCpl_protected hp).trans_ne hc)))

end

/-- Outside CPL 0 in-circuit emulation makes no debug fault of a move of a debug register (R1010). -/
theorem movDebug_unprivileged {s : State} (h : s.curCpl ≠ 0) (body : M Unit) : movDebug body s = instr body s := by
  rw [movDebug, beq_eq_false_iff_ne.mpr h]
  simp

theorem exec_isPrivileged {i : Instr} {s : State} (hs : Plain s) (h : isPrivileged i = true) (hc : s.curCpl ≠ 0) :
    exec i s = deliverExc (.gp 0) (markPoint s) (markPoint s) := by
  cases i
  case clts | hlt | lgdt | lidt | lmsw | movR32Cr | movCrR32 | movR32Tr | movTrR32 => exact exec_unprivileged rfl hs hc
  case movR32Dr | movDrR32 => exact exec_unprivileged (movDebug_unprivileged hc _) hs hc
  -- No other instruction is privileged.
  all_goals cases h

theorem exec_onlyProtected {i : Instr} {s : State} (hs : Plain s) (h : onlyProtected i = true)
    (hp : s.isProtected = false) : exec i s = deliverExc .ud (markPoint s) (markPoint s) := by
  cases i
  case arpl | lar | lsl | verr | verw | sldt | str | lldt | ltr => exact exec_unprotected rfl hs hp
  -- Every other instruction is recognized in each mode.
  all_goals cases h

/-- Settles O42: the tests of level and mode stand first in each body. -/
theorem privilegedInstructionsNeedLevelZero : Obligations.PrivilegedInstructionsNeedLevelZero :=
  ⟨⟨fun _ _ hs => exec_isPrivileged hs, fun _ _ hs hp hc =>
      ⟨exec_protectedUnprivileged rfl hs hp hc, exec_protectedUnprivileged rfl hs hp hc⟩⟩,
    fun _ _ hs => exec_onlyProtected hs⟩

/-! CLTS and HLT (R821, R822). -/

/-- Settles O36: what is left of each instruction after the test of the level. -/
theorem clearTaskSwitchedAndHalt : Obligations.ClearTaskSwitchedAndHalt := by
  intro s hs hc
  refine ⟨(goesOn_privileged rfl hs hc).completes rfl, fun htf => ?_, fun htf => ?_⟩
  · refine (goesOn_privileged rfl hs hc).completes ?_
    rw [run_get_bind, markPoint_flags, htf]
    rfl
  · refine instr_refused (t := markPoint s) hs ?_
    rw [run_bind_ok (run_privileged (s := markPoint s) hc), run_get_bind, markPoint_flags, htf]
    rfl

/-! Moves of the control and debug registers (R830). -/

theorem run_setCr0 (c : Cr0) (s : State) : setCr0 c s = .ok () (withCr0 s c) := by
  simp only [setCr0, withCr0, run_modify, Bool.and_eq_true]

/-- The test that MOV to CR0 makes of PG and PE (D56). -/
theorem pagingIsProtected_iff (pg pe : Bool) : (!(pg && !pe)) = true ↔ pg = false ∨ pe = true := by
  cases pg <;> simp

/-- MOV to CR0 once the register has been read. -/
theorem goesOn_movToCr0 {s : State} (r : Reg) (hs : Plain s) (hc : s.curCpl = 0) :
    GoesOn (.movCrR32 .cr0 r) s (do
      require (!((s.regs.get r).getLsbD 31 && !(s.regs.get r).getLsbD 0)) (.gp 0)
      setCr0 (cr0Of (s.regs.get r))
      undefineStatus) (markPoint s) := by
  have start := goesOn_privileged (i := .movCrR32 .cr0 r) rfl hs hc
  exact start.step (run_readReg .d r (markPoint s))

theorem completes_movToCr0 {s : State} {r : Reg} (hs : Plain s) (hc : s.curCpl = 0)
    (h : (s.regs.get r).getLsbD 31 = false ∨ (s.regs.get r).getLsbD 0 = true) :
    Completes (.movCrR32 .cr0 r) s (statusLost (withCr0 (markPoint s) (cr0Of (s.regs.get r)))) := by
  refine (goesOn_movToCr0 r hs hc).completes ?_
  rw [require_bind ((pagingIsProtected_iff ..).mpr h), run_bind_ok (run_setCr0 ..), run_undefineStatus]

theorem movToCr0_denied {s : State} {r : Reg} (hs : Plain s) (hc : s.curCpl = 0)
    (h : (s.regs.get r).getLsbD 31 = true ∧ (s.regs.get r).getLsbD 0 = false) :
    exec (.movCrR32 .cr0 r) s = deliverExc (.gp 0) (markPoint s) (markPoint s) := by
  obtain ⟨hpg, hpe⟩ := h
  exact (goesOn_movToCr0 r hs hc).raises (require_bind_error (by rw [hpg, hpe]; rfl))

/-- While in-circuit emulation does not use the debug registers a move of one runs its body (R1010). -/
theorem movDebug_run {s : State} (h : s.now.ice = false) (body : M Unit) : movDebug body s = instr body s := by
  rw [movDebug, h]
  rfl

theorem movDebug_detected {s : State} (hs : Plain s) (hc : s.curCpl = 0) (h : s.now.ice = true) (body : M Unit) :
    movDebug body s
      = deliverExc .db (markPoint (setDr6 (detectBits s) s)) (markPoint (setDr6 (detectBits s) s)) := by
  obtain ⟨hl, hr⟩ := hs
  rw [movDebug, h, hc, hl, hr]
  rfl

/-- Settles O40: each move after the test of the level, those of the debug registers by `now.ice`. -/
theorem controlAndDebugRegisterMoves : Obligations.ControlAndDebugRegisterMoves := by
  intro s hs hc
  refine ⟨fun r => ?_, fun r => ?_, fun r => ?_, fun r => ⟨completes_movToCr0 hs hc, movToCr0_denied hs hc⟩,
    fun r => ?_, fun r => ?_, fun hice => ⟨fun dr r => ?_, fun dr r => ?_⟩, fun hice dr r => ⟨?_, ?_⟩⟩
  iterate 5 exact (goesOn_privileged rfl hs hc).completes rfl
  · exact (goesOn_privileged (i := .movDrR32 dr r) (movDebug_run hice _) hs hc).completes rfl
  · exact (goesOn_privileged (i := .movR32Dr r dr) (movDebug_run hice _) hs hc).completes rfl
  iterate 2 exact movDebug_detected hs hc hice _

/-! Stores of the table registers and of 16-bit system registers (R831 to R834). -/

theorem storesTable_of_writeTable {i : Instr} {o : OSize} {ea : Ea} {tab : State → TableReg}
    (hi : ∀ s, exec i s = instr (do
      let s ← get
      writeTable o ea (tab s)) s)
    (htab : ∀ s, tab (markPoint s) = tab s) : StoresTable i o ea tab := by
  intro s off u v t hs hwf hea hlimit hbase
  obtain ⟨-, -, rfl⟩ := effAddr_ok hea
  obtain ⟨storedLimit, hwf'⟩ := writeMem_stored (s := markPoint s) hwf hlimit
  obtain ⟨storedBase, -⟩ := writeMem_stored hwf' hbase
  refine ⟨rfl, storedLimit, storedBase, (goesOn_of_instr (hi s) hs).completes ?_⟩
  rw [run_get_bind, htab, writeTable, run_bind_ok hea, run_get_bind, markPoint_dataSeg, run_bind_ok hlimit]
  exact hbase

theorem run_storeSys {rm : Rm} {m : M Half} {s : State} {p : Place} {x : Half} (hp : place rm s = .ok p s)
    (hm : m s = .ok x s) : storeSys rm m s = p.write .w x s := by
  rw [storeSys, run_bind_ok hp, run_bind_ok hm]

theorem storesSys_of_storeSys {i : Instr} {rm : Rm} {v : State → Half}
    (hi : ∀ s, exec i s = instr (do needProtected; storeSys rm (gets v)) s)
    (hv : ∀ s, v (markPoint s) = v s) : StoresSys i rm v := by
  intro s p u t hs hprot hwf hp hw
  obtain rfl := place_same hp
  obtain ⟨written, -⟩ := write_written (s := markPoint s) hwf hw
  refine ⟨rfl, written, (goesOn_protected (hi s) hs hprot).completes ?_⟩
  rw [run_storeSys hp (run_gets ..), hv]
  exact hw

/-! Loads of the table registers (R824). -/

theorem run_readTable {o : OSize} {ea : Ea} {s u v t : State} {off limit base : Word}
    (hea : effAddr ea s = .ok off u) (hlimit : readMem (s.dataSeg (eaSeg ea)) off 2 u = .ok limit v)
    (hbase : readMem (s.dataSeg (eaSeg ea)) (off + 2) 4 v = .ok base t) :
    readTable o ea s
      = .ok { limit := limit.setWidth 16, base := if o = .o16 then base &&& 0x00FFFFFF else base } t := by
  obtain ⟨-, -, rfl⟩ := effAddr_ok hea
  rw [readTable, run_bind_ok hea, run_get_bind, run_bind_ok hlimit, run_bind_ok hbase]
  rfl

theorem loadsTable_of_readTable {i : Instr} {o : OSize} {ea : Ea} {put : SysRegs → TableReg → SysRegs}
    (hi : ∀ s, exec i s = instr (do
      privileged
      let t ← readTable o ea
      modify fun s => { s with sys := put s.sys t }) s) : LoadsTable i o ea put := by
  intro s off u limit v base t hs hc hea hlimit hbase
  have read : Accessed (markPoint s) t :=
    accessed_trans ((accessed_effAddr ea).ok hea)
      (accessed_trans (accessed_readMem_ok hlimit) (accessed_readMem_ok hbase))
  exact ⟨read, ((goesOn_privileged (hi s) hs hc).step (run_readTable hea hlimit hbase)).completes rfl⟩

/-- The bits of CR0 as software reads it (R100, D65). -/
theorem cr0_image_bits (c : Cr0) :
    c.image.getLsbD 0 = c.pe ∧ c.image.getLsbD 1 = c.mp ∧ c.image.getLsbD 2 = c.em ∧ c.image.getLsbD 3 = c.ts ∧
      c.image.getLsbD 4 = true ∧ c.image.getLsbD 31 = c.pg ∧ ∀ k, 5 ≤ k → k < 31 → c.image.getLsbD k = false := by
  simp only [Cr0.image, BitVec.getLsbD_append]
  refine ⟨by simp, by simp, by simp, by simp, by simp, by simp, fun k h5 h31 => ?_⟩
  rw [if_neg, if_neg, if_neg, if_neg, if_neg, if_pos, BitVec.getLsbD_zero] <;> omega

/-- Settles O37: the table registers go through `writeTable` and `readTable`, the others through `storeSys`. -/
theorem tableRegistersAreStoredAndLoaded : Obligations.TableRegistersAreStoredAndLoaded := by
  refine ⟨fun o ea => ?_, fun o ea => ?_, fun o ea => ?_, fun o ea => ?_, fun o rm => ?_, fun o rm => ?_,
    fun o rm => ?_, cr0_image_bits⟩
  iterate 2 exact storesTable_of_writeTable (fun _ => rfl) fun _ => rfl
  iterate 2 exact loadsTable_of_readTable fun _ => rfl
  · exact stores_of_write (fun _ => rfl) fun s p hp => run_storeSys hp (run_gets ..)
  iterate 2 exact storesSys_of_storeSys (fun _ => rfl) fun _ => rfl

/-! LMSW, LLDT and LTR (R826, R827, R829). -/

/-- A store of the processor itself stores its bytes and leaves everything else as an access does. -/
theorem sysWrite_stored {lin v : Word} {n : Nat} {s t : State} (hwf : Mem.wf s.mem = true)
    (h : sysWrite lin n v s = .ok () t) : SysStored lin n s t := by
  obtain ⟨as, u, hphys, h⟩ := bind_ok h
  obtain ⟨stored, -⟩ := physWriteAll_stored hwf ((accessed_physOf ..).ok hphys) (physOf_length hphys) h
  simpa only [SysStored, sysStoredAt, hphys] using stored

theorem setBusy_stored {lin : Word} {busy : Bool} {s t : State} (hwf : Mem.wf s.mem = true)
    (h : setBusy lin busy s = .ok () t) : ∃ x, Accessed s x ∧ SysStored (lin + 5) 1 x t := by
  obtain ⟨b, x, hread, hwrite⟩ := bind_ok h
  have read := (accessed_sysRead ..).ok hread
  exact ⟨x, read, sysWrite_stored (accessed_wf read hwf) hwrite⟩

theorem completes_lmsw {rm : Rm} {s t : State} {v : Half} (hs : Plain s) (hc : s.curCpl = 0)
    (hr : readRm .w rm (markPoint s) = .ok v t) :
    Completes (.lmsw rm) s
      (withCr0 t
        { t.sys.cr0 with
          pe := t.sys.cr0.pe || v.getLsbD 0
          mp := v.getLsbD 1
          em := v.getLsbD 2
          ts := v.getLsbD 3 }) :=
  ((goesOn_privileged rfl hs hc).step hr).completes (run_setCr0 ..)

section
variable {rm : Rm} {s t u w : State} {sel : Half} {lin : Word} {d : Desc}

theorem completes_lldt_null (hs : Plain s) (hp : s.isProtected = true) (hc : s.cpl = 0)
    (hr : readRm .w rm (markPoint s) = .ok sel t) (hn : selNull sel = true) :
    Completes (.lldt rm) s
      { t with sys := { t.sys with ldtr := { t.sys.ldtr with sel := sel, valid := false } } } := by
  refine ((goesOn_protectedPrivileged rfl hs hp hc).step hr).completes ?_
  rw [if_pos hn]
  rfl

theorem completes_lldt (hs : Plain s) (hp : s.isProtected = true) (hc : s.cpl = 0)
    (hr : readRm .w rm (markPoint s) = .ok sel t) (hn : selNull sel = false) (hti : selTi sel = false)
    (hd : fetchDesc sel (.gp (selCode sel false)) t = .ok (lin, d) u) (hdt : d.dt = false) (htyp : d.typ = 2)
    (hpres : d.present = true) :
    Completes (.lldt rm) s
      { u with sys := { u.sys with ldtr := { sel := sel, base := d.base, limit := d.limit, valid := true } } } := by
  refine ((goesOn_protectedPrivileged rfl hs hp hc).step hr).completes ?_
  rw [if_neg (by simp [hn]), require_bind (by simp [hti]), run_bind_ok hd]
  dsimp only
  rw [require_bind (by simp [hdt, htyp]), require_bind hpres]
  rfl

theorem completes_ltr (hs : Plain s) (hp : s.isProtected = true) (hc : s.cpl = 0)
    (hr : readRm .w rm (markPoint s) = .ok sel t) (hn : selNull sel = false) (hti : selTi sel = false)
    (hd : fetchDesc sel (.gp (selCode sel false)) t = .ok (lin, d) u) (havail : IsFreeTss d)
    (hpres : d.present = true) (hbusy : setBusy lin true u = .ok () w) :
    Completes (.ltr rm) s
      { w with sys := { w.sys with tr := { sel := sel, base := d.base, limit := d.limit, typ := d.typ } } } := by
  refine ((goesOn_protectedPrivileged rfl hs hp hc).step hr).completes ?_
  rw [require_bind (by simp [hn, hti]), run_bind_ok hd]
  dsimp only
  rw [require_bind ((availTss_iff d).mpr havail), require_bind hpres, run_bind_ok hbusy]
  rfl

end

/-- Settles O38: the loads above, with what the reads before them leave. -/
theorem systemRegistersAreLoaded : Obligations.SystemRegistersAreLoaded := by
  refine ⟨fun rm s v t hs hc hr => ⟨readRm_accessed hr, completes_lmsw hs hc hr⟩,
    fun rm s sel t hs hp hc hr => ⟨readRm_accessed hr, completes_lldt_null hs hp hc hr,
      fun lin d u hn hti hd hdt htyp hpres =>
        ⟨accessed_fetch hd, completes_lldt hs hp hc hr hn hti hd hdt htyp hpres⟩⟩, ?_⟩
  intro rm s sel t lin d u w hs hwf hp hc hr hn hti hd hdt htyp hpres hbusy
  have read : Accessed (markPoint s) u := accessed_trans (readRm_accessed hr) (accessed_fetch hd)
  exact ⟨read, setBusy_stored (accessed_wf read hwf) hbusy,
    completes_ltr hs hp hc hr hn hti hd ⟨hdt, htyp⟩ hpres hbusy⟩

/-! The inspection of a selector (R823, R828, R835). -/

theorem accessed_peekDesc (sel : Half) : Ends Accessed AccessedStop (peekDesc sel) := by
  unfold peekDesc
  refine ends_get_any fun s => ends_ite (ends_pure composes_accessed _) ?_
  cases descAddr s sel with
  | none => exact ends_pure composes_accessed _
  | some lin => exact ends_bind composes_accessed (accessed_readDesc lin) fun d => ends_pure composes_accessed _

/-- The reads of a selector and of the descriptor that it names are one access. -/
theorem accessed_inspected {z : Size} {rm : Rm} {sel : Half} {s u t : State} {v : z.Val} {x : Option Desc}
    (hr : readRm z rm s = .ok v u) (hpeek : peekDesc sel u = .ok x t) : Accessed s t :=
  accessed_trans (readRm_accessed hr) ((accessed_peekDesc sel).ok hpeek)

theorem visibleAt_iff {s t : State} (h : Accessed s t) (sel : Half) (d : Desc) (exempt : Bool) :
    visibleAt t.cpl sel d exempt = true ↔ Visible s sel d exempt := by
  rw [(sameContext_accessed h).cpl, visibleAt, Bool.or_eq_true, decide_eq_true_iff, maxPl_le_iff]

theorem larType_iff (d : Desc) :
    larType d = true ↔ d.dt = true ∨ (d.typ ≠ 0 ∧ d.typ ≠ 8 ∧ d.typ ≠ 10 ∧ d.typ ≠ 13) := by
  simp [larType, and_assoc]

theorem lslType_iff (d : Desc) :
    lslType d = true ↔
      d.dt = true ∨ d.typ = 1 ∨ d.typ = 2 ∨ d.typ = 3 ∨ d.typ = 9 ∨ d.typ = 11 := by
  simp [lslType, or_assoc]

/-- LAR and LSL once the descriptor has been looked up: what is done with one that passes `test` and is visible. -/
def inspectDesc (sel : Half) (test : Desc → Bool) (found : Desc → M Unit) (x : Option Desc) : M Unit := do
  let s ← get
  match x with
  | none => setZf false
  | some d => if test d && visibleAt s.cpl sel d d.conforming then found d else setZf false

/-- LAR and LSL. -/
def inspectBody (o : OSize) (rm : Rm) (test : Desc → Bool) (found : Desc → M Unit) : M Unit := do
  needProtected
  let sel ← selectorOf o rm
  let x ← peekDesc sel
  inspectDesc sel test found x

/-- What LAR loads from a descriptor that it accepts (R823). -/
def loadRights (o : OSize) (r : Reg) (d : Desc) : M Unit := do
  let x ← freeBits 4
  let v : Word := (d.hi &&& 0x00F0FF00) ||| (x.setWidth 32 <<< 16)
  writeReg o.size r (ofWord o.size v)
  setZf true

/-- What LSL loads from a descriptor that it accepts (R828). -/
def loadLimit (o : OSize) (r : Reg) (d : Desc) : M Unit := do
  writeReg o.size r (ofWord o.size d.limit)
  setZf true

theorem exec_lar (o : OSize) (r : Reg) (rm : Rm) (s : State) :
    exec (.lar o r rm) s = instr (inspectBody o rm larType (loadRights o r)) s := rfl

theorem exec_lsl (o : OSize) (r : Reg) (rm : Rm) (s : State) :
    exec (.lsl o r rm) s = instr (inspectBody o rm lslType (loadLimit o r)) s := rfl

theorem run_selectorOf {o : OSize} {rm : Rm} {s t : State} {v : o.size.Val} (h : readRm o.size rm s = .ok v t) :
    selectorOf o rm s = .ok ((toWord o.size v).setWidth 16) t :=
  run_bind_ok h

theorem inspects_of_body {i : Instr} {o : OSize} {r : Reg} {rm : Rm} {test : Desc → Bool} {found : Desc → M Unit}
    {ok : Desc → Prop} {n : Nat} {value : State → Desc → Word}
    (hi : ∀ s, exec i s = instr (inspectBody o rm test found) s) (htest : ∀ d, test d = true ↔ ok d)
    (hfound : ∀ d t, found d t = .ok ()
      (zfIs { setReg t o.size r (ofWord o.size (value t d)) with draws := t.draws + n } true)) :
    Inspects i o r rm ok n value := by
  intro s v u x t hs hp hr hpeek sel
  have read : Accessed (markPoint s) t := accessed_inspected hr hpeek
  have left : GoesOn i s (inspectDesc sel test found x) t :=
    ((goesOn_protected (hi s) hs hp).step (run_selectorOf hr)).step hpeek
  have passes (d : Desc) : (test d && visibleAt t.cpl sel d d.conforming) = true ↔
      ok d ∧ Visible s sel d d.conforming := by
    rw [Bool.and_eq_true, htest, visibleAt_iff read]
    rfl
  refine ⟨read, ?_, ?_⟩
  · rintro rfl
    exact left.completes rfl
  · rintro d rfl
    exact ⟨fun h => left.completes ((congrFun (if_pos ((passes d).mpr h)) t).trans (hfound d t)),
      fun h => left.completes (congrFun (if_neg (mt (passes d).mp h)) t)⟩

theorem dt_of_readable {d : Desc} (h : d.readable = true) : d.dt = true := by
  simp only [Desc.readable, Desc.isData, Desc.isCode, Bool.or_eq_true, Bool.and_eq_true] at h
  tauto

theorem dt_of_writable {d : Desc} (h : d.writable = true) : d.dt = true := by
  simp only [Desc.writable, Desc.isData, Bool.and_eq_true] at h
  tauto

/-- VERR and VERW once the descriptor has been looked up. -/
def verifyDesc (sel : Half) (test exempt : Desc → Bool) (x : Option Desc) : M Unit := do
  let s ← get
  match x with
  | none => setZf false
  | some d => setZf (d.dt && test d && visibleAt s.cpl sel d (exempt d))

theorem verifies_of_body {i : Instr} {rm : Rm} {test exempt : Desc → Bool}
    (hi : ∀ s, exec i s = instr (verifyBody rm test exempt) s) (hdt : ∀ d, test d = true → d.dt = true) :
    Verifies i rm (fun d => test d = true) exempt := by
  intro s sel u x t hs hp hr hpeek
  have read : Accessed (markPoint s) t := accessed_inspected hr hpeek
  have left : GoesOn i s (verifyDesc sel test exempt x) t := ((goesOn_protected (hi s) hs hp).step hr).step hpeek
  have passes (d : Desc) : (d.dt && test d && visibleAt t.cpl sel d (exempt d)) = true ↔
      test d = true ∧ Visible s sel d (exempt d) := by
    rw [Bool.and_eq_true, Bool.and_eq_true, visibleAt_iff read, and_iff_right_of_imp (hdt d)]
    rfl
  refine ⟨read, ?_, ?_⟩
  · rintro rfl
    exact left.completes rfl
  · rintro d rfl
    have sets : Completes i s (zfIs t (d.dt && test d && visibleAt t.cpl sel d (exempt d))) := left.completes rfl
    exact ⟨fun h => (passes d).mpr h ▸ sets, fun h => Bool.eq_false_iff.mpr (mt (passes d).mp h) ▸ sets⟩

/-! ARPL (R820). -/

section
variable {rm : Rm} {r : Reg} {s t w : State} {p : Place} {v : Half}

/-- What is left of ARPL once both selectors have been read. -/
theorem goesOn_arpl (hs : Plain s) (hprot : s.isProtected = true) (hp : place rm (markPoint s) = .ok p (markPoint s))
    (hr : p.readRmw .w (markPoint s) = .ok v t) :
    GoesOn (.arpl rm r) s
      (if (rpl v).toNat < (rpl (s.regs.read .w r)).toNat then do
        p.write .w (withRpl v (rpl (s.regs.read .w r)))
        setZf true
      else setZf false) t := by
  have source : t.regs.read .w r = s.regs.read .w r :=
    read_of_regs .w r (accessed_regs (s := markPoint s) ((accessed_readRmw .w p).ok hr))
  have left := (((goesOn_protected (i := .arpl rm r) rfl hs hprot).step hp).step hr).step (run_readReg .w r t)
  rwa [source] at left

end

/-- Settles O39: LAR and LSL share `inspectBody`, VERR and VERW `verifyBody`, and ARPL compares the two levels. -/
theorem selectorInspectionSetsZf : Obligations.SelectorInspectionSetsZf := by
  refine ⟨fun o r rm => ?_, fun o r rm => ?_, fun rm => ?_, fun rm => ?_, ?_⟩
  · exact inspects_of_body (exec_lar o r rm) larType_iff fun _ _ => rfl
  · exact inspects_of_body (exec_lsl o r rm) lslType_iff fun _ _ => rfl
  · exact verifies_of_body (fun _ => rfl) fun _ => dt_of_readable
  · exact verifies_of_body (fun _ => rfl) fun _ => dt_of_writable
  · intro rm r s p u v t hs hwf hprot hp hr b
    obtain rfl := place_same hp
    obtain ⟨read, hwf'⟩ := readRmw_accessed (s := markPoint s) hwf hr
    have left := goesOn_arpl (r := r) hs hprot hp hr
    refine ⟨rfl, read, fun hle => ?_, fun hlt w hw => ?_⟩
    · rw [if_neg (Nat.not_lt.mpr hle)] at left
      exact left.completes rfl
    · rw [if_pos hlt] at left
      obtain ⟨written, -⟩ := write_written hwf' hw
      exact ⟨written, (left.step hw).completes rfl⟩

end Sys2Proof.Machine
end

section
/-! PROOFS. RESET# (O50, O51): the state that it loads, before a step and in the middle of one. -/

namespace Sys2Proof.Machine

/-- The image of EFLAGS with all stored flags clear has bit 1 alone set below its open bits (R70, R1050). -/
theorem image_reset (high : BitVec 14) : State.reset.flags.image high = high ++ (0x00002 : BitVec 18) := by
  have low : State.reset.flags.low = 2#16 := by decide
  apply BitVec.eq_of_toNat_eq
  rw [Flags.image, low]
  simp only [toNat_append_eq]
  change ((high.toNat * 2 ^ 1 + 0) * 2 ^ 1 + 0) * 2 ^ 16 + 2 = high.toNat * 2 ^ 18 + 2
  omega

/-- DX holds the component identifier above the revision number (R1050). -/
theorem identifier_reset :
    State.reset.regs.edx.extractLsb' 8 8 = 0x23 ∧ State.reset.regs.edx.extractLsb' 0 8 = Config.revisionId := by
  have dx : State.reset.regs.edx.toNat = 0x23 * 2 ^ 8 + Config.revisionId.toNat := by
    rw [State.reset, toNat_append_eq]
    rfl
  constructor <;> apply BitVec.eq_of_toNat_eq <;> rw [toNat_extract, dx]
  · change _ = 0x23
    omega
  · omega

/-- The first byte after RESET# is fetched from FFFFF0H (R1050). -/
theorem fetchAddr_resetState (s : State) : fetchAddr (resetState s) 0 = some 0xFFFFF0 := by
  have lin : (resetState s).linear .cs ((resetState s).eip + BitVec.ofNat 32 0) = 0xFFFFFFF0 :=
    (by decide : (0xFFFF0000 : Word) + (0x0000FFF0 + BitVec.ofNat 32 0) = 0xFFFFFFF0)
  rw [fetchAddr, translate_direct rfl, lin]
  rfl

/-- RESET# loads the table of initial values, whatever the state (R1050). -/
theorem resetValues_resetState (s : State) : ResetValues (resetState s) where
  eip := rfl
  cs := ⟨rfl, rfl, rfl⟩
  ds := ⟨rfl, rfl, rfl⟩
  data := ⟨rfl, rfl, rfl, rfl⟩
  flags := image_reset
  cr0 := (by decide : State.reset.sys.cr0.image = 0x00000010)
  dr7 := rfl
  idtr := rfl
  dx := identifier_reset
  mode := ⟨rfl, rfl, rfl, rfl⟩
  queue := rfl
  latches := ⟨rfl, rfl, rfl, rfl⟩
  first := fetchAddr_resetState s

theorem takeTick_cons {s : State} {x : Tick} {rest : List Tick} (h : s.inputs = x :: rest) :
    takeTick s = { s with now := x, inputs := rest, cur := Cur.none } := by
  rw [takeTick, h]

/-- A step with RESET# at its beginning (R1050). -/
theorem step_reset_first {s : State} {x : Tick} {rest : List Tick} (h : s.inputs = x :: rest) (hx : x.reset = some 0) :
    step s = .next (resetState (takeTick s)) := by
  rw [step, runTick, takeTick_cons h]
  simp only [hx]

/-- A step in which RESET# comes after some bus events (D12). -/
theorem step_reset_during {s : State} {x : Tick} {rest : List Tick} {n : Nat} (h : s.inputs = x :: rest)
    (hx : x.reset = some (n + 1)) : step s = cutShort (n + 1) (takeTick s) (boundary (latchNmi (takeTick s))) := by
  rw [step, runTick, takeTick_cons h]
  simp only [hx]

/-- Settles O50: the reset state is written down, register by register. -/
theorem resetLoadsTheTableOfInitialValues : Obligations.ResetLoadsTheTableOfInitialValues := by
  intro s x rest h
  refine ⟨fun hx => ⟨_, step_reset_first h hx, resetValues_resetState _, ?_⟩, fun n u hx hu => ?_⟩
  · rw [takeTick_cons h]
    exact ⟨rfl, rfl, rfl, rfl⟩
  · rw [step_reset_during h hx, hu]
    refine ⟨_, rfl, resetValues_resetState _, ?_⟩
    rw [takeTick_cons h]
    exact ⟨rfl, rfl, rfl, rfl⟩

/-- Settles O51: every register, table and latch of the reset state is a constant. -/
theorem resetMeetsTheInvariant : Obligations.ResetMeetsTheInvariant where
  canonical := rfl
  directory := rfl
  paging := nofun
  level _ := rfl
  between := ⟨rfl, rfl⟩

end Sys2Proof.Machine
end

section
/-! PROOFS. What a boundary takes (O56): the events by their priority, and the states that wait for the platform. -/

namespace Sys2Proof.Machine

/-! What is accepted (R903, R904, R906 to R908, R1006). -/

theorem takesNmi_iff (s : State) : takesNmi s = true ↔
    s.latches.nmiPending = true ∧ s.latches.nmiBlocked = false ∧ s.latches.inhibit = false := by
  simp [takesNmi, and_assoc]

theorem takesNmi_not {s : State}
    (h : s.latches.inhibit = true ∨ s.latches.nmiPending = false ∨ s.latches.nmiBlocked = true) : takesNmi s = false := by
  rw [Bool.eq_false_iff, ne_eq, takesNmi_iff]
  rintro ⟨hpending, hblocked, hinhibit⟩
  simp [hpending, hblocked, hinhibit] at h

theorem takesIntr_iff (s : State) : takesIntr s = true ↔
    s.now.intr.isSome = true ∧ s.flags.ie = true ∧ s.latches.inhibit = false ∧ s.latches.stiShadow = false := by
  simp [takesIntr, and_assoc]

theorem takesIntr_not {s : State}
    (h : s.latches.inhibit = true ∨ s.flags.ie = false ∨ s.latches.stiShadow = true ∨ s.now.intr = none) :
    takesIntr s = false := by
  rw [Bool.eq_false_iff, ne_eq, takesIntr_iff]
  rintro ⟨hintr, hie, hinhibit, hshadow⟩
  simp only [hie, hinhibit, hshadow, Bool.false_eq_true, Bool.true_eq_false, false_or] at h
  rw [h] at hintr
  cases hintr

theorem takesBreakpoint_resumed {s : State} (h : s.flags.rf = true) : takesBreakpoint s = false := by
  simp [takesBreakpoint, h]

theorem takesBreakpoint_halted {s : State} (h : s.latches.halted = true) : takesBreakpoint s = false := by
  simp [takesBreakpoint, h]

/-! The boundary, one equation for each priority (R909). -/

section
variable {s : State}

theorem boundary_shutdown (hshut : s.latches.shutdown = true) :
    boundary s = if takesNmi s then .refused .shutdownNmi else .next s := by
  rw [boundary, if_pos hshut]

theorem boundary_trap (hshut : s.latches.shutdown = false) (htrap : takesTrap s = true) :
    boundary s = deliverTrap s := by
  rw [boundary, if_neg (by simp [hshut]), if_pos htrap]

theorem boundary_breakpoint (hshut : s.latches.shutdown = false) (htrap : takesTrap s = false)
    (hbp : takesBreakpoint s = true) : boundary s = deliverBreakpoint s := by
  rw [boundary, if_neg (by simp [hshut]), if_neg (by simp [htrap]), if_pos hbp]

theorem boundary_nmi (hshut : s.latches.shutdown = false) (htrap : takesTrap s = false)
    (hbp : takesBreakpoint s = false) (hnmi : takesNmi s = true) : boundary s = deliverNmi s := by
  rw [boundary, if_neg (by simp [hshut]), if_neg (by simp [htrap]), if_neg (by simp [hbp]), if_pos hnmi]

theorem boundary_intr {n : Byte} (hshut : s.latches.shutdown = false) (htrap : takesTrap s = false)
    (hbp : takesBreakpoint s = false) (hnmi : takesNmi s = false) (hintr : takesIntr s = true)
    (hn : s.now.intr = some n) : boundary s = deliverIntr n s := by
  rw [boundary, if_neg (by simp [hshut]), if_neg (by simp [htrap]), if_neg (by simp [hbp]), if_neg (by simp [hnmi]),
    hintr, hn]

theorem boundary_quiet (hshut : s.latches.shutdown = false) (htrap : takesTrap s = false)
    (hbp : takesBreakpoint s = false) (hnmi : takesNmi s = false) (hintr : takesIntr s = false) :
    boundary s = if s.latches.halted then .next s else runInstr s := by
  rw [boundary, if_neg (by simp [hshut]), if_neg (by simp [htrap]), if_neg (by simp [hbp]), if_neg (by simp [hnmi]),
    hintr]

end

/-! The states that wait for the platform (R1090). -/

/-- The tick of a step is the head of the inputs, or the quiet one (log entry 21). -/
theorem takeTick_eq (s : State) :
    takeTick s = { s with now := s.inputs.headD Tick.quiet, inputs := s.inputs.tail, cur := Cur.none } := by
  cases hin : s.inputs with
  | nil => simp only [takeTick, hin, List.headD_nil, List.tail_nil]
  | cons x rest => exact takeTick_cons hin

/-- A step whose tick raises nothing but, perhaps, INTR is the boundary with that tick. -/
theorem step_unraised {s : State} (h : ∀ x, s.inputs.head? = some x → x.reset = none ∧ x.nmi = false) :
    step s = endStep (boundary (takeTick s)) := by
  have raised : (takeTick s).now.reset = none ∧ (takeTick s).now.nmi = false := by
    rw [takeTick_eq]
    cases hin : s.inputs with
    | nil => exact ⟨rfl, rfl⟩
    | cons x rest => exact h x (by rw [hin]; rfl)
  obtain ⟨hreset, hnmi⟩ := raised
  have latched : latchNmi (takeTick s) = takeTick s := by
    rw [latchNmi]
    simp only [hnmi, Bool.or_false]
  rw [step, runTick]
  simp only [hreset, latched]

/-- An idle state takes nothing at a boundary, whatever INTR asks for (R1090). -/
theorem boundary_idle {s : State} (h : Idle s) : boundary s = .next s := by
  obtain ⟨hwaits, hnmi⟩ := h
  have noNmi : takesNmi s = false := takesNmi_not (.inr hnmi)
  cases hshut : s.latches.shutdown with
  | true => rw [boundary_shutdown hshut, noNmi]; rfl
  | false =>
    obtain ⟨hhalt, hie, htrap⟩ := hwaits.resolve_left (by simp [hshut])
    rw [boundary_quiet hshut (by simp [takesTrap, htrap]) (takesBreakpoint_halted hhalt) noNmi
      (takesIntr_not (.inr (.inl hie))), if_pos hhalt]

/-- Between steps a legal state is settled already. -/
theorem settled_takeTick {s : State} (h : Legal s) : settled (takeTick s) = { s with inputs := s.inputs.tail } := by
  obtain ⟨hcur, hnow⟩ := h.between
  have level : (if s.sys.cr0.pe then s.cpl else 0) = s.cpl := by
    cases hpe : s.sys.cr0.pe with
    | true => rfl
    | false => exact (h.level hpe).symm
  rw [takeTick_eq, settled]
  simp only [level, ← hcur, ← hnow]

/-- An idle legal state stays as it is through a step without RESET# and NMI (R1090). -/
theorem step_idle {s : State} (hl : Legal s) (hi : Idle s)
    (h : ∀ x, s.inputs.head? = some x → x.reset = none ∧ x.nmi = false) :
    step s = .next { s with inputs := s.inputs.tail } := by
  have waits : Idle (takeTick s) := by
    rw [takeTick_eq]
    exact hi
  rw [step_unraised h, boundary_idle waits, endStep, settled_takeTick hl]

/-- Settles O56, from one equation of the boundary for each priority. -/
theorem boundariesTakeEventsByPriority : Obligations.BoundariesTakeEventsByPriority := by
  refine ⟨fun s hshut hpending hblocked hinhibit => ?_, fun s => step_idle,
    fun s hshut htrap hbp hpending hblocked hinhibit => ?_,
    fun s n hshut htrap hbp hnmi hintr hie hinhibit hshadow => ?_, fun s hshut hhalt htrap hbp h => ?_⟩
  · rw [boundary_shutdown hshut, if_pos ((takesNmi_iff s).mpr ⟨hpending, hblocked, hinhibit⟩)]
  · exact boundary_nmi hshut htrap hbp ((takesNmi_iff s).mpr ⟨hpending, hblocked, hinhibit⟩)
  · exact boundary_intr hshut htrap hbp (takesNmi_not (.inr hnmi))
      ((takesIntr_iff s).mpr ⟨by rw [hintr]; rfl, hie, hinhibit, hshadow⟩) hintr
  · have noNmi : takesNmi s = false := takesNmi_not (h.imp_right And.left)
    have noIntr : takesIntr s = false := takesIntr_not (h.imp_right And.right)
    rw [boundary_quiet hshut htrap hbp noNmi noIntr, if_neg (by simp [hhalt])]

end Sys2Proof.Machine
end

section
/-! PROOFS. Debug exceptions (O59): what waits at a boundary, and what follows a completed instruction. -/

namespace Sys2Proof.Machine

/-! Breakpoint bits. -/

theorem getLsbD_bits4 (f : Nat → Bool) (i : Fin 4) : (bits4 f).getLsbD i = f i := by
  simp only [bits4, BitVec.getLsbD_append]
  fin_cases i <;> simp

/-- The bits of four breakpoints, as bits of DR6. -/
theorem getLsbD_setWidth_bp (v : BitVec 4) (i : Fin 4) : (v.setWidth 32).getLsbD i = v.getLsbD i := by
  rw [BitVec.getLsbD_setWidth, decide_eq_true (by omega), Bool.true_and]

theorem ne_zero_of_getLsbD {n : Nat} {v : BitVec n} {i : Nat} (h : v.getLsbD i = true) : v ≠ 0 := by
  rintro rfl
  simp at h

/-- The hits of an enabled breakpoint are reported at once where LE or GE is set (R1007). -/
theorem reportHits_exact {dr7 : Word} {hits : BitVec 4} {i : Fin 4} (hhit : hits.getLsbD i = true)
    (hen : dr7.getLsbD (2 * i) = true ∨ dr7.getLsbD (2 * i + 1) = true)
    (hexact : dr7.getLsbD 8 = true ∨ dr7.getLsbD 9 = true) (r : BpReport) : reportHits dr7 r hits = (hits, 0) := by
  have enabled : (hits &&& enabledBps dr7).getLsbD i = true := by
    rw [BitVec.getLsbD_and, hhit, enabledBps, getLsbD_bits4, bpEnabled, Bool.true_and, Bool.or_eq_true]
    exact hen
  unfold reportHits
  rw [if_neg (ne_zero_of_getLsbD enabled), if_pos (by simpa using hexact)]

theorem reportHits_zero (dr7 : Word) (r : BpReport) : reportHits dr7 r 0 = (0, 0) :=
  if_pos BitVec.zero_and

/-! The traps of a completed instruction (R1007, R1012 to R1014). -/

/-- The DR6 bits that raise a debug trap after an instruction that began in `s` and ended in `t`. -/
def trapBits (s t : State) : Word :=
  (if s.flags.tf then 0x4000 else 0)
    ||| ((reportHits s.dbg.dr7 t.now.bpReport t.cur.hits).1 ||| t.latches.late).setWidth 32 ||| t.latches.trap

/-- The breakpoint conditions that DR6 shows then. -/
def metHits (t : State) : BitVec 4 := t.cur.hits ||| t.cur.fetchHits ||| instrHits t

theorem debugTraps_none {s t : State} (h : trapBits s t = 0) :
    debugTraps s t
      = .next { t with latches := { t.latches with late := (reportHits s.dbg.dr7 t.now.bpReport t.cur.hits).2 } } :=
  if_pos h

theorem debugTraps_some {s t : State} (h : trapBits s t ≠ 0) : ∃ u, debugTraps s t = deliver .debugTrap u ∧
    u.dbg.dr6 = t.dbg.dr6 ||| (trapBits s t ||| (metHits t).setWidth 32) ||| t.latches.deferred.setWidth 32 ∧
    u.eip = t.eip ∧ u.regs = t.regs :=
  ⟨_, if_neg h, rfl, rfl, rfl⟩

/-- RF after a completed instruction, and the bytes that a repeated one does not fetch again (R710, R943). -/
def ended (bytes : List Byte) (t : State) : State :=
  if (clearRf t).cur.again then
    { clearRf t with queue := bytes.map (fun b => ⟨b, (clearRf t).pe⟩) ++ (clearRf t).queue }
  else clearRf t

theorem ended_eq (bytes : List Byte) (t : State) : ∃ f q, ended bytes t = { t with flags := f, queue := q } := by
  unfold ended clearRf
  cases ha : t.cur.again with
  | true =>
    rw [Bool.or_true, if_pos rfl, if_pos ha]
    exact ⟨_, _, rfl⟩
  | false =>
    rw [Bool.or_false]
    cases t.cur.keepRf
    · rw [if_neg Bool.false_ne_true, if_neg (by simp [ha])]
      exact ⟨_, _, rfl⟩
    · rw [if_pos rfl, if_neg (by simp [ha])]
      exact ⟨_, _, rfl⟩

/-- An instruction that is not repeated ends with RF clear unless it keeps it (R943). -/
theorem ended_once (bytes : List Byte) {t : State} (h : t.cur.again = false) :
    ended bytes t = { t with flags := { t.flags with rf := t.flags.rf && t.cur.keepRf } } := by
  unfold ended clearRf
  rw [h, Bool.or_false]
  cases t.cur.keepRf
  · rw [if_neg Bool.false_ne_true, if_neg (by simp [h]), Bool.and_false]
  · rw [if_pos rfl, if_neg (by simp [h]), Bool.and_true]

/-- The end of a completed instruction after which nothing is inhibited. -/
theorem finish_completed {s t : State} (bytes : List Byte) (hstage : t.cur.stage = .completed)
    (hinhibit : t.latches.inhibit = false) (hsoft : t.cur.soft = false) :
    finish s bytes t = debugTraps s (ended bytes t) := by
  obtain ⟨f, q, he⟩ := ended_eq bytes t
  have folded : finish s bytes t
      = if (ended bytes t).latches.inhibit then .next (holdTraps s (ended bytes t))
        else if (ended bytes t).cur.soft then
          .next { ended bytes t with latches := { (ended bytes t).latches with late := 0 } }
        else debugTraps s (ended bytes t) := by
    unfold finish
    rw [hstage]
    rfl
  rw [folded, if_neg (by simp [he, hinhibit]), if_neg (by simp [he, hsoft])]

/-- A trap that follows a completed instruction shows its own bits and every condition met. -/
theorem finish_trap {s t : State} (bytes : List Byte) (hstage : t.cur.stage = .completed)
    (hinhibit : t.latches.inhibit = false) (hsoft : t.cur.soft = false) {i : Nat}
    (hbit : (trapBits s t).getLsbD i = true) :
    ∃ u, finish s bytes t = deliver .debugTrap u ∧ u.dbg.dr6.getLsbD i = true ∧ ShowsHits t u ∧
      u.eip = t.eip ∧ u.regs = t.regs := by
  obtain ⟨f, q, he⟩ := ended_eq bytes t
  have bits : trapBits s (ended bytes t) = trapBits s t := by rw [he]; rfl
  have met : metHits (ended bytes t) = metHits t := by rw [he]; rfl
  obtain ⟨u, hrun, hdr6, heip, hregs⟩ := debugTraps_some (bits ▸ ne_zero_of_getLsbD hbit)
  rw [bits, met] at hdr6
  refine ⟨u, (finish_completed bytes hstage hinhibit hsoft).trans hrun, ?_, fun j hj => ?_, ?_, ?_⟩
  · rw [hdr6]
    simp [hbit]
  · have shown : (metHits t).getLsbD j = true := by simpa [metHits, or_assoc] using hj
    rw [hdr6, BitVec.getLsbD_or, BitVec.getLsbD_or, BitVec.getLsbD_or, getLsbD_setWidth_bp, shown]
    simp
  · rw [heip, he]
  · rw [hregs, he]

/-- The single-step trap is bit 14 of DR6 (R1012). -/
theorem trapBits_step {s : State} (h : s.flags.tf = true) (t : State) : (trapBits s t).getLsbD 14 = true := by
  simp [trapBits, h]

/-- An exact data breakpoint that is met raises the trap of its own bit (R1007). -/
theorem trapBits_exact {s t : State} {i : Fin 4} (hhit : t.cur.hits.getLsbD i = true)
    (hen : s.dbg.dr7.getLsbD (2 * i) = true ∨ s.dbg.dr7.getLsbD (2 * i + 1) = true)
    (hexact : s.dbg.dr7.getLsbD 8 = true ∨ s.dbg.dr7.getLsbD 9 = true) : (trapBits s t).getLsbD i = true := by
  rw [trapBits, reportHits_exact hhit hen hexact, BitVec.getLsbD_or, BitVec.getLsbD_or, getLsbD_setWidth_bp,
    BitVec.getLsbD_or, hhit]
  simp

/-- Settles O59: the two exceptions at a boundary are its equations, and what follows a completed instruction is read off
the bits that raise a trap. -/
theorem debugExceptionsFollowTheirCauses : Obligations.DebugExceptionsFollowTheirCauses := by
  refine ⟨fun s hshut htrap hbp => ⟨_, boundary_breakpoint hshut htrap hbp, rfl, rfl⟩,
    fun s hshut htrap => ⟨_, boundary_trap hshut htrap, rfl, rfl, rfl⟩, fun _ => takesBreakpoint_resumed,
    fun s bytes t hstage hinhibit hsoft htf => finish_trap bytes hstage hinhibit hsoft (trapBits_step htf t),
    fun s bytes t i hstage hinhibit hsoft hhit hen hexact =>
      finish_trap bytes hstage hinhibit hsoft (trapBits_exact hhit hen hexact),
    fun s bytes t hstage hinhibit hsoft htf hhits hlate htrap hagain => ?_⟩
  have reports : reportHits s.dbg.dr7 t.now.bpReport t.cur.hits = (0, 0) := by rw [hhits, reportHits_zero]
  rw [finish_completed bytes hstage hinhibit hsoft, ended_once bytes hagain, debugTraps_none]
  · rw [reports, ← hlate]
  · rw [trapBits, reports, hlate, htrap, htf]
    rfl

end Sys2Proof.Machine
end

section
/-! PROOFS. One step (O49): the item at CS:EIP, decoded and run, and the bytes that are no instruction. -/

namespace Sys2Proof.Machine

/-! The first item of a step (R909). -/

/-- When nothing comes before it, a step runs the item at CS:EIP. -/
theorem step_runsItem {s : State} (h : NothingPending (latchNmi (takeTick s))) :
    step s = endStep (runItem 16 (ready s) [] (ready s)) := by
  obtain ⟨hreset, hshut, hhalt, htrap, hbp, hnmi, hintr⟩ := h
  have unreset : (takeTick s).now.reset = none := hreset
  rw [step, runTick]
  simp only [unreset]
  rw [boundary_quiet hshut htrap hbp hnmi hintr, if_neg (Bool.eq_false_iff.mp hhalt)]
  rfl

/-! What an item does with the bytes read (R280, R310, R350, R352). -/

section
variable {s : State}

/-- The first item of an instruction leads on as its outcome says. -/
theorem runItem_first {i : Instr} {rest : List Byte}
    (h : decode s.osize s.asize ((fetchAhead 16 s).1.map Prod.fst) = .ok (i, rest)) :
    let read := (fetchAhead 16 s).1.map Prod.fst
    let n := read.length - rest.length
    runItem 16 s [] s = afterItem s (read.take n) (exec i (forJmp i (prefetch (afterBytes s (fetchAhead 16 s).1 n)))) := by
  intro read n
  unfold runItem afterItem
  simp only [h, List.nil_append]
  cases exec i (forJmp i (prefetch (afterBytes s (fetchAhead 16 s).1 n))) with
  | next t => cases hstage : t.cur.stage <;> simp only [hstage] <;> rfl
  | fault f => rfl
  | refused r => rfl

/-- The decoder needs no more bytes to reject than it is given. -/
theorem rejectedAt_le (o : OSize) (a : ASize) (bs : List Byte) (n k : Nat) : rejectedAt o a bs n k ≤ n + k := by
  induction k generalizing n with
  | zero => exact le_refl _
  | succ k ih =>
    unfold rejectedAt
    split
    · exact (ih (n + 1)).trans (by omega)
    · omega

/-- The state in which the bytes of no instruction raise their exception. -/
def rejected (s : State) : State :=
  afterBytes s (fetchAhead 16 s).1 (rejectedAt s.osize s.asize ((fetchAhead 16 s).1.map Prod.fst) 1 15)

/-- Bytes that are no instruction, once the decoder has read what shows it (R350, R830, R940). -/
theorem runItem_rejected {e : DecErr} (hlock : s.cur.lock = false)
    (h : decode s.osize s.asize ((fetchAhead 16 s).1.map Prod.fst) = .error e) (htrunc : e ≠ .truncated)
    (haam : e ≠ .aamAadBase) (hmod : e ≠ .specialMod) :
    runItem 16 s [] s
      = deliverExc (if e = .badSpecial ∧ s.curCpl ≠ 0 then .gp 0 else .ud) (markPoint s) (rejected s) := by
  unfold runItem
  cases e
  case truncated => exact absurd rfl htrunc
  case aamAadBase => exact absurd rfl haam
  case specialMod => exact absurd rfl hmod
  case badSpecial =>
    simp only [h, noSpecial, hlock, Bool.false_or, beq_iff_eq]
    by_cases hcpl : s.curCpl = 0
    · rw [if_pos hcpl, if_neg fun hbad => hbad.2 hcpl]
      rfl
    · rw [if_neg hcpl, if_pos ⟨trivial, hcpl⟩]
      rfl
  all_goals
    simp only [h]
    rw [if_neg fun hbad => nomatch hbad.1]
    rfl

theorem runItem_truncated {e : Exc} {t : State}
    (h : decode s.osize s.asize ((fetchAhead 16 s).1.map Prod.fst) = .error .truncated)
    (hstop : (fetchAhead 16 s).2 = some (.exc e, t)) : runItem 16 s [] s = deliverExc e (markPoint s) t := by
  unfold runItem
  simp only [h, hstop, stopFetch]

/-- Two kinds of bytes are refused (R310, R352). -/
theorem runItem_refused :
    (decode s.osize s.asize ((fetchAhead 16 s).1.map Prod.fst) = .error .aamAadBase →
      runItem 16 s [] s = .refused .aamAadBase) ∧
    (decode s.osize s.asize ((fetchAhead 16 s).1.map Prod.fst) = .error .specialMod →
      runItem 16 s [] s = .refused .specialMod) := by
  constructor <;>
  · intro h
    unfold runItem
    simp only [h]

end

/-- Settles O49: the step runs the first item, and the item goes by what the decoder answers. -/
theorem stepRunsDecodedInstruction : Obligations.StepRunsDecodedInstruction := by
  intro s hs b fetched bytes
  have run : step s = endStep (runItem 16 b [] b) := step_runsItem hs
  obtain ⟨aam, special⟩ := runItem_refused (s := b)
  refine ⟨fun i rest h => ?_, fun h => ?_, fun h => ?_, fun e h htrunc haam hmod => ?_, fun e t h hstop => ?_⟩
  · rw [run, runItem_first h]
  · rw [run, aam h]
    rfl
  · rw [run, special h]
    rfl
  · refine ⟨rejectedAt b.osize b.asize bytes 1 15, rejectedAt_le .., ?_⟩
    rw [run, runItem_rejected rfl h htrunc haam hmod]
    rfl
  · rw [run, runItem_truncated h hstop]

end Sys2Proof.Machine
end

section
/-! PROOFS. The delivery of events (O46): the classes of the double-fault table, the three outcomes of an exception in a
delivery, and the bound that a delivery never reaches. -/

namespace Sys2Proof.Machine

/-! The classes (R918). -/

theorem vecClass_eq (v : Byte) : vecClass v = vectorClass v := by
  have number (n : Byte) : (v == n) = decide (v.toNat = n.toNat) := by
    rw [Bool.eq_iff_iff, beq_iff_eq, decide_eq_true_iff, BitVec.toNat_inj]
  simp only [vecClass, vectorClass, number, Bool.or_eq_true, decide_eq_true_eq]
  split_ifs <;> grind

theorem cls_eq (ev : Event) : ev.cls = if ev.kind = .exception then vectorClass ev.vec else .benign := by
  unfold Event.cls
  cases ev.kind with
  | exception => exact vecClass_eq ev.vec
  | soft => rfl
  | external => rfl

@[simp] theorem cls_ofExc (e : Exc) : (Event.ofExc e).cls = vecClass e.vec := rfl

/-! One delivery (R918, R948). -/

section
variable {ev : Event} {s t : State} {e : Exc}

theorem deliverN_ok (n : Nat) (h : enter ev (markPoint (currentMode s)) = .ok () t) :
    deliverN (n + 1) ev s = .next t := by
  unfold deliverN
  simp only [h]

theorem deliverN_stops (n : Nat) (h : enter ev (markPoint (currentMode s)) = .error (.exc e) t)
    (hnone : escalate ev e = none) :
    deliverN (n + 1) ev s = .next (enterShutdown (afterExc (markPoint (currentMode s)) t)) := by
  unfold deliverN
  simp only [h, hnone]

theorem deliverN_escalates {ev' : Event} (n : Nat) (h : enter ev (markPoint (currentMode s)) = .error (.exc e) t)
    (hsome : escalate ev e = some ev') :
    deliverN (n + 1) ev s = deliverN n ev' (afterExc (markPoint (currentMode s)) t) := by
  rw [deliverN]
  simp only [h, hsome]

/-- The outcomes of a second exception: shutdown, a double fault, or that exception. -/
theorem escalate_double (h : ev.cls = .double) (e : Exc) : escalate ev e = none := by
  simp only [escalate, h]

theorem escalate_combined
    (h : (ev.cls = .contributory ∧ vecClass e.vec = .contributory) ∨
      (ev.cls = .page ∧ (vecClass e.vec = .contributory ∨ vecClass e.vec = .page))) :
    escalate ev e = some (.ofExc .df) := by
  rcases h with ⟨hev, he⟩ | ⟨hev, he | he⟩ <;> simp only [escalate, hev, he]

theorem escalate_separate
    (h : ev.cls = .benign ∨ (ev.cls = .contributory ∧ vecClass e.vec ≠ .contributory) ∨
      (ev.cls = .page ∧ (vecClass e.vec = .benign ∨ vecClass e.vec = .double))) :
    escalate ev e = some (.ofExc e) := by
  rcases h with hev | ⟨hev, he⟩ | ⟨hev, he | he⟩
  · simp only [escalate, hev]
  · cases hvec : vecClass e.vec
    case contributory => exact absurd hvec he
    all_goals simp only [escalate, hev, hvec]
  · simp only [escalate, hev, he]
  · simp only [escalate, hev, he]

/-! The bound (R918, R948). -/

/-- How many exceptions a delivery of an event of a class can raise, one after the other, before it ends: each is of a
later class. -/
def ExcClass.rank (c : ExcClass) : Nat :=
  match c with
  | .benign => 4
  | .contributory => 3
  | .page => 2
  | .double => 1

/-- What is delivered in place of an event is of a later class, if a serious exception took it there. -/
theorem rank_escalate {ev' : Event} (hserious : vecClass e.vec ≠ .benign) (h : escalate ev e = some ev') :
    ev'.cls.rank < ev.cls.rank := by
  cases hev : ev.cls with
  | double => rw [escalate_double hev] at h; cases h
  | benign =>
    rw [escalate_separate (.inl hev)] at h
    cases h
    rw [cls_ofExc]
    cases hvec : vecClass e.vec
    case benign => exact absurd hvec hserious
    all_goals decide
  | contributory =>
    cases hvec : vecClass e.vec
    case benign => exact absurd hvec hserious
    case contributory =>
      rw [escalate_combined (.inl ⟨hev, hvec⟩)] at h
      cases h
      decide
    all_goals
      rw [escalate_separate (.inr (.inl ⟨hev, by simp [hvec]⟩))] at h
      cases h
      rw [cls_ofExc, hvec]
      decide
  | page =>
    cases hvec : vecClass e.vec
    case benign => exact absurd hvec hserious
    case double =>
      rw [escalate_separate (.inr (.inr ⟨hev, .inr hvec⟩))] at h
      cases h
      rw [cls_ofExc, hvec]
      decide
    all_goals
      rw [escalate_combined (.inr ⟨hev, by simp [hvec]⟩)] at h
      cases h
      decide

end

/-- More fuel than the rank of its class changes nothing of a delivery. -/
theorem deliverN_enough {n : Nat} {ev : Event} (h : ev.cls.rank ≤ n) (s : State) :
    deliverN n ev s = deliverN (n + 1) ev s := by
  induction n generalizing ev s with
  | zero => cases hev : ev.cls <;> simp [hev, ExcClass.rank] at h
  | succ n ih =>
    cases hrun : enter ev (markPoint (currentMode s)) with
    | ok a t => rw [deliverN_ok n hrun, deliverN_ok (n + 1) hrun]
    | error x t =>
      obtain ⟨e, rfl, hserious⟩ := (raises_enter ev).run _ _ _ hrun
      cases hesc : escalate ev e with
      | none => rw [deliverN_stops n hrun hesc, deliverN_stops (n + 1) hrun hesc]
      | some ev' =>
        have later : ev'.cls.rank ≤ n := Nat.le_of_lt_succ ((rank_escalate hserious hesc).trans_le h)
        rw [deliverN_escalates n hrun hesc, deliverN_escalates (n + 1) hrun hesc, ih later]

/-- An exception in a delivery is followed by the delivery that the double-fault table gives. -/
theorem deliver_escalates {ev ev' : Event} {s t : State} {e : Exc}
    (h : enter ev (markPoint (currentMode s)) = .error (.exc e) t) (hsome : escalate ev e = some ev') :
    deliver ev s = deliver ev' (afterExc (markPoint (currentMode s)) t) := by
  have bound : ev'.cls.rank ≤ 5 := by
    cases ev'.cls <;> decide
  exact (deliverN_escalates 5 h hsome).trans (deliverN_enough bound _)

/-- Settles O46: each class of a second exception has its outcome, and what is delivered next is of a later class, so that
the bound of a delivery is never reached. -/
theorem deliveryFollowsTheDoubleFaultTable : Obligations.DeliveryFollowsTheDoubleFaultTable := by
  refine ⟨fun ev s => deliverN_next 6 ev s, fun ev s t h => deliverN_ok 5 h, vecClass_eq, cls_eq,
    fun ev s e t h => ⟨fun hdouble => ?_, fun hcombined => ?_, fun hseparate => ?_⟩⟩
  · exact deliverN_stops 5 h (escalate_double hdouble e)
  · exact deliver_escalates h (escalate_combined hcombined)
  · exact deliver_escalates h (escalate_separate hseparate)

end Sys2Proof.Machine
end

section
/-! PROOFS. Taking an event (O44, O45): the vector table in real-address mode, and the gates of the IDT. -/

namespace Sys2Proof.Machine

/-! Entry by the mode (R950, R951, R957). -/

section
variable {ev : Event} {s t : State} {e : Err}

/-- The entry that the mode asks for. -/
def modeEntry (ev : Event) (s : State) : M Unit := if s.isReal then enterReal ev else enterGate ev

/-- An entry that completes ends the halt (R957). -/
theorem enter_ok (h : modeEntry ev s s = .ok () t) : enter ev s = .ok () (awake t) := by
  unfold modeEntry at h
  rw [enter, run_get_bind]
  split at h
  · rw [if_pos ‹_›, run_bind_ok h]
    rfl
  · rw [if_neg ‹_›, run_bind_ok h]
    rfl

theorem enter_error (h : modeEntry ev s s = .error e t) : enter ev s = .error e t := by
  unfold modeEntry at h
  rw [enter, run_get_bind]
  split at h
  · rw [if_pos ‹_›, run_bind_error h]
  · rw [if_neg ‹_›, run_bind_error h]

theorem modeEntry_real (h : s.isReal = true) : modeEntry ev s = enterReal ev := if_pos h

theorem modeEntry_gate (h : s.isReal = false) : modeEntry ev s = enterGate ev := if_neg (by simp [h])

end

/-! In real-address mode (R950). -/

/-- Settles O44, by the three pushes, the vector read and the table limit in turn. -/
theorem realModeEntryPushesFlagsCsAndIp : Obligations.RealModeEntryPushesFlagsCsAndIp := by
  intro ev s hreal n entry quiet
  refine ⟨fun hlim => enter_error ?_, fun a b c ip d cs t hwf hlim hflags hcs hip hvec hsel => ?_⟩
  · rw [modeEntry_real hreal, enterReal, run_get_bind]
    exact require_bind_false (decide_eq_false (by omega))
  · obtain ⟨pushedFlags, wf₁⟩ := push_pushed hwf hflags
    obtain ⟨pushedCs, wf₂⟩ := push_pushed (s := quiet a) wf₁ hcs
    obtain ⟨pushedIp, -⟩ := push_pushed wf₂ hip
    refine ⟨pushedFlags, pushedCs, pushedIp,
      accessed_trans ((accessed_sysRead ..).ok hvec) ((accessed_sysRead ..).ok hsel), enter_ok ?_⟩
    rw [modeEntry_real hreal, enterReal, run_get_bind, require_bind (decide_eq_true hlim), run_bind_ok hflags,
      run_bind_ok (run_setFlags ..), run_bind_ok hcs, run_bind_ok hip, run_bind_ok hvec, run_bind_ok hsel]
    rfl

/-! What an entry through a gate pushes (R953 to R955). -/

section
variable {z : Size} {s t : State}

theorem pushesItems_append {l l' : List Item} :
    PushesItems z (l ++ l') s t ↔ ∃ u, PushesItems z l s u ∧ PushesItems z l' u t := by
  induction l generalizing s with
  | nil => exact ⟨fun h => ⟨s, rfl, h⟩, fun ⟨u, hu, h⟩ => hu ▸ h⟩
  | cons x rest ih =>
    constructor
    · rintro ⟨w, hw, h⟩
      obtain ⟨u, hrest, hl'⟩ := ih.mp h
      exact ⟨u, ⟨w, hw, hrest⟩, hl'⟩
    · rintro ⟨u, ⟨w, hw, hrest⟩, hl'⟩
      exact ⟨w, hw, ih.mpr ⟨u, hrest, hl'⟩⟩

theorem run_pushSel {sel : Half} (h : PushesItems z [.sel sel] s t) : pushSel z sel s = .ok () t := by
  obtain ⟨u, hu, rfl⟩ := h
  exact hu

theorem run_pushReturn {fl eip : Word} {cs : Half} (h : PushesItems z [.value fl, .sel cs, .value eip] s t) :
    pushReturn z fl cs eip s = .ok () t := by
  obtain ⟨u, hfl, h⟩ := h
  have flags : push z fl s = .ok () u := hfl
  rw [pushReturn, run_bind_ok flags, run_pushSelValue h]

theorem run_pushCode {c : Option ErrCode} (h : PushesItems z (codeItems c) s t) : pushCode z c s = .ok () t := by
  match c with
  | none =>
    obtain rfl := h
    rfl
  | some (.sel v) => exact run_pushSel h
  | some (.page bits) =>
    obtain ⟨u, hu, rfl⟩ := h
    exact hu

/-- The old stack pointer, the return frame and the error code, as an entry to an inner stack pushes them. -/
theorem run_pushOuterFrame {β : Type} {ss cs : Half} {esp fl eip : Word} {c : Option ErrCode}
    (h : PushesItems z ([.sel ss, .value esp, .value fl, .sel cs, .value eip] ++ codeItems c) s t) (rest : M β) :
    (do pushSel z ss; push z esp; pushReturn z fl cs eip; pushCode z c; rest) s = rest t := by
  obtain ⟨u, hframe, hcode⟩ := pushesItems_append.mp h
  obtain ⟨v, hold, hret⟩ := (pushesItems_append (l := [.sel ss, .value esp])).mp hframe
  rw [run_pushSelValue_bind hold, run_bind_ok (run_pushReturn hret), run_bind_ok (run_pushCode hcode)]

end

theorem entryFlags_eq (f : Flags) (gate : Desc) : entryFlags f (!gate.typ.getLsbD 0) = flagsEntered f gate := by
  simp [entryFlags, flagsEntered]

/-! The gate (R951, R952). -/

section
variable {ev : Event} {gate : Desc} {s u : State}

theorem enterGate_outside (h : s.sys.idtr.limit.toNat < ev.vec.toNat * 8 + 7) :
    enterGate ev s = .error (.exc (.gp (idtCode ev.vec ev.ext))) s := by
  rw [enterGate, run_get_bind]
  exact require_bind_false (decide_eq_false (by omega))

/-- What is left of an entry once the gate has been read. -/
def passGate (ev : Event) (gate : Desc) (cpl : BitVec 2) : M Unit := do
  let code := idtCode ev.vec ev.ext
  require gate.isIdtGate (.gp code)
  require (!(ev.kind == .soft && decide (gate.dpl.toNat < cpl.toNat))) (.gp code)
  require gate.present (.np code)
  if gate.typ == 5 then enterTask ev gate else enterCode ev gate

theorem run_enterGate (hlim : ev.vec.toNat * 8 + 7 ≤ s.sys.idtr.limit.toNat)
    (hgate : readDesc (s.sys.idtr.base + BitVec.ofNat 32 (ev.vec.toNat * 8)) s = .ok gate u) :
    enterGate ev s = passGate ev gate s.curCpl u := by
  rw [enterGate, run_get_bind, require_bind (decide_eq_true hlim), run_bind_ok hgate]
  rfl

variable {cpl : BitVec 2}

theorem passGate_noGate (h : gate.isIdtGate = false) :
    passGate ev gate cpl u = .error (.exc (.gp (idtCode ev.vec ev.ext))) u := require_bind_false h

theorem passGate_denied (hgate : gate.isIdtGate = true) (hsoft : ev.kind = .soft) (h : gate.dpl.toNat < cpl.toNat) :
    passGate ev gate cpl u = .error (.exc (.gp (idtCode ev.vec ev.ext))) u := by
  rw [passGate, require_bind hgate]
  exact require_bind_false (by simp [hsoft, h])

theorem softAllowed_iff : (!(ev.kind == .soft && decide (gate.dpl.toNat < cpl.toNat))) = true ↔
    (ev.kind = .soft → cpl.toNat ≤ gate.dpl.toNat) := by
  simp [imp_iff_not_or]

theorem passGate_absent (hgate : gate.isIdtGate = true) (hsoft : ev.kind = .soft → cpl.toNat ≤ gate.dpl.toNat)
    (h : gate.present = false) : passGate ev gate cpl u = .error (.exc (.np (idtCode ev.vec ev.ext))) u := by
  rw [passGate, require_bind hgate, require_bind (softAllowed_iff.mpr hsoft), require_bind_false h]

theorem run_passGate (hgate : gate.isIdtGate = true) (hsoft : ev.kind = .soft → cpl.toNat ≤ gate.dpl.toNat)
    (h : gate.present = true) :
    passGate ev gate cpl u = (if gate.typ = 5 then enterTask ev gate else enterCode ev gate) u := by
  rw [passGate, require_bind hgate, require_bind (softAllowed_iff.mpr hsoft), require_bind h]
  simp only [beq_iff_eq]

end

/-! To a code segment (R952 to R955). -/

section
variable {ev : Event} {gate d : Desc} {lin : Word} {s u v : State}

/-- What is left of an entry once the code segment of the gate has been read, and EFLAGS has its image: by the mode and
the level of that segment. -/
def enterByLevel (ev : Event) (gate : Desc) (lin : Word) (d : Desc) (vm : Bool) (cpl : BitVec 2) (image : Word) :
    M Unit :=
  let sel := gate.gateSel
  let e := Exc.gp (selCode sel ev.ext)
  if vm then do
    require (!d.conforming && d.dpl == 0 && gate.typ.getLsbD 3) e
    enterV86 ev gate sel lin d image
  else if !d.conforming && decide (d.dpl.toNat < cpl.toNat) then enterInner ev gate sel lin d image
  else if d.conforming || d.dpl == cpl then enterSame ev gate sel lin d image
  else raise e

theorem run_enterCode (hn : selNull gate.gateSel = false)
    (hd : fetchDesc gate.gateSel (.gp (selCode gate.gateSel ev.ext)) u = .ok (lin, d) v) (hcode : d.isCode = true)
    (hpres : d.present = true) :
    enterCode ev gate u
      = enterByLevel ev gate lin d u.flags.vm u.cpl (pushedFlags ev u v.draws) { v with draws := v.draws + 1 } := by
  rw [enterCode, run_get_bind]
  dsimp only
  rw [require_bind (by rw [hn]; rfl), run_bind_ok hd]
  dsimp only
  rw [require_bind hcode, require_bind hpres]
  rfl

end

section
variable {ev : Event} {gate d sd : Desc} {sel ss : Half} {lin slin image esp : Word} {s v w x y t : State}

/-- Entry at the same level: the return frame, CS and EIP, the error code (R955). -/
theorem run_enterSame (hroom : roomFor s.segs.ss s.regs.esp (3 * (gateSize gate).bytes + codeBytes (gateSize gate) ev.code) = true)
    (hfit : (d.toSeg sel).inLimit gate.gateOff 1 = true)
    (hframe : PushesItems (gateSize gate)
      [.value (flagsSlot (gateSize gate) s.flags image), .sel s.segs.cs.sel, .value s.eip] s v)
    (hmark : markAccessed lin d v = .ok () w)
    (hcode : PushesItems (gateSize gate) (codeItems ev.code) (atLevel w sel s.curCpl d gate.gateOff) t) :
    enterSame ev gate sel lin d image s = .ok () { t with flags := flagsEntered s.flags gate } := by
  rw [enterSame, run_get_bind, run_bind_ok (run_needRoom hroom), require_bind hfit, run_bind_ok (run_pushReturn hframe),
    run_bind_ok (run_loadGateTarget hmark), run_bind_ok (run_pushCode hcode), entryFlags_eq]
  rfl

/-- Entry at an inner level: its stack, CS and SS, and the frame on that stack (R953). -/
theorem run_enterInner
    (hstack : InnerStack d.dpl ev.ext (5 * (gateSize gate).bytes + codeBytes (gateSize gate) ev.code) s ss esp slin sd w)
    (hfit : (d.toSeg sel).inLimit gate.gateOff 1 = true)
    (henter : EntersLevel sel d.dpl lin d gate.gateOff ss slin sd sd.db esp w x)
    (hframe : PushesItems (gateSize gate)
      ([.sel s.segs.ss.sel, .value s.regs.esp, .value (flagsSlot (gateSize gate) s.flags image), .sel s.segs.cs.sel,
        .value s.eip] ++ codeItems ev.code) x t) :
    enterInner ev gate sel lin d image s = .ok () { t with flags := flagsEntered s.flags gate } := by
  obtain ⟨u, htss, hn, hd, hrpl, hdpl, hw, hpres, hroom⟩ := hstack
  obtain ⟨a, b, hcs, hss, rfl⟩ := henter
  have loaded : loadSp sd.db esp (withSeg b .ss (sd.accessed.toSeg ss)) = .ok () (onStack b ss sd sd.db esp) := rfl
  rw [enterInner, run_get_bind]
  dsimp only
  rw [run_bind_ok (run_innerStack htss ev.ext)]
  dsimp only
  rw [run_bind_ok (run_checkInnerSs hn hd hrpl hdpl hw hpres)]
  dsimp only
  rw [require_bind hroom, require_bind hfit, run_bind_ok (run_loadGateTarget hcs), run_bind_ok (run_loadFromDesc hss),
    run_bind_ok loaded, run_pushOuterFrame hframe, entryFlags_eq]
  rfl

/-- The data segment registers made null one after the other (R954). -/
theorem run_nullData {β : Type} {g : Segs} {r : SegReg} (h : s.segs = g.put .ss r) (rest : M β) :
    (do setSeg .gs (g.gs.null 0); setSeg .fs (g.fs.null 0); setSeg .ds (g.ds.null 0); setSeg .es (g.es.null 0); rest) s
      = rest (nullSegs s) := by
  rw [nullSegs, h, run_bind_ok (run_setSeg ..), run_bind_ok (run_setSeg ..), run_bind_ok (run_setSeg ..),
    run_bind_ok (run_setSeg ..), h]
  rfl

/-- Entry from virtual-8086 mode: the stack of level 0, the old data segments and the frame on it, and then CS
(R954). -/
theorem run_enterV86 (hstack : InnerStack 0 ev.ext (36 + codeBytes .d ev.code) s ss esp slin sd w)
    (hfit : (d.toSeg sel).inLimit gate.gateOff 1 = true)
    (hmark : markAccessed slin sd { w with flags := flagsEntered s.flags gate, cpl := 0 } = .ok () x)
    (hdata : PushesItems .d [.sel s.segs.gs.sel, .sel s.segs.fs.sel, .sel s.segs.ds.sel, .sel s.segs.es.sel]
      (onStack x ss sd true esp) y)
    (kept : SameContext (onStack x ss sd true esp) y)
    (hframe : PushesItems .d ([.sel s.segs.ss.sel, .value s.regs.esp, .value image, .sel s.segs.cs.sel, .value s.eip]
      ++ codeItems ev.code) (nullSegs y) v)
    (hcs : markAccessed lin d v = .ok () t) :
    enterV86 ev gate sel lin d image s = .ok () (atLevel t sel 0 d gate.gateOff) := by
  have old : y.segs = s.segs.put .ss (sd.accessed.toSeg ss) := by
    have marked : x.segs = w.segs := (sameContext_accessed (accessed_mark hmark)).segs
    rw [kept.segs, onStack_segs, marked, (sameContext_accessed (accessed_of_innerStack hstack)).segs]
  obtain ⟨u, htss, hn, hd, hrpl, hdpl, hw, hpres, hroom⟩ := hstack
  obtain ⟨a, hgs, b, hfs, c, hds, f, hes, rfl⟩ := hdata
  have pushGs : pushSel .d s.segs.gs.sel (onStack x ss sd true esp) = .ok () a := hgs
  have pushFs : pushSel .d s.segs.fs.sel a = .ok () b := hfs
  have pushDs : pushSel .d s.segs.ds.sel b = .ok () c := hds
  have pushEs : pushSel .d s.segs.es.sel c = .ok () y := hes
  have flags : setFlags (flagsEntered s.flags gate) w = .ok () { w with flags := flagsEntered s.flags gate } := rfl
  have level : setCpl 0 { w with flags := flagsEntered s.flags gate }
      = .ok () { w with flags := flagsEntered s.flags gate, cpl := 0 } := rfl
  have loaded : writeReg .d .esp esp (withSeg x .ss (sd.accessed.toSeg ss)) = .ok () (onStack x ss sd true esp) := rfl
  rw [enterV86, run_get_bind, run_bind_ok (run_innerStack htss ev.ext)]
  dsimp only
  rw [run_bind_ok (run_checkInnerSs hn hd hrpl hdpl hw hpres)]
  dsimp only
  rw [require_bind hroom, require_bind hfit, entryFlags_eq, run_bind_ok flags, run_bind_ok level,
    run_bind_ok (run_loadFromDesc hmark), run_bind_ok loaded, run_bind_ok pushGs, run_bind_ok pushFs,
    run_bind_ok pushDs, run_bind_ok pushEs, run_nullData old, run_pushOuterFrame hframe, run_loadGateTarget hcs]

end

/-! The clauses on code segments. -/

/-- An entry that began in `s` has read its gate, its code segment and its EFLAGS image, and goes on by the level of that
segment. -/
structure ReachesLevel (ev : Event) (gate : Desc) (lin : Word) (d : Desc) (s v : State) : Prop where
  protection : s.isReal = false
  access : Accessed s v
  entry : modeEntry ev s s
    = enterByLevel ev gate lin d s.flags.vm s.cpl (pushedFlags ev s v.draws) { v with draws := v.draws + 1 }

theorem curCpl_gate {s : State} (hreal : s.isReal = false) (hvm : s.flags.vm = false) : s.curCpl = s.cpl := by
  rw [State.curCpl, hreal, hvm]
  rfl

section
variable {ev : Event} {gate d : Desc} {lin : Word} {s v : State}

theorem ReachesLevel.drawn (h : ReachesLevel ev gate lin d s v) : Accessed s { v with draws := v.draws + 1 } :=
  accessed_trans h.access (accessed_draws ..)

theorem entersSame (h : ReachesLevel ev gate lin d s v) : EntersSame ev gate lin d s v := by
  have drawn := h.drawn
  obtain ⟨hreal, acc, hentry⟩ := h
  unfold EntersSame
  intro z b t w hvm hlevel hmem hroom hfit items hframe hmark start hcode
  obtain ⟨pushed, wf₁⟩ := pushed_of_pushesItems (s := { v with draws := v.draws + 1 }) (accessed_wf drawn hmem) hframe
  have marked := accessed_mark hmark
  obtain ⟨pushedCode, -⟩ := pushed_of_pushesItems (s := start)
    (show Mem.wf t.mem = true from accessed_wf marked wf₁) hcode
  refine ⟨pushed, marked, pushedCode, enter_ok (t := { w with flags := flagsEntered s.flags gate }) ?_⟩
  have notInner : (!d.conforming && decide (d.dpl.toNat < s.cpl.toNat)) = false := by
    rcases hlevel with hconf | hdpl
    · simp [hconf]
    · simp [hdpl]
  have same : (d.conforming || d.dpl == s.cpl) = true := by simpa using hlevel
  rw [hentry, hvm, enterByLevel]
  simp only [Bool.false_eq_true, if_false, notInner, same, if_true]
  obtain ⟨x, -, rfl⟩ := acc
  have cpl : State.curCpl { touched s x with draws := (touched s x).draws + 1 } = s.cpl := curCpl_gate hreal hvm
  exact run_enterSame (s := { touched s x with draws := (touched s x).draws + 1 }) hroom hfit hframe hmark
    (by rw [cpl]; exact hcode)

theorem entersInner (h : ReachesLevel ev gate lin d s v) : EntersInner ev gate lin d s v := by
  have drawn := h.drawn
  obtain ⟨hreal, acc, hentry⟩ := h
  unfold EntersInner
  intro z ss esp slin sd w x t hvm hnon hlt hmem hstack hfit henter items hframe
  have found := accessed_of_innerStack hstack
  have entered := levelEntered_of_entersLevel henter
  have wf : Mem.wf x.mem = true := levelEntered_wf entered (accessed_wf (accessed_trans drawn found) hmem)
  obtain ⟨pushed, -⟩ := pushed_of_pushesItems wf hframe
  refine ⟨found, entered, pushed, enter_ok (t := { t with flags := flagsEntered s.flags gate }) ?_⟩
  have inner : (!d.conforming && decide (d.dpl.toNat < s.cpl.toNat)) = true := by simp [hnon, hlt]
  rw [hentry, hvm, enterByLevel]
  simp only [Bool.false_eq_true, if_false, inner, if_true]
  obtain ⟨tr, -, rfl⟩ := acc
  exact run_enterInner (s := { touched s tr with draws := (touched s tr).draws + 1 }) hstack hfit henter hframe

theorem v86Gate_iff : (!d.conforming && d.dpl == 0 && gate.typ.getLsbD 3) = true ↔
    d.conforming = false ∧ d.dpl = 0 ∧ gateSize gate = .d := by
  unfold gateSize
  cases gate.typ.getLsbD 3 <;> simp

theorem entersFromV86 (h : ReachesLevel ev gate lin d s v) : EntersFromV86 ev gate lin d s v := by
  have drawn := h.drawn
  obtain ⟨hreal, acc, hentry⟩ := h
  intro hvm
  rw [hvm, enterByLevel] at hentry
  simp only [if_true] at hentry
  refine ⟨fun hbad => enter_error ?_, ?_⟩
  · rw [hentry, require_bind_false (Bool.eq_false_iff.mpr (mt v86Gate_iff.mp hbad))]
  · intro ss esp slin sd w x y z t hnon hdpl hsize hmem hstack hfit hmark data items hdata hframe hcs
    have found := accessed_of_innerStack hstack
    have marked := accessed_mark hmark
    have wf₁ : Mem.wf x.mem = true :=
      accessed_wf marked (show Mem.wf w.mem = true from accessed_wf (accessed_trans drawn found) hmem)
    obtain ⟨pushedData, wf₂⟩ := pushed_of_pushesItems (s := onStack x ss sd true esp) wf₁ hdata
    obtain ⟨pushedFrame, -⟩ := pushed_of_pushesItems (s := nullSegs y) wf₂ hframe
    refine ⟨found, marked, pushedData, pushedFrame, accessed_mark hcs, enter_ok ?_⟩
    rw [hentry, require_bind (v86Gate_iff.mpr ⟨hnon, hdpl, hsize⟩)]
    obtain ⟨tr, -, rfl⟩ := acc
    exact run_enterV86 (s := { touched s tr with draws := (touched s tr).draws + 1 }) hstack hfit hmark hdata
      (sameContext_pushedItems pushedData) hframe hcs

end

/-! Through a task gate (R956). -/

section
variable {ev : Event} {gate d : Desc} {lin : Word} {s u v : State}

/-- A task gate whose selector names no descriptor of the GDT (R90). -/
theorem enterTask_invalid (h : selNull gate.gateSel = true ∨ selTi gate.gateSel = true ∨ descAddr u gate.gateSel = none) :
    enterTask ev gate u = .error (.exc (.ts (selCode gate.gateSel ev.ext))) u := by
  rw [enterTask]
  dsimp only
  cases hok : !selNull gate.gateSel && !selTi gate.gateSel with
  | false => exact require_bind_false rfl
  | true =>
    obtain ⟨hn, hti⟩ : selNull gate.gateSel = false ∧ selTi gate.gateSel = false := by simpa using hok
    have outside : descAddr u gate.gateSel = none := by simpa [hn, hti] using h
    rw [require_bind rfl, run_bind_error (fetchDesc_none _ outside)]

/-- The error code on the stack of the new task, and the test of its EIP. -/
def startTask (z : Size) (c : Option ErrCode) : M Unit := do
  if c.isSome then needRoom z.bytes
  pushCode z c
  checkNewEip

theorem run_startTask {z : Size} {c : Option ErrCode} {t : State}
    (hroom : c ≠ none → roomFor s.segs.ss s.regs.esp z.bytes = true) (hpush : PushesItems z (codeItems c) s t) :
    startTask z c s = checkNewEip t := by
  have pushed : pushCode z c s = .ok () t := run_pushCode hpush
  cases c with
  | none => exact run_bind_ok pushed
  | some c =>
    have room : needRoom z.bytes s = .ok () s := run_needRoom (hroom nofun)
    exact (run_bind_ok room).trans (run_bind_ok pushed)

/-- What is left of an entry through a task gate once the descriptor of its TSS has been read. -/
def enterTss (ev : Event) (sel : Half) (lin : Word) (d : Desc) : M Unit := do
  require d.availTss (.ts (selCode sel ev.ext))
  require d.present (.np (selCode sel ev.ext))
  switchTask .call sel lin d ev.rf ev.ext
  modify fun s => { s with flags := { s.flags with rf := false } }
  startTask (if tss32 d.typ then .d else .w) ev.code

theorem run_enterTask (hn : selNull gate.gateSel = false) (hti : selTi gate.gateSel = false)
    (hd : fetchDesc gate.gateSel (.ts (selCode gate.gateSel ev.ext)) u = .ok (lin, d) v) :
    enterTask ev gate u = enterTss ev gate.gateSel lin d v := by
  rw [enterTask]
  dsimp only
  rw [require_bind (by rw [hn, hti]; rfl), run_bind_ok hd]
  rfl

theorem tssSize_eq (h : IsFreeTss d) : (if tss32 d.typ then .d else .w : Size) = if d.typ = 9 then .d else .w := by
  obtain ⟨-, h | h⟩ := h <;> rw [h] <;> rfl

theorem entersTask (hentry : modeEntry ev s s = enterTask ev gate u) : EntersTask ev gate s u := by
  refine ⟨fun hbad => enter_error (hentry.trans (enterTask_invalid hbad)), fun lin d v hn hti hd => ?_⟩
  rw [run_enterTask hn hti hd] at hentry
  refine ⟨accessed_fetch hd, fun hbusy => enter_error ?_, fun hfree hpres => enter_error ?_,
    fun a t hfree hpres hswitch => ?_⟩
  · exact hentry.trans (require_bind_false (Bool.eq_false_iff.mpr (mt (availTss_iff d).mp hbusy)))
  · rw [hentry, enterTss, require_bind ((availTss_iff d).mpr hfree), require_bind_false hpres]
  · intro z start hroom hpush hwf
    obtain ⟨pushed, -⟩ := pushed_of_pushesItems (s := start) hwf hpush
    have run : modeEntry ev s s = checkNewEip t := by
      rw [hentry, enterTss, require_bind ((availTss_iff d).mpr hfree), require_bind hpres, run_bind_ok hswitch,
        run_modify_bind, tssSize_eq hfree]
      exact run_startTask (s := start) hroom hpush
    exact ⟨pushed, fun hfit => enter_ok (run.trans (checkNewEip_ok hfit)),
      fun htrap hout => enter_error (run.trans (checkNewEip_error htrap hout))⟩

end

/-- Settles O45: the gate passes its checks or stops with the code of its IDT entry, and what it names decides how the
entry goes on: a task, or a code segment by the mode and the level. -/
theorem protectedEntryUsesTheGate : Obligations.ProtectedEntryUsesTheGate := by
  intro ev s hreal n code
  have gated : modeEntry ev s s = enterGate ev s := congrFun (modeEntry_gate hreal) s
  refine ⟨fun hlim => enter_error (gated.trans (enterGate_outside hlim)), fun gate u hlim hgate => ?_⟩
  have acc : Accessed s u := (accessed_readDesc _).ok hgate
  have passes : modeEntry ev s s = passGate ev gate s.curCpl u := gated.trans (run_enterGate hlim hgate)
  refine ⟨acc, fun h => enter_error (passes.trans (passGate_noGate h)),
    fun hok hsoft hdpl => enter_error (passes.trans (passGate_denied hok hsoft hdpl)), fun hok hsoft => ⟨fun hpres =>
      enter_error (passes.trans (passGate_absent hok hsoft hpres)), fun hpres htyp => ?_,
      fun lin d v hpres htyp hn hd hcode hdpres => ?_⟩⟩
  · refine entersTask ?_
    rw [passes, run_passGate hok hsoft hpres, if_pos htyp]
  · have read := accessed_fetch hd
    have reaches : ReachesLevel ev gate lin d s v := by
      refine ⟨hreal, accessed_trans acc read, ?_⟩
      have kept := sameContext_accessed acc
      rw [passes, run_passGate hok hsoft hpres, if_neg htyp, run_enterCode hn hd hcode hdpres, pushedFlags, kept.flags,
        kept.cpl]
      rfl
    exact ⟨read, entersSame reaches, entersInner reaches, entersFromV86 reaches⟩

end Sys2Proof.Machine
end

section
/-! PROOFS. The task switch (O60): its two halves, what the second half keeps of the task that it has installed, and the
fields of a TSS whose bytes are read without paging. -/

namespace Sys2Proof.Machine

/-! The steps of a switch (R990). -/

/-- The Busy bit of the old TSS, which JMP and IRET clear (R990 step 2). -/
def releaseOld (kind : TaskKind) (ext : Bool) : M Unit := if kind = .call then pure () else clearOldBusy ext

/-- The back link to the old task, which CALL writes into the new TSS (R990). -/
def writeLink (kind : TaskKind) (d : Desc) (sel : Half) : M Unit :=
  if kind = .call then do
    let n := if tss32 d.typ then 4 else 2
    let link ← padSel n sel
    sysWrite d.base n link
  else pure ()

/-- The Busy bit of the new TSS, which JMP and CALL set (R990). -/
def markNew (kind : TaskKind) (lin : Word) : M Unit := if kind = .iret then pure () else setBusy lin true

/-- The second half of a switch, after its commit point (R990 steps 8 to 16). -/
def loadTask (kind : TaskKind) (d : Desc) (ext : Bool) : M Unit := do
  let t ← onExc (readTask d) scrambleTask
  modify (installTask kind t)
  loadTaskSegs t ext
  onExc (raiseTrap d) scrambleTask

/-- A switch step by step: the steps that not every kind makes have their condition within them. -/
theorem run_switchTask (kind : TaskKind) (sel : Half) (lin : Word) (d : Desc) (rf ext : Bool) (s : State) :
    switchTask kind sel lin d rf ext s
      = (do
          require (decide ((if tss32 d.typ then 0x67 else 0x2B) ≤ d.limit.toNat)) (.ts (selCode sel ext))
          releaseOld kind ext
          saveTask (savedFlags kind rf s.flags) ext
          writeLink kind d s.sys.tr.sel
          markNew kind lin
          commitTask sel d
          loadTask kind d ext : M Unit) s := by
  unfold switchTask
  cases hlim : decide ((if tss32 d.typ then 0x67 else 0x2B) ≤ d.limit.toNat) with
  | false => rfl
  | true =>
    rw [require_bind rfl, require_bind rfl, run_get_bind]
    cases kind with
    | jmp => rfl
    | iret => rfl
    | call => rfl

theorem onExc_ok {α : Type} {m : M α} {f : State → State} {s t : State} {a : α} (h : onExc m f s = .ok a t) :
    m s = .ok a t := by
  rw [onExc] at h
  cases e : m s with
  | ok b u =>
    rw [e] at h
    exact h
  | error x u =>
    rw [e] at h
    cases x <;> cases h

/-! What the steps keep: the selectors and the rest of the task, TR, CR0 and the debug state. -/

/-- The same task stands in the state, with TR, CR0 and the debug state: only descriptor caches, memory and what an access
leaves may differ. -/
structure SameTask (s t : State) : Prop where
  regs : t.regs = s.regs
  eip : t.eip = s.eip
  flags : t.flags = s.flags
  queue : t.queue = s.queue
  dbg : t.dbg = s.dbg
  latches : t.latches = s.latches
  tr : t.sys.tr = s.sys.tr
  cr0 : t.sys.cr0 = s.sys.cr0
  ldt : t.sys.ldtr.sel = s.sys.ldtr.sel
  sels : ∀ r, (t.seg r).sel = (s.seg r).sel

theorem sameTask_refl (s : State) : SameTask s s := ⟨rfl, rfl, rfl, rfl, rfl, rfl, rfl, rfl, rfl, fun _ => rfl⟩

theorem SameTask.trans {s t u : State} (h : SameTask s t) (h' : SameTask t u) : SameTask s u :=
  ⟨h'.regs.trans h.regs, h'.eip.trans h.eip, h'.flags.trans h.flags, h'.queue.trans h.queue, h'.dbg.trans h.dbg,
    h'.latches.trans h.latches, h'.tr.trans h.tr, h'.cr0.trans h.cr0, h'.ldt.trans h.ldt,
    fun r => (h'.sels r).trans (h.sels r)⟩

theorem sameTask_accessed {s t : State} (h : Accessed s t) : SameTask s t := by
  obtain ⟨x, -, rfl⟩ := h
  exact ⟨rfl, rfl, rfl, rfl, rfl, rfl, rfl, rfl, rfl, fun _ => rfl⟩

/-- The computation leaves the task as it is, if it completes. -/
abbrev KeepsTask {α : Type} (m : M α) : Prop := Ends SameTask (fun _ _ => True) m

theorem composes_sameTask : Composes SameTask fun _ _ => True :=
  ⟨sameTask_refl, fun _ => trivial, fun _ _ _ => SameTask.trans, fun _ _ _ _ _ => trivial⟩

section
variable {α : Type}

theorem keepsTask_of_accessed {m : M α} (h : Ends Accessed AccessedStop m) : KeepsTask m :=
  ends_of (fun _ _ _ e => sameTask_accessed (h.ok e)) fun _ _ _ _ => trivial

theorem keepsTask_get_bind {f : State → M α} (h : ∀ s, KeepsTask (f s)) : KeepsTask ((get : M State) >>= f) :=
  ends_bind composes_sameTask (ends_get composes_sameTask) h

theorem keepsTask_sysWrite (lin : Word) (n : Nat) (v : Word) : KeepsTask (sysWrite lin n v) :=
  ends_bind composes_sameTask (keepsTask_of_accessed (accessed_physOf ..)) fun _ =>
    ends_modify fun _ => ⟨rfl, rfl, rfl, rfl, rfl, rfl, rfl, rfl, rfl, fun _ => rfl⟩

theorem keepsTask_padSel (n : Nat) (sel : Half) : KeepsTask (padSel n sel) :=
  ends_bind composes_sameTask (keepsTask_of_accessed (accessed_freeBits _)) fun _ => ends_pure composes_sameTask _

theorem keepsTask_setBusy (lin : Word) (busy : Bool) : KeepsTask (setBusy lin busy) :=
  ends_bind composes_sameTask (keepsTask_of_accessed (accessed_sysRead ..)) fun _ => keepsTask_sysWrite ..

theorem keepsTask_saveRegs (lin : Word) (n : Nat) (rs : List Reg) : KeepsTask (saveRegs lin n rs) := by
  induction rs generalizing lin with
  | nil => exact ends_pure composes_sameTask _
  | cons r rest ih =>
    exact keepsTask_get_bind fun _ => ends_bind composes_sameTask (keepsTask_sysWrite ..) fun _ => ih _

theorem keepsTask_saveSels (lin : Word) (n : Nat) (rs : List SReg) : KeepsTask (saveSels lin n rs) := by
  induction rs generalizing lin with
  | nil => exact ends_pure composes_sameTask _
  | cons r rest ih =>
    exact keepsTask_get_bind fun _ => ends_bind composes_sameTask (keepsTask_padSel ..) fun _ =>
      ends_bind composes_sameTask (keepsTask_sysWrite ..) fun _ => ih _

theorem keepsTask_saveTask (f : Flags) (ext : Bool) : KeepsTask (saveTask f ext) := by
  refine keepsTask_get_bind fun s => ends_bind composes_sameTask (ends_require composes_sameTask ..) fun _ =>
    ends_bind composes_sameTask
      (ends_bind composes_sameTask (keepsTask_of_accessed (accessed_freeBits _)) fun _ => ends_pure composes_sameTask _)
      fun image => ends_ite ?_ ?_
  all_goals
    exact ends_bind composes_sameTask (keepsTask_saveRegs ..) fun _ =>
      ends_bind composes_sameTask (keepsTask_saveSels ..) fun _ =>
        ends_bind composes_sameTask (keepsTask_sysWrite ..) fun _ => keepsTask_sysWrite ..

theorem keepsTask_switchCr3 (base : Word) : KeepsTask (switchCr3 base) := by
  refine keepsTask_get_bind fun s => ends_ite ?_ (ends_pure composes_sameTask _)
  refine ends_bind composes_sameTask (keepsTask_of_accessed (accessed_sysRead ..)) fun v =>
    ends_ite (ends_modify fun _ => ?_) (ends_pure composes_sameTask _)
  exact ⟨rfl, rfl, rfl, rfl, rfl, rfl, rfl, rfl, rfl, fun _ => rfl⟩

theorem accessed_freeBit : Ends Accessed AccessedStop freeBit := ⟨fun s => accessed_draws s _⟩

theorem accessed_readTask32 (base : Word) : Ends Accessed AccessedStop (readTask32 base) := by
  unfold readTask32
  iterate 17 refine ends_bind composes_accessed (accessed_sysRead ..) fun _ => ?_
  exact ends_pure composes_accessed _

theorem accessed_readTask16 (base : Word) : Ends Accessed AccessedStop (readTask16 base) := by
  unfold readTask16
  refine ends_bind composes_accessed (accessed_sysRead ..) fun _ => ends_bind composes_accessed accessed_freeBit fun _ => ?_
  refine ends_bind composes_accessed (accessed_sysRead ..) fun _ => ?_
  iterate 8 refine ends_bind composes_accessed (accessed_readHalfReg _) fun _ => ?_
  iterate 5 refine ends_bind composes_accessed (accessed_sysRead ..) fun _ => ?_
  exact ends_pure composes_accessed _

theorem keepsTask_readTask (d : Desc) : KeepsTask (readTask d) :=
  ends_ite
    (ends_bind composes_sameTask (keepsTask_switchCr3 _) fun _ => keepsTask_of_accessed (accessed_readTask32 _))
    (keepsTask_of_accessed (accessed_readTask16 _))

end

/-! The loads of the new task's segments keep the selectors that stand in the registers. -/

section
variable {sel : Half} {ext : Bool} {r : SReg} {lin : Word} {d : Desc} {img : TaskImage} {s t w : State}

theorem sameTask_withSeg {g : SegReg} (h : g.sel = (s.seg r).sel) : SameTask s (withSeg s r g) := by
  refine ⟨rfl, rfl, rfl, rfl, rfl, rfl, rfl, rfl, rfl, fun q => ?_⟩
  by_cases hq : q = r
  · subst hq
    exact (congrArg SegReg.sel (segs_get_put_same ..)).trans h
  · exact congrArg SegReg.sel (segs_get_put_other _ g hq)

theorem sameTask_loadFromDesc (hsel : (s.seg r).sel = sel) (h : loadFromDesc r sel lin d s = .ok () t) :
    SameTask s t := by
  obtain ⟨_, u, hmark, h⟩ := bind_ok h
  cases h
  have marked := sameTask_accessed (accessed_mark hmark)
  exact marked.trans (sameTask_withSeg (hsel.symm.trans (marked.sels r).symm))

theorem sameTask_switchLdt (hsel : s.sys.ldtr.sel = sel) (h : switchLdt sel ext s = .ok () t) : SameTask s t := by
  unfold switchLdt at h
  split at h
  · cases h
    exact sameTask_refl s
  · obtain ⟨-, h⟩ := require_bind_ok h
    obtain ⟨⟨_, d⟩, u, hfetch, h⟩ := bind_ok h
    obtain ⟨-, h⟩ := require_bind_ok h
    cases h
    have fetched := sameTask_accessed (accessed_fetch hfetch)
    exact { fetched with ldt := hsel.symm }

theorem sameTask_switchCs (hsel : (s.seg .cs).sel = sel) (h : switchCs sel ext s = .ok () t) : SameTask s t := by
  obtain ⟨-, h⟩ := require_bind_ok h
  obtain ⟨⟨lin, d⟩, u, hfetch, h⟩ := bind_ok h
  obtain ⟨-, h⟩ := require_bind_ok h
  obtain ⟨-, h⟩ := require_bind_ok h
  obtain ⟨-, h⟩ := require_bind_ok h
  obtain ⟨_, v, hload, h⟩ := bind_ok h
  cases h
  have fetched := sameTask_accessed (accessed_fetch hfetch)
  exact { fetched.trans (sameTask_loadFromDesc ((fetched.sels .cs).trans hsel) hload) with }

theorem sameTask_switchSs (hsel : (s.seg .ss).sel = sel) (h : switchSs sel ext s = .ok () t) : SameTask s t := by
  obtain ⟨-, h⟩ := require_bind_ok h
  obtain ⟨⟨lin, d⟩, u, hfetch, h⟩ := bind_ok h
  obtain ⟨-, h⟩ := require_bind_ok h
  rw [run_get_bind] at h
  obtain ⟨-, h⟩ := require_bind_ok h
  obtain ⟨-, h⟩ := require_bind_ok h
  have fetched := sameTask_accessed (accessed_fetch hfetch)
  exact fetched.trans (sameTask_loadFromDesc ((fetched.sels .ss).trans hsel) h)

theorem sameTask_switchData (hsel : (s.seg r).sel = sel) (h : switchData ext r sel s = .ok () t) : SameTask s t := by
  unfold switchData at h
  split at h
  · cases h
    exact sameTask_refl s
  · obtain ⟨⟨lin, d⟩, u, hfetch, h⟩ := bind_ok h
    obtain ⟨-, h⟩ := require_bind_ok h
    rw [run_get_bind] at h
    obtain ⟨-, h⟩ := require_bind_ok h
    obtain ⟨-, h⟩ := require_bind_ok h
    have fetched := sameTask_accessed (accessed_fetch hfetch)
    exact fetched.trans (sameTask_loadFromDesc ((fetched.sels r).trans hsel) h)

theorem runsTask_installTask (kind : TaskKind) (img : TaskImage) (s : State) : RunsTask img (installTask kind img s) :=
  ⟨rfl, rfl, rfl, rfl, rfl, rfl, rfl, rfl, rfl⟩

theorem RunsTask.sameTask (h : RunsTask img s) (same : SameTask s t) : RunsTask img t :=
  ⟨same.regs.trans h.regs, same.eip.trans h.eip, (same.sels .es).trans h.es, (same.sels .cs).trans h.cs,
    (same.sels .ss).trans h.ss, (same.sels .ds).trans h.ds, (same.sels .fs).trans h.fs, (same.sels .gs).trans h.gs,
    same.ldt.trans h.ldt⟩

theorem sameTask_loadTaskSegs (runs : RunsTask img s) (h : loadTaskSegs img ext s = .ok () t) : SameTask s t := by
  obtain ⟨_, u, hldt, h⟩ := bind_ok h
  have ldt := sameTask_switchLdt runs.ldt hldt
  have runs := runs.sameTask ldt
  rw [run_get_bind] at h
  split at h
  · cases h
    refine ldt.trans ⟨rfl, rfl, rfl, rfl, rfl, rfl, rfl, rfl, rfl, fun r => ?_⟩
    cases r with
    | es => exact runs.es.symm
    | cs => exact runs.cs.symm
    | ss => exact runs.ss.symm
    | ds => exact runs.ds.symm
    | fs => exact runs.fs.symm
    | gs => exact runs.gs.symm
  · obtain ⟨_, v₁, hcs, h⟩ := bind_ok h
    obtain ⟨_, v₂, hss, h⟩ := bind_ok h
    obtain ⟨_, v₃, hds, h⟩ := bind_ok h
    obtain ⟨_, v₄, hes, h⟩ := bind_ok h
    obtain ⟨_, v₅, hfs, hgs⟩ := bind_ok h
    have cs := sameTask_switchCs runs.cs hcs
    have ss := cs.trans (sameTask_switchSs (runs.sameTask cs).ss hss)
    have ds := ss.trans (sameTask_switchData (r := .ds) (runs.sameTask ss).ds hds)
    have es := ds.trans (sameTask_switchData (r := .es) (runs.sameTask ds).es hes)
    have fs := es.trans (sameTask_switchData (r := .fs) (runs.sameTask es).fs hfs)
    exact ldt.trans (fs.trans (sameTask_switchData (r := .gs) (runs.sameTask fs).gs hgs))

/-- The T bit, read last, changes only the latch of the debug trap. -/
theorem trapWaits_of_raiseTrap (latches : w.latches = s.latches) (h : raiseTrap d w = .ok () t) :
    TrapWaits d s w t ∧ ∃ l, SameTask { w with latches := l } t := by
  unfold raiseTrap at h
  split at h
  · rename_i h32
    obtain ⟨v, x, hread, h⟩ := bind_ok h
    have acc := (accessed_sysRead ..).ok hread
    have same : x.latches = s.latches := (sameTask_accessed acc).latches.trans latches
    have put : t = { x with
        latches := { x.latches with trap := if v.getLsbD 0 then s.latches.trap ||| 0x8000 else s.latches.trap } } := by
      rw [← same]
      split at h <;> cases h
      · rw [if_pos ‹_›]
      · rw [if_neg ‹_›]
    refine ⟨(if_pos h32).mpr ⟨v, x, hread, acc, put⟩, t.latches, ?_⟩
    subst put
    exact { sameTask_accessed acc with latches := rfl }
  · rename_i h16
    cases h
    exact ⟨(if_neg h16).mpr ⟨rfl, congrArg Latches.trap latches⟩, _, sameTask_refl t⟩

end

/-! The first half of a switch, and the whole (R990). -/

section
variable {kind : TaskKind} {sel : Half} {lin : Word} {d : Desc} {rf ext : Bool} {f : Flags} {s a b t u : State}

/-- JMP and IRET clear the Busy bit of the old TSS, CALL leaves it. -/
theorem releaseOld_iff : releaseOld kind ext s = .ok () a ↔
    if kind = .call then a = s else OldNotBusy s a := by
  unfold releaseOld
  split
  · constructor
    · rintro ⟨⟩
      rfl
    · rintro rfl
      rfl
  · rw [OldNotBusy, clearOldBusy, run_get_bind]
    cases descAddr s (s.sys.tr.sel &&& 0xFFF8) with
    | none => exact ⟨nofun, fun ⟨_, h, _⟩ => nomatch h⟩
    | some old => exact ⟨fun h => ⟨old, rfl, h⟩, fun ⟨_, hold, h⟩ => Option.some.inj hold ▸ h⟩

theorem releaseOld_none (hkind : kind ≠ .call) (h : descAddr s (s.sys.tr.sel &&& 0xFFF8) = none) :
    releaseOld kind ext s = .error (.exc (.ts (selCode s.sys.tr.sel ext))) s := by
  rw [releaseOld, if_neg hkind, clearOldBusy, run_get_bind, h]
  rfl

theorem sameTask_releaseOld (h : if kind = .call then a = s else OldNotBusy s a) : SameTask s a := by
  split at h
  · exact h ▸ sameTask_refl s
  · obtain ⟨old, -, h⟩ := h
    exact (keepsTask_setBusy ..).ok h

theorem saveTask_fits (h : saveTask f ext a = .ok () b) : savedEnd a.sys.tr.typ ≤ a.sys.tr.limit.toNat :=
  of_decide_eq_true (require_bind_ok h).1

theorem saveTask_short (h : a.sys.tr.limit.toNat < savedEnd a.sys.tr.typ) :
    saveTask f ext a = .error (.exc (.ts (selCode a.sys.tr.sel ext))) a :=
  require_bind_false (decide_eq_false (Nat.not_le.mpr h))

theorem switchTask_short (h : d.limit.toNat < if d.typ.getLsbD 3 then 0x67 else 0x2B) :
    switchTask kind sel lin d rf ext s = .error (.exc (.ts (selCode sel ext))) s :=
  require_bind_false (decide_eq_false (Nat.not_le.mpr h))

/-- The old TSS has no descriptor in the GDT whose Busy bit could be cleared (log entry 57). -/
theorem switchTask_noDescriptor (hlim : (if d.typ.getLsbD 3 then 0x67 else 0x2B) ≤ d.limit.toNat) (hkind : kind ≠ .call)
    (h : descAddr s (s.sys.tr.sel &&& 0xFFF8) = none) :
    switchTask kind sel lin d rf ext s = .error (.exc (.ts (selCode s.sys.tr.sel ext))) s := by
  have fits : decide ((if tss32 d.typ then 0x67 else 0x2B) ≤ d.limit.toNat) = true := decide_eq_true hlim
  rw [run_switchTask, require_bind fits]
  exact run_bind_error (releaseOld_none hkind h)

/-- The old TSS is too short for the fields saved in it (log entry 57). -/
theorem switchTask_saveShort (hlim : (if d.typ.getLsbD 3 then 0x67 else 0x2B) ≤ d.limit.toNat)
    (hold : if kind = .call then a = s else OldNotBusy s a) (h : s.sys.tr.limit.toNat < savedEnd s.sys.tr.typ) :
    switchTask kind sel lin d rf ext s = .error (.exc (.ts (selCode s.sys.tr.sel ext))) a := by
  have fits : decide ((if tss32 d.typ then 0x67 else 0x2B) ≤ d.limit.toNat) = true := decide_eq_true hlim
  have tr : a.sys.tr = s.sys.tr := (sameTask_releaseOld hold).tr
  rw [run_switchTask, require_bind fits, run_bind_ok (releaseOld_iff.mpr hold), ← tr]
  exact run_bind_error (saveTask_short (tr ▸ h))

theorem switchTask_ok (h : switchTask kind sel lin d rf ext s = .ok () t) :
    ∃ u, SwitchedOut kind sel lin d rf ext s u ∧ loadTask kind d ext u = .ok () t := by
  rw [run_switchTask] at h
  obtain ⟨-, h⟩ := require_bind_ok h
  obtain ⟨_, a, hold, h⟩ := bind_ok h
  obtain ⟨_, b, hsave, h⟩ := bind_ok h
  obtain ⟨_, c, hlink, h⟩ := bind_ok h
  obtain ⟨_, e, hbusy, h⟩ := bind_ok h
  have hold := releaseOld_iff.mp hold
  have tr : a.sys.tr = s.sys.tr := (sameTask_releaseOld hold).tr
  refine ⟨_, ⟨a, b, c, e, hold, tr ▸ saveTask_fits hsave, hsave, ?_, ?_, rfl⟩, h⟩
  · unfold writeLink at hlink
    split at hlink
    · rw [if_pos ‹_›]
      exact hlink
    · rw [if_neg ‹_›]
      cases hlink
      rfl
  · unfold markNew at hbusy
    split at hbusy
    · rw [if_pos ‹_›]
      cases hbusy
      rfl
    · rw [if_neg ‹_›]
      exact hbusy

theorem switchedOut_keeps (h : SwitchedOut kind sel lin d rf ext s u) :
    u.dbg = s.dbg ∧ u.latches = s.latches ∧
      u.sys.tr = { sel := sel, base := d.base, limit := d.limit, typ := d.typ ||| 2 } ∧ u.sys.cr0.ts = true := by
  obtain ⟨a, b, c, e, hold, -, hsave, hlink, hbusy, rfl⟩ := h
  have saved : SameTask s b := (sameTask_releaseOld hold).trans ((keepsTask_saveTask ..).ok hsave)
  have linked : SameTask b c := by
    split at hlink
    · exact (sameTask_accessed (accessed_draws b _)).trans ((keepsTask_sysWrite ..).ok hlink)
    · exact hlink ▸ sameTask_refl b
  have busy : SameTask c e := by
    split at hbusy
    · exact hbusy ▸ sameTask_refl c
    · exact (keepsTask_setBusy ..).ok hbusy
  have kept := (saved.trans linked).trans busy
  exact ⟨kept.dbg, kept.latches, rfl, rfl⟩

/-- The new task stands in the state from the moment it is installed; what comes after loads its caches and its trap. -/
theorem loadTask_ok (h : loadTask kind d ext u = .ok () t) (latches : u.latches = s.latches) :
    ∃ img v w, readTask d u = .ok img v ∧ SameTask u v ∧ SameTask (installTask kind img v) w ∧ TrapWaits d s w t ∧
      ∃ l, SameTask { w with latches := l } t := by
  obtain ⟨img, v, hread, h⟩ := bind_ok h
  rw [run_modify_bind] at h
  obtain ⟨_, w, hsegs, htrap⟩ := bind_ok h
  have hread := onExc_ok hread
  have read : SameTask u v := (keepsTask_readTask d).ok hread
  have loaded := sameTask_loadTaskSegs (runsTask_installTask kind img v) hsegs
  exact ⟨img, v, w, hread, read, loaded,
    trapWaits_of_raiseTrap (loaded.latches.trans (read.latches.trans latches)) (onExc_ok htrap)⟩

/-- A switch that completes (R990). -/
theorem switchTask_completes (h : switchTask kind sel lin d rf ext s = .ok () t) :
    t.sys.tr = { sel := sel, base := d.base, limit := d.limit, typ := d.typ ||| 2 } ∧ t.sys.cr0.ts = true ∧
      (∃ u img v w, SwitchedOut kind sel lin d rf ext s u ∧ readTask d u = .ok img v ∧ RunsTask img w ∧ RunsTask img t ∧
        TrapWaits d s w t ∧
        t.flags = { flagsOf img.eflags with
          rf := img.rf
          nt := if kind = .jmp then false else if kind = .call then true else img.eflags.getLsbD 14 }) ∧
      t.dbg.dr7 = s.dbg.dr7 &&& ~~~0x155#32 ∧ t.queue = [] := by
  obtain ⟨u, out, h⟩ := switchTask_ok h
  obtain ⟨hdbg, hlatches, htr, hts⟩ := switchedOut_keeps out
  obtain ⟨img, v, w, hread, read, loaded, htrap, l, last⟩ := loadTask_ok h hlatches
  have runs : RunsTask img w := (runsTask_installTask kind img v).sameTask loaded
  have tr : t.sys.tr = u.sys.tr := last.tr.trans (loaded.tr.trans read.tr)
  have cr0 : t.sys.cr0 = u.sys.cr0 := last.cr0.trans (loaded.cr0.trans read.cr0)
  have flags : t.flags = (installTask kind img v).flags := last.flags.trans loaded.flags
  have dbg : t.dbg = (installTask kind img v).dbg := last.dbg.trans loaded.dbg
  refine ⟨tr.trans htr, cr0 ▸ hts, ⟨u, img, v, w, out, hread, runs, ?_, htrap, ?_⟩, ?_, last.queue.trans loaded.queue⟩
  · exact RunsTask.sameTask (s := { w with latches := l }) { runs with } last
  · rw [flags]
    cases kind <;> rfl
  · rw [dbg, ← hdbg, ← read.dbg]
    rfl

end

/-! The fields of a 386 SX TSS, read without paging (R143, R230). -/

section
variable {lin base : Word} {n : Nat} {s t w : State} {v : Word} {d : Desc} {img : TaskImage}

/-- With paging off the processor's own read gives the bytes at the linear address, truncated to 24 bits. -/
theorem sysRead_direct (hpg : s.sys.cr0.pg = false) (hn : n ≤ 4)
    (mapped : ∀ i, i < n → regionAt s.regions (physAt lin i) ≠ .unmapped) (h : sysRead lin n s = .ok v t) :
    t = s ∧ ∀ i, i < n → byteOf v i = Mem.read s.mem (physAt lin i) := by
  have reached := pagesReached_direct hpg lin n (Access.system false)
  have addr : ∀ i, i < n → (byteAddr lin (directTrans lin) (directTrans (lin + BitVec.ofNat 32 (n - 1))) i).toNat
      = physAt lin i := fun i hi => pagedAt_direct hn hi
  have bytes := run_physReadAll (s := s)
    (as := (List.range n).map (byteAddr lin (directTrans lin) (directTrans (lin + BitVec.ofNat 32 (n - 1)))))
    (by
      intro a ha
      obtain ⟨i, hi, rfl⟩ := List.mem_map.mp ha
      rw [addr i (List.mem_range.mp hi)]
      exact mapped i (List.mem_range.mp hi))
  rw [sysRead, linRead, run_bind_ok (run_physOf reached), run_bind_ok bytes, List.map_map] at h
  cases h
  refine ⟨rfl, fun i hi => ?_⟩
  rw [(leValue_bytes _ hn).2 i hi, Function.comp_apply, addr i hi]

theorem physAt_add (base : Word) (off k : Nat) : physAt (base + BitVec.ofNat 32 off) k = physAt base (off + k) := by
  rw [physAt, physAt, BitVec.add_assoc, ← BitVec.ofNat_add]

/-- The bytes of a 386 SX TSS can be read as they stand in memory. -/
structure TssMapped (base : Word) (s : State) : Prop where
  direct : s.sys.cr0.pg = false
  mapped : ∀ k, k < 0x68 → regionAt s.regions (physAt base k) ≠ .unmapped

/-- The value `v` has the `n` bytes of memory at an offset from a linear address. -/
def HasBytes (s : State) (base : Word) (off n : Nat) (v : Word) : Prop :=
  ∀ k, k < n → byteOf v k = Mem.read s.mem (physAt (base + BitVec.ofNat 32 off) k)

/-- A field is read, and the state is as before. -/
theorem TssMapped.field {α : Type} {f : Word → M α} {a : α} (h : TssMapped base s) (off : Nat) (hn : n ≤ 4)
    (hoff : off + n ≤ 0x68) (run : (sysRead (base + BitVec.ofNat 32 off) n >>= f) s = .ok a t) :
    ∃ v, HasBytes s base off n v ∧ f v s = .ok a t := by
  obtain ⟨v, u, hread, rest⟩ := bind_ok run
  obtain ⟨rfl, bytes⟩ := sysRead_direct h.direct hn (fun k hk => physAt_add base off k ▸ h.mapped _ (by omega)) hread
  exact ⟨v, bytes, rest⟩

theorem TssMapped.dword {α : Type} {f : Word → M α} {a : α} (h : TssMapped base s) (off : Nat) (hoff : off ≤ 0x64)
    (run : (sysRead (base + BitVec.ofNat 32 off) 4 >>= f) s = .ok a t) :
    ∃ v, HasBytes s base off 4 v ∧ f v s = .ok a t := h.field off (Nat.le_refl 4) (by omega) run

theorem TssMapped.word {α : Type} {f : Word → M α} {a : α} (h : TssMapped base s) (off : Nat) (hoff : off ≤ 0x64)
    (run : (sysRead (base + BitVec.ofNat 32 off) 2 >>= f) s = .ok a t) :
    ∃ v, HasBytes s base off 2 v ∧ f v s = .ok a t := h.field off (by decide) (by omega) run

/-- The low half of a value has the value's low bytes. -/
theorem HasBytes.half {off : Nat} (h : HasBytes s base off 2 v) :
    ∀ k, k < 2 → (v.setWidth 16 : Half).extractLsb' (8 * k) 8 = Mem.read s.mem (physAt (base + BitVec.ofNat 32 off) k) := by
  intro k hk
  rw [← h k hk]
  apply BitVec.eq_of_getLsbD_eq
  intro i hi
  simp [byteOf, hi]
  omega

theorem readTask32_bytes (h : TssMapped base s) (run : readTask32 base s = .ok img t) :
    (∀ x ∈ tssDwords img, ∀ k, k < 4 → byteOf x.2 k = Mem.read s.mem (physAt (base + BitVec.ofNat 32 x.1) k)) ∧
    (∀ x ∈ tssWords img, ∀ k, k < 2 →
      x.2.extractLsb' (8 * k) 8 = Mem.read s.mem (physAt (base + BitVec.ofNat 32 x.1) k)) ∧
    img.rf = img.eflags.getLsbD 16 := by
  obtain ⟨_, eflags, run⟩ := h.dword 0x24 (by decide) run
  obtain ⟨_, eip, run⟩ := h.dword 0x20 (by decide) run
  obtain ⟨_, eax, run⟩ := h.dword 0x28 (by decide) run
  obtain ⟨_, ecx, run⟩ := h.dword 0x2C (by decide) run
  obtain ⟨_, edx, run⟩ := h.dword 0x30 (by decide) run
  obtain ⟨_, ebx, run⟩ := h.dword 0x34 (by decide) run
  obtain ⟨_, esp, run⟩ := h.dword 0x38 (by decide) run
  obtain ⟨_, ebp, run⟩ := h.dword 0x3C (by decide) run
  obtain ⟨_, esi, run⟩ := h.dword 0x40 (by decide) run
  obtain ⟨_, edi, run⟩ := h.dword 0x44 (by decide) run
  obtain ⟨_, ldt, run⟩ := h.word 0x60 (by decide) run
  obtain ⟨_, es, run⟩ := h.word 0x48 (by decide) run
  obtain ⟨_, cs, run⟩ := h.word 0x4C (by decide) run
  obtain ⟨_, ss, run⟩ := h.word 0x50 (by decide) run
  obtain ⟨_, ds, run⟩ := h.word 0x54 (by decide) run
  obtain ⟨_, fs, run⟩ := h.word 0x58 (by decide) run
  obtain ⟨_, gs, run⟩ := h.word 0x5C (by decide) run
  cases run
  refine ⟨?_, ?_, rfl⟩
  · simp only [tssDwords, List.forall_mem_cons]
    exact ⟨eip, eflags, eax, ecx, edx, ebx, esp, ebp, esi, edi, nofun⟩
  · simp only [tssWords, List.forall_mem_cons]
    exact ⟨es.half, cs.half, ss.half, ds.half, fs.half, gs.half, ldt.half, nofun⟩

theorem run_switchCr3 (hpg : s.sys.cr0.pg = false) (base : Word) : switchCr3 base s = .ok () s := by
  rw [switchCr3, run_get_bind, if_neg (by simp [hpg])]
  rfl

theorem trapWaits_direct (h32 : d.typ.getLsbD 3 = true) (hpg : w.sys.cr0.pg = false)
    (mapped : ∀ k, k < 2 → regionAt w.regions (physAt (d.base + 0x64) k) ≠ .unmapped) (h : TrapWaits d s w t) :
    t.latches.trap
      = if (Mem.read w.mem (physAt (d.base + 0x64) 0)).getLsbD 0 then s.latches.trap ||| 0x8000
        else s.latches.trap := by
  obtain ⟨v, x, hread, -, rfl⟩ := (if_pos h32).mp h
  obtain ⟨-, bytes⟩ := sysRead_direct hpg (by decide) mapped hread
  have bit : v.getLsbD 0 = (byteOf v 0).getLsbD 0 := by simp [byteOf]
  rw [← bytes 0 (by decide), ← bit]

end

/-- Settles O60: the halves of a switch give the clause of a switch that completes, the bytes of a TSS its fields, and the
tests of the limits stand before the first change. -/
theorem taskSwitchLoadsTheNewTask : Obligations.TaskSwitchLoadsTheNewTask := by
  unfold Obligations.TaskSwitchLoadsTheNewTask
  refine ⟨fun kind sel lin d rf ext s t h => switchTask_completes h, fun d u img v h32 hpg mapped h => ?_,
    fun d s w t => trapWaits_direct, fun kind sel lin d rf ext s => switchTask_short, ?_⟩
  · obtain ⟨_, x, hcr3, h⟩ := bind_ok (show (switchCr3 d.base >>= fun _ => readTask32 d.base) u = .ok img v from
      (congrFun (if_pos h32) u).symm.trans h)
    rw [run_switchCr3 hpg] at hcr3
    cases hcr3
    exact readTask32_bytes ⟨hpg, mapped⟩ h
  · intro kind sel lin d rf ext s hlim old
    exact ⟨switchTask_noDescriptor hlim, fun a => switchTask_saveShort hlim⟩

end Sys2Proof.Machine
end
